-- ==== Sys2Proof/Word.lean ====
section
/-! DEFINITION. The word types of the Oxien and the sparse map that every sparse piece of state uses
(Scope and Conventions, R3 and R7). -/

namespace Sys2Proof

/-- A scalar register or a 64-bit status register (R268). -/
abbrev Word := BitVec 64

/-- One byte of any memory (R3). -/
abbrev Byte := BitVec 8

/-- A 57-bit virtual address (R181, R290). -/
abbrev Va := BitVec 57

/-- A 6-bit register field of a strand word (R268). -/
abbrev Reg := BitVec 6

/-- Sparse data by key: the keys rise strictly and no entry equals what an unlisted key reads as. -/
abbrev Sparse (α : Type) := List (Nat × α)

end Sys2Proof
end

