-- ==== Sys2Proof/Syntax.lean ====
section
/-! DEFINITION. The syntax: strand words, engine words and the device's own steps, one constructor per row of the
opcode table (Tables 15-5 to 15-11, 4-5). -/

namespace Sys2Proof

/-- A vector word without its opcode (Table 15-8). -/
structure VWord where
  mod : BitVec 3 := 0
  fmt : BitVec 6 := 0
  lnt : BitVec 4 := 0
  await : BitVec 10 := 0
  raise : BitVec 10 := 0
  dst : BitVec 18 := 0
  a : BitVec 18 := 0
  b : BitVec 18 := 0
  rsv : BitVec 2 := 0
  deriving DecidableEq, Repr

/-- A matrix word without its opcode (Table 15-9). -/
structure MWord where
  fmtA : BitVec 6 := 0
  fmtB : BitVec 6 := 0
  accm : BitVec 2 := 0
  bank : BitVec 2 := 0
  await : BitVec 10 := 0
  raise : BitVec 10 := 0
  n16 : BitVec 5 := 0
  lnt : BitVec 4 := 0
  scale : BitVec 4 := 0
  ava : BitVec 57 := 0
  aux : BitVec 7 := 0
  bva : BitVec 57 := 0
  flags : BitVec 14 := 0
  deriving DecidableEq, Repr

/-- A copy word without its opcode (Table 15-10). -/
structure CWord where
  mod : BitVec 3 := 0
  await : BitVec 10 := 0
  raise : BitVec 10 := 0
  tsra : BitVec 51 := 0
  ch : BitVec 5 := 0
  tsrsp : Bool := false
  rsv : BitVec 9 := 0
  deriving DecidableEq, Repr

/-- An admin command (R50): the issuing function, the CID and the operand bytes 8 to 63. -/
structure AdminCmd where
  fn : Nat
  opc : Byte
  cid : BitVec 16
  ops : BitVec 448
  deriving DecidableEq, Repr

/-- What an acoustic strike sensor reports as struck (R159). -/
inductive StruckUnit where
  /-- the core's vector engine -/
  | vector
  /-- the core's matrix engine -/
  | matrix
  /-- storage or data paths under ECC: corrected in place -/
  | protectedStorage
  deriving DecidableEq, Repr

/-- An error as it reaches its error bank (Table 14-4). -/
structure ErrorReport where
  cause : Byte
  kind : Byte
  unit : BitVec 16
  fn : BitVec 6
  addr : BitVec 64
  deriving DecidableEq, Repr

/-- What the hardware reports at the end of a start step (R61): links or ports that Table 1-1 counts are missing, or the scan
self-test failed. -/
inductive StartOutcome where
  | ok
  | insufficient
  | scanFailure
  deriving DecidableEq, Repr

/-- A queue of a function's BAR0 page (R46). -/
inductive QueueId where
  | admsq
  | admcq
  | cq
  | fq
  | launch (n : Nat)
  deriving DecidableEq, Repr

/-- The AtomicOps the device completes on BAR2 (Table 4-1). -/
inductive HostAtomic where
  | fetchAdd
  | swap
  | cas
  deriving DecidableEq, Repr

/-- A fabric packet: its header (Table 3-4) and its payload bytes. -/
structure Packet where
  type : Byte := 0
  fmt : Byte := 0
  srcPeer : BitVec 16 := 0
  dstFn : Byte := 0
  status : Byte := 0
  xfer : BitVec 16 := 0
  region : Byte := 0
  rsv : Byte := 0
  offset : BitVec 48 := 0
  len : BitVec 16 := 0
  slot : BitVec 16 := 0
  count : BitVec 32 := 0
  delta : BitVec 32 := 0
  semid : BitVec 32 := 0
  payload : List Byte := []
  deriving DecidableEq, Repr

/-- The ONE instruction type: one constructor per row of the opcode table. The first 160 are strand words, the next 54
engine words, the rest the device's own steps and events. -/
inductive Instr where
  /-- ADD (R291): Writes s[a] + s[b], modulo 2^64, to s[d]. -/
  | add (d : BitVec 6) (a : BitVec 6) (b : BitVec 6)
  /-- SUB (R291): Writes s[a] − s[b], modulo 2^64, to s[d]. -/
  | sub (d : BitVec 6) (a : BitVec 6) (b : BitVec 6)
  /-- AND (R291): Writes the bitwise AND of s[a] and s[b] to s[d]. -/
  | and (d : BitVec 6) (a : BitVec 6) (b : BitVec 6)
  /-- OR (R291): Writes the bitwise OR of s[a] and s[b] to s[d]. -/
  | or (d : BitVec 6) (a : BitVec 6) (b : BitVec 6)
  /-- XOR (R291): Writes the bitwise XOR of s[a] and s[b] to s[d]. -/
  | xor (d : BitVec 6) (a : BitVec 6) (b : BitVec 6)
  /-- ANDN (R291): Writes s[a] AND NOT s[b] to s[d]. -/
  | andn (d : BitVec 6) (a : BitVec 6) (b : BitVec 6)
  /-- SLL (R291): Shifts s[a] left by s[b][5:0] and writes s[d]. -/
  | sll (d : BitVec 6) (a : BitVec 6) (b : BitVec 6)
  /-- SRL (R291): Shifts s[a] right logically by s[b][5:0] and writes s[d]. -/
  | srl (d : BitVec 6) (a : BitVec 6) (b : BitVec 6)
  /-- SRA (R291): Shifts s[a] right arithmetically by s[b][5:0] and writes s[d]. -/
  | sra (d : BitVec 6) (a : BitVec 6) (b : BitVec 6)
  /-- MUL (R291): Writes the low 64 bits of the product of s[a] and s[b] to s[d]. -/
  | mul (d : BitVec 6) (a : BitVec 6) (b : BitVec 6)
  /-- MULHU (R291): Writes the high 64 bits of the unsigned product to s[d]. -/
  | mulhu (d : BitVec 6) (a : BitVec 6) (b : BitVec 6)
  /-- MULHS (R291): Writes the high 64 bits of the signed product to s[d]. -/
  | mulhs (d : BitVec 6) (a : BitVec 6) (b : BitVec 6)
  /-- DIV (R292): Signed division truncated towards zero, with the fixed results for a zero divisor and for overflow. -/
  | div (d : BitVec 6) (a : BitVec 6) (b : BitVec 6)
  /-- DIVU (R292): Unsigned division; a zero divisor gives all ones. -/
  | divu (d : BitVec 6) (a : BitVec 6) (b : BitVec 6)
  /-- REM (R292): Signed remainder; a zero divisor gives the dividend. -/
  | rem (d : BitVec 6) (a : BitVec 6) (b : BitVec 6)
  /-- REMU (R292): Unsigned remainder; a zero divisor gives the dividend. -/
  | remu (d : BitVec 6) (a : BitVec 6) (b : BitVec 6)
  /-- MIN (R291): Writes the signed minimum of s[a] and s[b] to s[d]. -/
  | min (d : BitVec 6) (a : BitVec 6) (b : BitVec 6)
  /-- MAX (R291): Writes the signed maximum of s[a] and s[b] to s[d]. -/
  | max (d : BitVec 6) (a : BitVec 6) (b : BitVec 6)
  /-- MINU (R291): Writes the unsigned minimum of s[a] and s[b] to s[d]. -/
  | minu (d : BitVec 6) (a : BitVec 6) (b : BitVec 6)
  /-- MAXU (R291): Writes the unsigned maximum of s[a] and s[b] to s[d]. -/
  | maxu (d : BitVec 6) (a : BitVec 6) (b : BitVec 6)
  /-- SLT (R291): Writes 1 to s[d] if s[a] < s[b] as signed values, else 0. -/
  | slt (d : BitVec 6) (a : BitVec 6) (b : BitVec 6)
  /-- SLTU (R291): Writes 1 to s[d] if s[a] < s[b] as unsigned values, else 0. -/
  | sltu (d : BitVec 6) (a : BitVec 6) (b : BitVec 6)
  /-- SEQ (R291): Writes 1 to s[d] if s[a] equals s[b], else 0. -/
  | seq (d : BitVec 6) (a : BitVec 6) (b : BitVec 6)
  /-- CLZ (R291): Counts the leading zero bits of s[a]. -/
  | clz (d : BitVec 6) (a : BitVec 6)
  /-- CTZ (R291): Counts the trailing zero bits of s[a]. -/
  | ctz (d : BitVec 6) (a : BitVec 6)
  /-- POPC (R291): Counts the set bits of s[a]. -/
  | popc (d : BitVec 6) (a : BitVec 6)
  /-- SEXT (R291): Sign-extends the byte, half or word of s[a] that the width code selects. -/
  | sext (d : BitVec 6) (a : BitVec 6) (w : BitVec 6)
  /-- ZEXT (R291): Zero-extends the byte, half or word of s[a] that the width code selects. -/
  | zext (d : BitVec 6) (a : BitVec 6) (w : BitVec 6)
  /-- ADDI (R293): Adds the sign-extended immediate to s[a]. -/
  | addi (d : BitVec 6) (a : BitVec 6) (imm : BitVec 14)
  /-- ANDI (R293): ANDs s[a] with the zero-extended immediate. -/
  | andi (d : BitVec 6) (a : BitVec 6) (imm : BitVec 14)
  /-- ORI (R293): ORs s[a] with the zero-extended immediate. -/
  | ori (d : BitVec 6) (a : BitVec 6) (imm : BitVec 14)
  /-- XORI (R293): XORs s[a] with the zero-extended immediate. -/
  | xori (d : BitVec 6) (a : BitVec 6) (imm : BitVec 14)
  /-- SLTI (R293): Signed compare of s[a] with the immediate. -/
  | slti (d : BitVec 6) (a : BitVec 6) (imm : BitVec 14)
  /-- SLTIU (R293): Unsigned compare of s[a] with the sign-extended immediate. -/
  | sltiu (d : BitVec 6) (a : BitVec 6) (imm : BitVec 14)
  /-- SLLI (R293): Shifts s[a] left by an immediate amount. -/
  | slli (d : BitVec 6) (a : BitVec 6) (sh : BitVec 6)
  /-- SRLI (R293): Shifts s[a] right logically by an immediate amount. -/
  | srli (d : BitVec 6) (a : BitVec 6) (sh : BitVec 6)
  /-- SRAI (R293): Shifts s[a] right arithmetically by an immediate amount. -/
  | srai (d : BitVec 6) (a : BitVec 6) (sh : BitVec 6)
  /-- LI (R294): Loads a sign-extended 20-bit immediate into s[d]. -/
  | li (d : BitVec 6) (imm : BitVec 20)
  /-- LIH (R294): Shifts s[d] left by 20 and inserts a 20-bit immediate. -/
  | lih (d : BitVec 6) (imm : BitVec 20)
  /-- FADD (R296): Scalar FP32 or FP64 addition, rounded RNE. -/
  | fadd (dbl : Bool) (d : BitVec 6) (a : BitVec 6) (b : BitVec 6)
  /-- FSUB (R296): Scalar floating-point subtraction. -/
  | fsub (dbl : Bool) (d : BitVec 6) (a : BitVec 6) (b : BitVec 6)
  /-- FMUL (R296): Scalar floating-point multiplication. -/
  | fmul (dbl : Bool) (d : BitVec 6) (a : BitVec 6) (b : BitVec 6)
  /-- FDIV (R296): Scalar floating-point division. -/
  | fdiv (dbl : Bool) (d : BitVec 6) (a : BitVec 6) (b : BitVec 6)
  /-- FSQRT (R296): Scalar floating-point square root. -/
  | fsqrt (dbl : Bool) (d : BitVec 6) (a : BitVec 6)
  /-- FMIN (R296): Scalar floating-point minimum, with −0 below +0. -/
  | fmin (dbl : Bool) (d : BitVec 6) (a : BitVec 6) (b : BitVec 6)
  /-- FMAX (R296): Scalar floating-point maximum. -/
  | fmax (dbl : Bool) (d : BitVec 6) (a : BitVec 6) (b : BitVec 6)
  /-- FMA (R296): Fused multiply-add into s[d], rounded once. -/
  | fma (dbl : Bool) (d : BitVec 6) (a : BitVec 6) (b : BitVec 6)
  /-- FCMPEQ (R296): Floating-point equality compare. -/
  | fcmpeq (dbl : Bool) (d : BitVec 6) (a : BitVec 6) (b : BitVec 6)
  /-- FCMPLT (R296): Floating-point less-than compare. -/
  | fcmplt (dbl : Bool) (d : BitVec 6) (a : BitVec 6) (b : BitVec 6)
  /-- FCMPLE (R296): Floating-point less-or-equal compare. -/
  | fcmple (dbl : Bool) (d : BitVec 6) (a : BitVec 6) (b : BitVec 6)
  /-- FCLASS (R296): Writes the class mask of a floating-point value. -/
  | fclass (dbl : Bool) (d : BitVec 6) (a : BitVec 6)
  /-- FCVT (R297): Converts between scalar float and integer formats in the encoded mode. -/
  | fcvt (dbl : Bool) (d : BitVec 6) (a : BitVec 6) (code : BitVec 6)
  /-- BEQ (R298): Branches if s[a] equals s[b]. -/
  | beq (a : BitVec 6) (b : BitVec 6) (off : BitVec 14)
  /-- BNE (R298): Branches if s[a] differs from s[b]. -/
  | bne (a : BitVec 6) (b : BitVec 6) (off : BitVec 14)
  /-- BLT (R298): Branches if s[a] < s[b], signed. -/
  | blt (a : BitVec 6) (b : BitVec 6) (off : BitVec 14)
  /-- BGE (R298): Branches if s[a] ≥ s[b], signed. -/
  | bge (a : BitVec 6) (b : BitVec 6) (off : BitVec 14)
  /-- BLTU (R298): Branches if s[a] < s[b], unsigned. -/
  | bltu (a : BitVec 6) (b : BitVec 6) (off : BitVec 14)
  /-- BGEU (R298): Branches if s[a] ≥ s[b], unsigned. -/
  | bgeu (a : BitVec 6) (b : BitVec 6) (off : BitVec 14)
  /-- JAL (R299): Links PC + 4 into s[d] and jumps PC-relative. -/
  | jal (d : BitVec 6) (off : BitVec 20)
  /-- JALR (R299): Links and jumps to s[a] plus a word displacement, trapping if misaligned. -/
  | jalr (d : BitVec 6) (a : BitVec 6) (imm : BitVec 14)
  /-- LOOP (R300): Skips the body for a zero count, or pushes a loop-stack entry and enters the body. -/
  | loop (a : BitVec 6) (off : BitVec 14)
  /-- MFS (R303): Reads a status register into s[d]. -/
  | mfs (d : BitVec 6) (num : BitVec 12)
  /-- MTS (R303): Writes s[d] into the RW fields of a status register, under that register's own rules. -/
  | mts (d : BitVec 6) (num : BitVec 12)
  /-- VDQ (R304): Writes the distance between two virtual dies, computed on the node's capture. -/
  | vdq (d : BitVec 6) (a : BitVec 6) (b : BitVec 6)
  /-- SFLAG (R305): Reads FLAGS and clears the flags that s[a] selects, in one indivisible step. -/
  | sflag (d : BitVec 6) (a : BitVec 6)
  /-- RDID (R306): Writes the identity value that the selector names. -/
  | rdid (d : BitVec 6) (sel : BitVec 6)
  /-- LD (R310): Loads 1, 2, 4 or 8 bytes through a handle, sign- or zero-extended. -/
  | ld (d : BitVec 6) (h : BitVec 4) (w : BitVec 2) (x : Bool) (a : BitVec 6) (imm : BitVec 7)
  /-- ST (R310): Stores 1, 2, 4 or 8 bytes through a handle. -/
  | st (b : BitVec 6) (h : BitVec 4) (w : BitVec 2) (a : BitVec 6) (imm : BitVec 7)
  /-- LDS (R312): Loads from the strand's own scratchpad. -/
  | lds (d : BitVec 6) (w : BitVec 2) (x : Bool) (a : BitVec 6) (imm : BitVec 11)
  /-- STS (R312): Stores to the strand's own scratchpad, after the alias check. -/
  | sts (d : BitVec 6) (w : BitVec 2) (a : BitVec 6) (imm : BitVec 11)
  /-- PF (R311): Prefetches a line, shared or exclusive; it takes no event. -/
  | pf (h : BitVec 4) (w : BitVec 2) (x : Bool) (a : BitVec 6) (imm : BitVec 7)
  /-- TRANS (R183): Sets a handle's VA, starts a walk on a TLB miss, and returns after 24 cycles. -/
  | trans (h : BitVec 6) (a : BitVec 6)
  /-- HINV (R308): Makes a handle INVALID and abandons its pending walk. -/
  | hinv (h : BitVec 6)
  /-- HQRY (R309): Writes the state and attributes of a handle. -/
  | hqry (d : BitVec 6) (h : BitVec 6)
  /-- ATOM32_ADD (R313): 32-bit atomic fetch-and-add at the site of the target. -/
  | atom32Add (d : BitVec 6) (h : BitVec 4) (a : BitVec 6) (b : BitVec 6)
  /-- ATOM32_AND (R313): 32-bit atomic AND. -/
  | atom32And (d : BitVec 6) (h : BitVec 4) (a : BitVec 6) (b : BitVec 6)
  /-- ATOM32_OR (R313): 32-bit atomic OR. -/
  | atom32Or (d : BitVec 6) (h : BitVec 4) (a : BitVec 6) (b : BitVec 6)
  /-- ATOM32_XOR (R313): 32-bit atomic XOR. -/
  | atom32Xor (d : BitVec 6) (h : BitVec 4) (a : BitVec 6) (b : BitVec 6)
  /-- ATOM32_MIN (R313): 32-bit atomic signed minimum. -/
  | atom32Min (d : BitVec 6) (h : BitVec 4) (a : BitVec 6) (b : BitVec 6)
  /-- ATOM32_MAX (R313): 32-bit atomic signed maximum. -/
  | atom32Max (d : BitVec 6) (h : BitVec 4) (a : BitVec 6) (b : BitVec 6)
  /-- ATOM32_MINU (R313): 32-bit atomic unsigned minimum. -/
  | atom32Minu (d : BitVec 6) (h : BitVec 4) (a : BitVec 6) (b : BitVec 6)
  /-- ATOM32_MAXU (R313): 32-bit atomic unsigned maximum. -/
  | atom32Maxu (d : BitVec 6) (h : BitVec 4) (a : BitVec 6) (b : BitVec 6)
  /-- ATOM32_XCHG (R313): 32-bit atomic exchange. -/
  | atom32Xchg (d : BitVec 6) (h : BitVec 4) (a : BitVec 6) (b : BitVec 6)
  /-- ATOM32_CAS (R313): 32-bit atomic compare-and-swap with comparand s[d]. -/
  | atom32Cas (d : BitVec 6) (h : BitVec 4) (a : BitVec 6) (b : BitVec 6)
  /-- ATOM32_FADD (R313): FP32 atomic add, rounded RNE. -/
  | atom32Fadd (d : BitVec 6) (h : BitVec 4) (a : BitVec 6) (b : BitVec 6)
  /-- ATOM32_FMIN (R313): FP32 atomic minimum. -/
  | atom32Fmin (d : BitVec 6) (h : BitVec 4) (a : BitVec 6) (b : BitVec 6)
  /-- ATOM32_FMAX (R313): FP32 atomic maximum. -/
  | atom32Fmax (d : BitVec 6) (h : BitVec 4) (a : BitVec 6) (b : BitVec 6)
  /-- ATOM64_ADD (R313): 64-bit atomic fetch-and-add. -/
  | atom64Add (d : BitVec 6) (h : BitVec 4) (a : BitVec 6) (b : BitVec 6)
  /-- ATOM64_AND (R313): 64-bit atomic AND. -/
  | atom64And (d : BitVec 6) (h : BitVec 4) (a : BitVec 6) (b : BitVec 6)
  /-- ATOM64_OR (R313): 64-bit atomic OR. -/
  | atom64Or (d : BitVec 6) (h : BitVec 4) (a : BitVec 6) (b : BitVec 6)
  /-- ATOM64_XOR (R313): 64-bit atomic XOR. -/
  | atom64Xor (d : BitVec 6) (h : BitVec 4) (a : BitVec 6) (b : BitVec 6)
  /-- ATOM64_MIN (R313): 64-bit atomic signed minimum. -/
  | atom64Min (d : BitVec 6) (h : BitVec 4) (a : BitVec 6) (b : BitVec 6)
  /-- ATOM64_MAX (R313): 64-bit atomic signed maximum. -/
  | atom64Max (d : BitVec 6) (h : BitVec 4) (a : BitVec 6) (b : BitVec 6)
  /-- ATOM64_MINU (R313): 64-bit atomic unsigned minimum. -/
  | atom64Minu (d : BitVec 6) (h : BitVec 4) (a : BitVec 6) (b : BitVec 6)
  /-- ATOM64_MAXU (R313): 64-bit atomic unsigned maximum. -/
  | atom64Maxu (d : BitVec 6) (h : BitVec 4) (a : BitVec 6) (b : BitVec 6)
  /-- ATOM64_XCHG (R313): 64-bit atomic exchange. -/
  | atom64Xchg (d : BitVec 6) (h : BitVec 4) (a : BitVec 6) (b : BitVec 6)
  /-- ATOM64_CAS (R313): 64-bit atomic compare-and-swap. -/
  | atom64Cas (d : BitVec 6) (h : BitVec 4) (a : BitVec 6) (b : BitVec 6)
  /-- ATOM64_FADD (R313): FP64 atomic add. -/
  | atom64Fadd (d : BitVec 6) (h : BitVec 4) (a : BitVec 6) (b : BitVec 6)
  /-- ATOM64_FMIN (R313): FP64 atomic minimum. -/
  | atom64Fmin (d : BitVec 6) (h : BitVec 4) (a : BitVec 6) (b : BitVec 6)
  /-- ATOM64_FMAX (R313): FP64 atomic maximum. -/
  | atom64Fmax (d : BitVec 6) (h : BitVec 4) (a : BitVec 6) (b : BitVec 6)
  /-- LEASE (R314): Obtains a line exclusively in the L1 and holds it for at most LEASEMAX cycles. -/
  | lease (h : BitVec 4) (a : BitVec 6)
  /-- UNLEASE (R314): Ends the lease and reports whether it had already ended. -/
  | unlease (d : BitVec 6)
  /-- FENCE (R315): Orders the strand's own accesses by kind and scope, after the scope-policy checks. -/
  | fence (kind : BitVec 2) (scope : BitVec 3) (win : BitVec 6)
  /-- RCFENCE (R315): Makes earlier stores visible to the record caches and marks the cached records stale. -/
  | rcfence
  /-- SWAIT (R317): Delivers a matching engine exception, or else waits GE (subtracting) or EQ on a semaphore. -/
  | swait (eq : Bool) (a : BitVec 6) (b : BitVec 6)
  /-- SSIG (R316): Adds a signed delta to a semaphore, clamped to 0 and 0xFFFF_FFFF, as a release. -/
  | ssig (a : BitVec 6) (b : BitVec 6)
  /-- SREAD (R316): Reads a semaphore value. -/
  | sread (d : BitVec 6) (a : BitVec 6)
  /-- SINIT (R316): Sets a semaphore to a value. -/
  | sinit (a : BitVec 6) (b : BitVec 6)
  /-- SALIAS (R318): Binds an alias slot to a physical semaphore, once no retained word names the slot. -/
  | salias (n : BitVec 6) (a : BitVec 6)
  /-- WAITQ (R319): Claims a wait record, appends it to a hardware queue and suspends the strand. -/
  | waitq (d : BitVec 6) (h : BitVec 4) (a : BitVec 6)
  /-- WAKE (R319): Removes and wakes up to n queued waiters. -/
  | wake (d : BitVec 6) (h : BitVec 4) (a : BitVec 6) (b : BitVec 6)
  /-- BAR (R320): Gang barrier: completes once every strand has arrived at the same generation. -/
  | bar
  /-- ENQ (R322): Enqueues an engine word held in registers into a ring, with the N check and the copy-word alias check. -/
  | enq (ring : BitVec 6) (a : BitVec 6) (b : BitVec 6)
  /-- RINGQ (R323): Delivers a pending exception of the ring, or else reads a ring field as an acquire. -/
  | ringq (d : BitVec 6) (ring : BitVec 6) (field : BitVec 6)
  /-- PDEF (R324): Defines a pipe once no retained word names it. -/
  | pdef (q : BitVec 6) (a : BitVec 6)
  /-- PADV (R324): Pops the head slot of a pipe with the strand as consumer. -/
  | padv (q : BitVec 6)
  /-- TAKE (R325): Returns the next range of a DYNAMIC level, stealing when the own range is empty. -/
  | take (d : BitVec 6) (lvl : BitVec 6) (b : BitVec 6)
  /-- LNTW (R326): Copies a 272-byte image into the shadow copy of an LNT slot. -/
  | lntw (slot : BitVec 4) (eng : Bool) (a : BitVec 6)
  /-- LNTGO (R326): Makes the shadow copy active once no retained word names the slot. -/
  | lntgo (slot : BitVec 4) (eng : Bool)
  /-- FMTW (R326): Writes a format-table entry once no retained word uses FMT 0x3F. -/
  | fmtw (e : BitVec 6) (a : BitVec 6)
  /-- TLD (R334): Appends a VA leaf node from a tile descriptor, entering the alias CAM and walking its pages. -/
  | tld (td : BitVec 6) (a : BitVec 6)
  /-- TLDS (R334): Appends a scratch leaf node from a tile descriptor. -/
  | tlds (td : BitVec 6) (a : BitVec 6)
  /-- TFILL (R335): Appends a scalar constant node. -/
  | tfill (td : BitVec 6) (a : BitVec 6) (fmt : BitVec 6)
  /-- TMM (R336): Appends a matrix-product node. -/
  | tmm (ofmt : BitVec 3) (td : BitVec 6) (ta : BitVec 6) (tb : BitVec 6)
  /-- TMMS (R336): Appends a block-scaled matrix-product node. -/
  | tmms (ofmt : BitVec 3) (td : BitVec 6) (ta : BitVec 6) (tb : BitVec 6)
  /-- TEW_ADD (R337): Appends an elementwise addition node. -/
  | tewAdd (td : BitVec 6) (ta : BitVec 6) (tb : BitVec 6)
  /-- TEW_SUB (R337): Appends an elementwise subtraction node. -/
  | tewSub (td : BitVec 6) (ta : BitVec 6) (tb : BitVec 6)
  /-- TEW_MUL (R337): Appends an elementwise multiplication node. -/
  | tewMul (td : BitVec 6) (ta : BitVec 6) (tb : BitVec 6)
  /-- TEW_DIV (R337): Appends an elementwise division node. -/
  | tewDiv (td : BitVec 6) (ta : BitVec 6) (tb : BitVec 6)
  /-- TEW_MAX (R337): Appends an elementwise maximum node. -/
  | tewMax (td : BitVec 6) (ta : BitVec 6) (tb : BitVec 6)
  /-- TEW_MIN (R337): Appends an elementwise minimum node. -/
  | tewMin (td : BitVec 6) (ta : BitVec 6) (tb : BitVec 6)
  /-- TUN_EXP (R337): Appends an elementwise exponential node. -/
  | tunExp (td : BitVec 6) (ta : BitVec 6)
  /-- TUN_LOG (R337): Appends an elementwise logarithm node. -/
  | tunLog (td : BitVec 6) (ta : BitVec 6)
  /-- TUN_RCP (R337): Appends an elementwise reciprocal node. -/
  | tunRcp (td : BitVec 6) (ta : BitVec 6)
  /-- TUN_RSQ (R337): Appends an elementwise reciprocal square root node. -/
  | tunRsq (td : BitVec 6) (ta : BitVec 6)
  /-- TUN_TANH (R337): Appends an elementwise tanh node. -/
  | tunTanh (td : BitVec 6) (ta : BitVec 6)
  /-- TUN_SILU (R337): Appends an elementwise SiLU node. -/
  | tunSilu (td : BitVec 6) (ta : BitVec 6)
  /-- TUN_NEG (R337): Appends an elementwise negation node. -/
  | tunNeg (td : BitVec 6) (ta : BitVec 6)
  /-- TUN_ABS (R337): Appends an elementwise absolute-value node. -/
  | tunAbs (td : BitVec 6) (ta : BitVec 6)
  /-- TCVT (R337): Appends a conversion node with a target format and rounding mode. -/
  | tcvt (mode : BitVec 3) (td : BitVec 6) (ta : BitVec 6) (fmt : BitVec 6)
  /-- TRED (R338): Appends a sum or max reduction node along an axis. -/
  | tred (isMax : Bool) (axis : BitVec 2) (td : BitVec 6) (ta : BitVec 6)
  /-- TSEL (R337): Appends a select node whose condition is the node named by td. -/
  | tsel (td : BitVec 6) (ta : BitVec 6) (tb : BitVec 6)
  /-- TMAP (R340): Appends an index-map node with a copy of a map register. -/
  | tmap (td : BitVec 6) (ta : BitVec 6) (m : BitVec 4) (sr : BitVec 5)
  /-- MAPSET (R339): Loads a map register from scratch. -/
  | mapset (m : BitVec 6) (a : BitVec 6)
  /-- MAPROW (R339): Writes one row of a map register. -/
  | maprow (row : BitVec 2) (m : BitVec 6) (a : BitVec 6) (b : BitVec 6)
  /-- TSTORE (R342): Demands a node's whole extent to a VA or scratch destination, planning its words. -/
  | tstore (sp : Bool) (ta : BitVec 6) (b : BitVec 6)
  /-- FORCE (R342): Demands a box of a node to a destination or the arena; FORCE.W also waits for the join. -/
  | force (wait : Bool) (ta : BitVec 6) (b : BitVec 6)
  /-- TDROP (R343): Unnames a node, freeing it once no plan reads it. -/
  | tdrop (ta : BitVec 6)
  /-- TQRY (R344): Reads a node or table property. -/
  | tqry (d : BitVec 6) (ta : BitVec 6) (sel : BitVec 3)
  /-- TARENA (R345): Declares or removes the arena once no plan is in flight. -/
  | tarena (a : BitVec 6) (b : BitVec 6)
  /-- TRAP (R382): Takes the precise software trap event with its immediate. -/
  | trap (n : BitVec 18)
  /-- ERET (R383): Returns from a handler to TRAPPC and clears INH. -/
  | eret
  /-- EXIT (R384): Ends the strand's issue, ends its lease, empties the loop stack and passes its FLAGS to CTXFLAGS. -/
  | exit
  /-- PAUSE (R385): Idles the strand for a cycle count. -/
  | pause (a : BitVec 6)
  /-- WFE (R386): Waits for the core's event latch, with an optional limit. -/
  | wfe (d : BitVec 6) (a : BitVec 6)
  /-- PYLD (R388): Counts a pre-emption point and stops here for a pending save. -/
  | pyld
  /-- CTXSV (R390): Writes a save slot of the strand under software control and continues. -/
  | ctxsv (d : BitVec 6) (a : BitVec 6)
  /-- CTXLD (R391): Reloads the strand from a save slot and resumes at its saved PC. -/
  | ctxld (a : BitVec 6)
  /-- LIVE (R389): Installs a LIVE descriptor and marks a save point. -/
  | live (a : BitVec 6)
  /-- DBGBRK (R382): Takes the precise break event. -/
  | dbgbrk
  /-- VMOV (R349): Vector copy or conversion of elements to FMT. -/
  | vmov (word : VWord)
  /-- VADD (R349): Vector elementwise addition. -/
  | vadd (word : VWord)
  /-- VSUB (R349): Vector elementwise subtraction. -/
  | vsub (word : VWord)
  /-- VMUL (R349): Vector elementwise multiplication. -/
  | vmul (word : VWord)
  /-- VFMA (R349): Vector fused multiply-add with the addend in stream 3. -/
  | vfma (word : VWord)
  /-- VDIV (R349): Vector elementwise division. -/
  | vdiv (word : VWord)
  /-- VMIN (R349): Vector elementwise minimum. -/
  | vmin (word : VWord)
  /-- VMAX (R349): Vector elementwise maximum. -/
  | vmax (word : VWord)
  /-- VABS (R349): Vector absolute value. -/
  | vabs (word : VWord)
  /-- VNEG (R349): Vector negation. -/
  | vneg (word : VWord)
  /-- VEXP (R350): Vector exponential within its error bound. -/
  | vexp (word : VWord)
  /-- VLOG (R350): Vector natural logarithm. -/
  | vlog (word : VWord)
  /-- VRCP (R350): Vector reciprocal. -/
  | vrcp (word : VWord)
  /-- VRSQ (R350): Vector reciprocal square root. -/
  | vrsq (word : VWord)
  /-- VTANH (R350): Vector hyperbolic tangent. -/
  | vtanh (word : VWord)
  /-- VSILU (R350): Vector SiLU. -/
  | vsilu (word : VWord)
  /-- VCMP (R351): Vector compare writing one I8 per element. -/
  | vcmp (word : VWord)
  /-- VSEL (R351): Vector select by the I8 condition of stream 3. -/
  | vsel (word : VWord)
  /-- VAND (R351): Vector bitwise AND. -/
  | vand (word : VWord)
  /-- VOR (R351): Vector bitwise OR. -/
  | vor (word : VWord)
  /-- VXOR (R351): Vector bitwise XOR. -/
  | vxor (word : VWord)
  /-- VSHL (R351): Vector shift left. -/
  | vshl (word : VWord)
  /-- VSHR (R351): Vector shift right, logical or arithmetic. -/
  | vshr (word : VWord)
  /-- VCVT (R352): Vector conversion from a source format in a rounding mode. -/
  | vcvt (word : VWord)
  /-- VQNT (R353): Vector quantisation into scaled blocks with E8S scales. -/
  | vqnt (word : VWord)
  /-- VRSUM (R354): Vector sum reduction of each run. -/
  | vrsum (word : VWord)
  /-- VRMAX (R354): Vector max reduction of each run. -/
  | vrmax (word : VWord)
  /-- VSCAN (R354): Vector inclusive prefix sum of each run. -/
  | vscan (word : VWord)
  /-- VGATH (R355): Vector gather from a scratch table by I32 indices. -/
  | vgath (word : VWord)
  /-- VSCAT (R355): Vector scatter to a scratch table by I32 indices. -/
  | vscat (word : VWord)
  /-- VHINS (R356): Inserts key-value pairs into a scratch hash table, ending with XCODE 0x27 at the probe limit. -/
  | vhins (word : VWord)
  /-- VHDRN (R357): Drains the occupied slots of a hash table, with their count. -/
  | vhdrn (word : VWord)
  /-- VDRN (R359): Drains accumulator values through a fused chain of up to four steps. -/
  | vdrn (word : VWord)
  /-- VADV (R360): Advances one or two pipes at confirmation. -/
  | vadv (word : VWord)
  /-- VNOP (R360): Only awaits and raises. -/
  | vnop (word : VWord)
  /-- MMA (R364): Runs matrix tile steps into an accumulator bank over its loop nest. -/
  | mma (word : MWord)
  /-- MMAS (R366): Runs matrix tile steps with E8S block scales. -/
  | mmas (word : MWord)
  /-- MSPM (R367): Runs matrix tile steps with a 2:4 sparse A. -/
  | mspm (word : MWord)
  /-- MZERO (R368): Zeroes a bank and records its MZSEQ. -/
  | mzero (word : MWord)
  /-- MCMT (R368): Commits the working banks of enabled pairs to their snapshots and then raises. -/
  | mcmt (word : MWord)
  /-- MNOP (R368): Only awaits and raises on the M ring. -/
  | mnop (word : MWord)
  /-- CCOPY (R372): Copies elements in destination linear order under a TSR. -/
  | ccopy (word : CWord)
  /-- CCVT (R372): Copies elements with a format conversion. -/
  | ccvt (word : CWord)
  /-- CGATH (R373): Copy with a gathered outermost source dimension. -/
  | cgath (word : CWord)
  /-- CSCAT (R373): Copy with a scattered outermost destination dimension. -/
  | cscat (word : CWord)
  /-- CFILL (R372): Fills a destination with a rounded constant. -/
  | cfill (word : CWord)
  /-- CSEND (R374): Sends elements as fabric WRITE packets, with an optional SIGNAL packet. -/
  | csend (word : CWord)
  /-- CRED (R375): Sends one contribution to a fabric reduction slot. -/
  | cred (word : CWord)
  /-- CSUB (R376): Stream unit fills pipe slots of the issuing core from its stack. -/
  | csub (word : CWord)
  /-- CDRAIN (R376): Stream unit drains pipe slots to memory on its stack. -/
  | cdrain (word : CWord)
  /-- SGATH (R373): Gather unit copies with a gathered source dimension from its stack. -/
  | sgath (word : CWord)
  /-- SRED (R377): Reduction unit adds source elements into destination elements at memory. -/
  | sred (word : CWord)
  /-- SCVT (R372): Conversion unit converts elements from its stack. -/
  | scvt (word : CWord)
  /-- CNOP (R370): Only awaits and raises on a C ring. -/
  | cnop (word : CWord)
  /-- WORD_CONFIRM (R141): After the confirmation delay with no strike, confirms an engine word, ORs its flags, applies its raise, sets DONE and advances RHEAD. -/
  | wordConfirm (core : Nat) (ring : Nat)
  /-- SEMAPHORE_WAKE (R144): A semaphore write satisfies a waiting SWAIT or engine await, which is served in arrival order. -/
  | semaphoreWake (die : Nat) (idx : Nat)
  /-- STEAL_REQUEST (R402): A victim core answers a steal request by splitting its own range. -/
  | stealRequest (thief : Nat) (victim : Nat)
  /-- STEAL_ANSWER (R122): A thief receives a steal answer and continues its TAKE. -/
  | stealAnswer (thief : Nat)
  /-- PAUSE_END (R385): The PAUSE count expires and the instruction retires. -/
  | pauseEnd (core : Nat)
  /-- WFE_WAKE (R386): A waiting WFE returns once the event latch is set, reading and clearing it. -/
  | wfeWake (core : Nat)
  /-- WFE_LIMIT_EXPIRY (R386): A WFE limit expires and the WFE returns 0. -/
  | wfeLimitExpiry (core : Nat)
  /-- LEASE_EXPIRY (R177): A lease ends after LEASEMAX cycles. -/
  | leaseExpiry (core : Nat)
  /-- WALK_COMPLETE (R183): A page walk ends, making a handle VALID or posting a fault entry. -/
  | walkComplete (core : Nat) (h : Nat)
  /-- LAUNCH_RECORD_FETCH (R117): Fetches a launch record into the node table, checks it and applies held decrements. -/
  | launchRecordFetch (fn : Nat) (q : Nat)
  /-- GANG_PLACE (R119): Places a ready gang on free owned cores, starting all of its strands in the same cycle. -/
  | gangPlace (die : Nat) (cluster : Nat)
  /-- SLICE_END (R123): At the end of a slice, the cluster selects a function by stride pass and decides pre-emptions. -/
  | sliceEnd (die : Nat) (cluster : Nat) (cycles : Nat)
  /-- CLUSTER_IDLE_SELECT (R123): An idle cluster selects a function at once when one becomes eligible. -/
  | clusterIdleSelect (die : Nat) (cluster : Nat)
  /-- DRAIN_DEADLINE (R129): A draining gang not done after D is decided again by rows 2–4. -/
  | drainDeadline (gang : Nat)
  /-- GANG_SAVE (R129): Once the rings are empty at a LIVE or PYLD point, saves the named state to a slot. -/
  | gangSave (core : Nat)
  /-- SAVE_TIMEOUT (R129): A core with no save point within 20 µs is saved with its full context. -/
  | saveTimeout (core : Nat)
  /-- GANG_RESTORE (R267): Restores a saved gang, all or none, on cores of the same shape and die. -/
  | gangRestore (gang : Nat) (die : Nat) (cluster : Nat)
  /-- INSTANCE_COMPLETE (R131): An instance completes once every strand has exited and every ring is empty. -/
  | instanceComplete (gang : Nat)
  /-- ROLLING_RESET (R163): At its turn in ROLLPERIOD, an engine is reset at its next boundary. -/
  | rollingReset (core : Nat) (ring : Nat)
  /-- ENGINE_RESET_DONE (R158): A reset engine has reloaded and replays retained words from their marks. -/
  | engineResetDone (core : Nat) (ring : Nat)
  /-- DIE_RESET_DONE (R70): A die reset completes and leaves the die in its last accepted power state. -/
  | dieResetDone (die : Nat)
  /-- VOLTAGE_RAMP_DONE (R21): The voltage change of a transition completes, and the clock switch follows. -/
  | voltageRampDone (die : Nat)
  /-- CLOCK_SWITCH_DONE (R21): The clock switch ends, completing the transition and updating CUR. -/
  | clockSwitchDone (die : Nat)
  /-- PORT_RETRAIN (R40): After 16 retries of one flit, the port retrains. -/
  | portRetrain (port : Nat)
  /-- FABRIC_SIGNAL_APPLY (R37): Once COUNT data packets have landed, adds DELTA to the semaphore and sends the ACK. -/
  | fabricSignalApply (peer : Nat) (xfer : Nat)
  /-- REDUCTION_SLOT_COMPLETE (R38): Once every contribution has landed, sums in port order, writes the result, frees the slot and applies the signals. -/
  | reductionSlotComplete (fn : Nat) (die : Nat) (region : Nat) (slot : Nat)
  /-- DLOG_ARM_COMPLETION (R89): The armed DLOG_ARM posts its entry when the log next becomes full. -/
  | dlogArmCompletion (fn : Nat)
  /-- CORE_RESET_DONE (R67): A core reset completes within 20 µs, leaving the core free and its node requeued or failed. -/
  | coreResetDone (core : Nat)
  /-- ILLEGAL_INSTRUCTION (R272): The strand issues a word with a reserved major, reserved function code or out-of-range field and takes the precise event 0x01. -/
  | illegalInstruction (word : BitVec 32)
  /-- RESERVED_ENGINE_OPCODE (R279): An engine word with a reserved VOP, MOP or COP reaches its sequence and ends with XCODE 0x24, without its await or raise. -/
  | reservedEngineOpcode (word : BitVec 192)
  /-- WATCHDOG_EXPIRY (R161): An engine with no progress for WDOG cycles is reset by the Arbiter. -/
  | watchdogExpiry (core : Nat) (ring : Nat)
  /-- PARITY_ERROR (R161): A parity error in engine control logic resets the engine. -/
  | parityError (core : Nat) (ring : Nat)
  /-- PROTOCOL_ALARM (R161): Inconsistent ring registers or engine state reset the engine. -/
  | protocolAlarm (core : Nat) (ring : Nat)
  /-- STRIKE_REPORT (R159): A sensor strike report resets the struck engine, or is corrected in protected storage. -/
  | strikeReport (core : Nat) (unit : StruckUnit)
  /-- ARBITER_ALARM (R67): An Arbiter alarm triggers a die reset. -/
  | arbiterAlarm (die : Nat)
  /-- CORRECTED_ERROR (R260): A corrected error updates its error bank and count. -/
  | correctedError (die : Nat) (bank : Nat) (err : ErrorReport)
  /-- UNCORRECTABLE_ERROR (R258): An uncorrectable error is recorded in an error bank, posts event 8 and raises a machine fault. -/
  | uncorrectableError (die : Nat) (bank : Nat) (err : ErrorReport)
  /-- COLD_START (R59): A cold start begins at step 1 over the management bus. -/
  | coldStart
  /-- WARM_START (R59): A warm start begins, with reduced training and no scan. -/
  | warmStart
  /-- START_STEP_DONE (R59): A start step completes and the next begins, or the start fails. -/
  | startStepDone (outcome : StartOutcome)
  /-- SUPPLY_LOSS (R24): Loss or removal of supply power acts as a package reset. -/
  | supplyLoss (alwaysOnLost : Bool)
  /-- POWER_STATE_REQUEST (R21): A write to PSREQd requests a die power state, which is accepted, denied, busy or held. -/
  | powerStateRequest (die : Nat) (target : BitVec 2)
  /-- THERMAL_CLAMP_ENGAGE (R23): A hot junction or inlet moves the die to the clamp state, sets CLAMP and posts event 1. -/
  | thermalClampEngage (die : Nat)
  /-- THERMAL_CLAMP_RELEASE (R23): After 10 ms below the thresholds, the clamp releases to REQ and posts event 2. -/
  | thermalClampRelease (die : Nat)
  /-- JUNCTION_POWER_REMOVAL (R23): A junction above 120 °C makes the management controller remove power. -/
  | junctionPowerRemoval
  /-- PWRMEAS_SAMPLE (R25): Updates WATTS and PEAKW every 10 µs. -/
  | pwrmeasSample (watts : BitVec 16)
  /-- STALL_SAMPLE (R25): Updates the STALLd fields and SEQ every 10 µs. -/
  | stallSample (die : Nat) (active : BitVec 16) (mem : BitVec 16) (sync : BitVec 16)
  /-- PEAKW_READ (R25): A read of PWRMEAS clears PEAKW. -/
  | peakwRead
  /-- QUEUE_ENABLE (R47): Setting EN zeroes the indices, or is rejected with ERR; held report entries are then written. -/
  | queueEnable (fn : Nat) (q : QueueId) (value : BitVec 64)
  /-- QUEUE_DISABLE (R47): Clearing EN stops fetching after the entry being read. -/
  | queueDisable (fn : Nat) (q : QueueId) (value : BitVec 64)
  /-- QUEUE_DOORBELL (R48): A doorbell moves a submission tail or a report head, or is rejected with ERR and event 4. -/
  | queueDoorbell (fn : Nat) (q : QueueId) (value : BitVec 32)
  /-- QUEUE_STATUS_READ (R46): A read of the queue status word clears ERR and OVF. -/
  | queueStatusRead (fn : Nat) (q : QueueId)
  /-- FAULT_RETRY (R54): FRESP RETRY makes every agent waiting on the FID walk again. -/
  | faultRetry (fn : Nat) (fid : Nat)
  /-- FAULT_FAIL (R54): FRESP FAIL gives each waiting agent a translation fault. -/
  | faultFail (fn : Nat) (fid : Nat)
  /-- ERROR_BANK_STATUS_READ (R259): A read of an error bank's STATUS marks its record read. -/
  | errorBankStatusRead (die : Nat) (bank : Nat)
  /-- ERROR_BANK_CLEAR (R259): Writing CLEAR clears the record and both counts. -/
  | errorBankClear (die : Nat) (bank : Nat)
  /-- RING_CONFIG_WRITE (R138): A write to BASEG or LOG2N places the ring, or is refused and sets CFGERR. -/
  | ringConfigWrite (core : Nat) (ring : Nat) (value : BitVec 64)
  /-- RING_STATUS_READ (R138): A read of the ring status word clears CFGERR. -/
  | ringStatusRead (core : Nat) (ring : Nat)
  /-- REGISTER_WRITE (R4): A write to a register with no row of its own updates its RW fields and ignores reserved ones. -/
  | registerWrite (fn : Nat) (off : Nat) (value : BitVec 64)
  /-- HOST_BAR2_READ (R43): A host read through BAR2 returns decrypted data, or all ones with event 7 if unmapped. -/
  | hostBar2Read (fn : Nat) (off : Nat) (len : Nat)
  /-- HOST_BAR2_WRITE (R43): A host write through BAR2 stores under the function's key, or is dropped with event 7. -/
  | hostBar2Write (fn : Nat) (off : Nat) (data : List (BitVec 8))
  /-- HOST_ATOMICOP (R44): A PCIe AtomicOp on BAR2 executes at the home L2 slice, or completes with Completer Abort or UR. -/
  | hostAtomicop (fn : Nat) (off : Nat) (width : Nat) (op : HostAtomic) (v : BitVec 64) (cmp : BitVec 64)
  /-- HOST_SNOOP (R51): A host snoop of a coherent host line is answered before the line is granted elsewhere. -/
  | hostSnoop (addr : Nat) (invalidate : Bool)
  /-- HOST_OWNERSHIP_REQUEST (R57): The host takes a device line after device copies are invalidated and written back. -/
  | hostOwnershipRequest (dpa : Nat)
  /-- HOST_LINE_RETURN (R57): The host returns a back-invalidated line, and the waiting device atomic executes. -/
  | hostLineReturn (dpa : Nat)
  /-- HOSTS_ATOMIC_COMPLETION (R397): The completion of a HOSTS AtomicOp returns the old value, or gives 0x09. -/
  | hostsAtomicCompletion (core : Nat) (ok : Bool)
  /-- FLIT_RECEIVE (R40): Corrects and checks a received flit, discarding bad ones and sending a retry request. -/
  | flitReceive (port : Nat) (raw : List (BitVec 8))
  /-- RETRY_REQUEST_RECEIVE (R40): A received retry request makes the sender resend from the named flit. -/
  | retryRequestReceive (port : Nat) (seq : Nat)
  /-- PORT_RETRAIN_DONE (R40): Retraining ends by resending the replay buffer, or retires the port and posts event 3. -/
  | portRetrainDone (port : Nat) (ok : Bool)
  /-- ROUTE_CHANGE (R17): A die-to-die route changes after a retirement once no request on it is outstanding. -/
  | routeChange (die0 : Nat) (die1 : Nat)
  /-- FUNCTION_LEVEL_RESET (R41): Resetting a VF purges its fabric traffic, export entries, slots, faults and contexts. -/
  | functionLevelReset (fn : Nat)
  /-- FABRIC_WRITE_PACKET (R35): A received WRITE packet is checked, translated and landed, then ACKed or NAKed. -/
  | fabricWritePacket (port : Nat) (vftag : Nat) (pkt : Packet)
  /-- FABRIC_SIGNAL_PACKET (R37): A received SIGNAL packet is checked and held until its data packets have landed. -/
  | fabricSignalPacket (port : Nat) (vftag : Nat) (pkt : Packet)
  /-- FABRIC_REDUCE_PACKET (R38): A received REDUCE packet forms or joins a reduction slot, or is rejected. -/
  | fabricReducePacket (port : Nat) (vftag : Nat) (pkt : Packet)
  /-- FABRIC_ACK (R36): A received ACK answers a sent data or SIGNAL packet. -/
  | fabricAck (port : Nat) (vftag : Nat) (pkt : Packet)
  /-- FABRIC_NAK (R36): A received NAK ends the sending word with the lowest status code. -/
  | fabricNak (port : Nat) (vftag : Nat) (pkt : Packet)
  /-- CTX_CREATE (R50): Creates a context and returns its CTXID. -/
  | ctxCreate (cmd : AdminCmd)
  /-- CTX_DESTROY (R50): Destroys a context after its nodes complete. -/
  | ctxDestroy (cmd : AdminCmd)
  /-- EXPORT_SET (R33): Writes or withdraws one export entry of the function. -/
  | exportSet (cmd : AdminCmd)
  /-- CTX_SWITCH (R93): Pre-empts the outgoing context and admits the incoming one. -/
  | ctxSwitch (cmd : AdminCmd)
  /-- INVAL_RANGE (R52): Shoots down the translations of a VA range and completes after every access that used them. -/
  | invalRange (cmd : AdminCmd)
  /-- ADMIN_RESERVED_OPCODE (R50): An admin command with a reserved opcode, or a VF's hypervisor opcode, completes with STATUS 1 or 2. -/
  | adminReservedOpcode (cmd : AdminCmd)
  /-- PART_SET (R76): Writes a function's partition descriptor after its checks, resizing and reinitialising as needed. -/
  | partSet (cmd : AdminCmd)
  /-- PART_QUERY (R78): Writes a function's descriptor with its current share, groups and L2 charge. -/
  | partQuery (cmd : AdminCmd)
  /-- GDIE_SET (R82): Writes one entry of a function's guest-die table. -/
  | gdieSet (cmd : AdminCmd)
  /-- DLOG_SET (R86): Enables or disables a function's dirty-page log. -/
  | dlogSet (cmd : AdminCmd)
  /-- DLOG_ARM (R89): Re-reads HEAD, releases held writes, and arms a completion for the next full log. -/
  | dlogArm (cmd : AdminCmd)
  /-- KEY_LOAD (R96): Loads, generates or clears a tenant key slot. -/
  | keyLoad (cmd : AdminCmd)
  /-- WIN_CREATE (R108): Creates a re-keyed window from an owner's frames and marks its semaphore. -/
  | winCreate (cmd : AdminCmd)
  /-- WIN_DESTROY (R113): Destroys a window and returns its frames, reinitialised, to the owner. -/
  | winDestroy (cmd : AdminCmd)
  /-- T2_ASSIGN (R105): Assigns second-tier frames to a function and reinitialises them. -/
  | t2Assign (cmd : AdminCmd)
  /-- SCHED_SET (R126): Sets the device-wide slice length and pre-emption deadline. -/
  | schedSet (cmd : AdminCmd)
  /-- SEM_RANGE (R143): Assigns a function's general semaphore range on a die. -/
  | semRange (cmd : AdminCmd)
  /-- S2ROOT_SET (R181): Sets a function's stage-2 root and invalidates its translations. -/
  | s2rootSet (cmd : AdminCmd)
  /-- SCOPE_SET (R197): Writes a function's scope policy. -/
  | scopeSet (cmd : AdminCmd)
  /-- FABRIC_PEER (R28): Sets the package's fabric peer number. -/
  | fabricPeer (cmd : AdminCmd)
  /-- ROUTE_SET (R28): Sets the route mask for a destination peer. -/
  | routeSet (cmd : AdminCmd)
  /-- DIE_RESET (R70): PF command that performs a die reset on a physical die. -/
  | dieReset (cmd : AdminCmd)
  /-- ATTEST (R66): Writes a signed attestation report for a nonce. -/
  | attest (cmd : AdminCmd)
  /-- FIELD_TEST (R72): Applies a signed test package to an unowned die, retiring failing units. -/
  | fieldTest (cmd : AdminCmd)
  /-- INJECT (R73): Arms the seeded error injector for a test VF. -/
  | inject (cmd : AdminCmd)
  deriving DecidableEq, Repr

end Sys2Proof
end

