-- ==== Sys2Proof/Machine/State.lean ====
section
/-! DEFINITION. The state of the whole module: cores with their strand, engines, rings, pipes, thunk table and planner;
the semaphore stores; device and host memory; functions, contexts, nodes and gangs; host-side queues; partitions, keys
and windows; the fabric; power, error banks, start and the always-on domain. State is plain data. -/

namespace Sys2Proof.Machine

/-- Why the machine stops with a fault. -/
inductive Fault where
  /-- Raised by no meaning of this model: every machine fault of Table 14-1 is taken as the manual says and gives a next
  state. Safe. -/
  | stuck
  deriving DecidableEq, Repr

/-- Why the model gives an instruction no meaning. -/
inductive Refusal where
  /-- Raised only by the dispatcher's arms for an instruction not modelled yet. Safe. -/
  | notModelled (mnemonic : String)
  deriving DecidableEq, Repr

/-! ## Translation -/

/-- Memory type of a stage-2 leaf (Table 10-6). -/
inductive MType where
  | dev
  | hostc
  | hosts
  deriving DecidableEq, Repr

/-- A translation of one page: what a handle, a TLB entry or a walk carries (R184). -/
structure Trans where
  base : Nat := 0
  size : Nat := 4096
  mtype : MType := .dev
  pa : Nat := 0
  gpa : Nat := 0
  keyid : Nat := 0
  l2atom : Bool := false
  wr : Bool := false
  ex : Bool := false
  leaf : Nat := 0
  /-- the stage-2 leaf maps more than 4 KiB (R87) -/
  big : Bool := false
  deriving DecidableEq, Repr

/-- An entry of the core TLB (R183), tagged by function and context. -/
structure TlbEntry where
  fn : Nat
  ctx : Nat
  tr : Trans
  deriving DecidableEq, Repr

/-- Access kinds of a fault entry (Table 4-7). -/
inductive AccKind where
  | read
  | write
  | atomic
  | fetch
  deriving DecidableEq, Repr

/-- An export entry (Table 3-6). `gen` is the model's own: the tick of the EXPORT_SET that wrote it. -/
structure Export where
  valid : Bool := false
  write : Bool := false
  reduce : Bool := false
  signal : Bool := false
  ctx : Nat := 0
  semDie : Nat := 0
  base : Nat := 0
  length : Nat := 0
  semBase : Nat := 0
  semCnt : Nat := 0
  pairs : List (Nat × Nat) := []
  gen : Nat := 0
  deriving DecidableEq, Repr

/-- A packet in a receive buffer: the port and VC it came on, the function that sent it, and the export entry it was
checked against once it has been (R33). -/
structure RxPacket where
  port : Nat
  vc : Nat
  vftag : Nat
  pkt : Packet
  entry : Option Export := none
  deriving DecidableEq, Repr

/-- Who waits on an outstanding fault (R53, Table 4-7). -/
inductive Agent where
  /-- the strand of a core, at its instruction -/
  | strand (core : Nat)
  /-- the pending walk of a handle -/
  | handle (core h : Nat)
  /-- a ring's engine, or the stack agent that runs its word -/
  | ring (core ring : Nat)
  /-- a fabric packet in a receive buffer -/
  | packet (p : RxPacket)
  /-- a reduction slot of function `fn` whose sum is to be written (R34, R38) -/
  | slot (fn region slot : Nat)
  /-- the node scheduler, for a node's own accesses -/
  | node (fn q idx : Nat)
  /-- the save of a core's strand (R262) -/
  | save (core : Nat)
  /-- the restore of a gang (R267) -/
  | restore (gang : Nat)
  /-- the strand (unit 0) or the engine of ring `unit − 1` of a strand that was saved in a slot of a context (R55) -/
  | parked (ctx slot unit : Nat)
  deriving DecidableEq, Repr

/-- An outstanding fault (R53). -/
structure FaultRec where
  fn : Nat
  fid : Nat
  ctx : Nat
  va : Nat
  acc : AccKind
  stage2 : Bool
  perm : Bool
  gpa : Nat
  waiters : List Agent
  deriving DecidableEq, Repr

/-! ## The strand -/

/-- Handle states (Table 10-7). -/
inductive HState where
  | invalid
  | pending
  | valid
  | revoked
  | failed
  deriving DecidableEq, Repr

/-- A handle h0 to h14 (Table 10-7). `failPerm` says which event a FAILED handle gives; `shot` that a shootdown covered
a pending walk (R309); `fid` the fault its walk waits on. -/
structure Handle where
  va : Va := 0
  st : HState := .invalid
  tr : Trans := {}
  failPerm : Bool := false
  shot : Bool := false
  fid : Option Nat := none
  deriving DecidableEq, Repr

/-- An entry of the loop stack (R300): the LOOP's PC, the count register, and the end address E that the LOOP word
gives. -/
structure LoopEntry where
  pc : Va
  reg : Reg
  last : Va
  deriving DecidableEq, Repr

/-- What a strand is doing. -/
inductive Status where
  /-- no strand, or none started -/
  | empty
  /-- issuing; an instruction that must stall is issued again -/
  | running
  /-- in SWAIT, queued or watching on the semaphore `die × 65,536 + index` -/
  | waitSem (key : Nat)
  /-- waiting on a fault ID (R53) -/
  | waitFault (fid : Nat)
  /-- arrived at a BAR (R320) -/
  | waitBar
  /-- suspended by WAITQ on this wait record (R179) -/
  | waitQueue (record : Nat) (d : Reg)
  /-- in PAUSE (R385) -/
  | paused
  /-- in WFE with this destination; whether it has a limit (R386) -/
  | wfe (d : Reg) (limited : Bool)
  /-- in TAKE, a steal request to this rank outstanding (R122) -/
  | stealing (rank : Nat)
  /-- the AtomicOp of an ATOM on a HOSTS page is outstanding (R396) -/
  | waitHosts
  /-- waiting for the host to return a line (R57) -/
  | waitLine (dpa : Nat)
  /-- waiting in FORCE.W or for an implicit force: the last plan's identifier (R242, R244, R247) -/
  | waitPlan (plan : Nat)
  /-- stopped at a save point until the rings are empty (R129, R388) -/
  | saving
  /-- saved; the core waits for the rest of its gang (R129) -/
  | saved
  /-- EXIT retired (R384) -/
  | exited
  /-- ended by an event with no handler or by a machine fault (R253, R257) -/
  | ended
  deriving DecidableEq, Repr

/-- The strand of a core: every register an instruction can read or write (Tables 14-2, 15-1, 15-2). -/
structure Strand where
  status : Status := .empty
  pc : Va := 0
  regs : Sparse Word := []
  handles : Sparse Handle := []
  tiles : Sparse Nat := []
  maps : Sparse (List Int) := []
  loops : List LoopEntry := []
  flags : BitVec 6 := 0
  trapPc : Va := 0
  trapCause : Byte := 0
  trapInfo : Word := 0
  trapVec : Va := 0
  trapVecValid : Bool := false
  inHandler : Bool := false
  demandPc : Option Va := none
  creatorPc : Option Va := none
  full : Bool := false
  aliasOn : Bool := false
  revoke : Bool := false
  spdbg : Bool := false
  leaseMax : BitVec 13 := 1024
  engSeed : BitVec 32 := 1
  strState : BitVec 32 := 1
  lease : Option Nat := none
  latch : BitVec 4 := 0
  pylds : BitVec 32 := 0
  live : Option (BitVec 768) := none
  liveBytes : Option Nat := none
  barArr : Nat := 0
  ownLo : Nat := 0
  ownHi : Nat := 0
  chunkLen : Nat := 0
  reply : Option (Nat × Nat) := none
  stalled : Bool := false
  /-- nodes that the write waiting here has still to force (R247) -/
  toForce : List Nat := []
  /-- the wait record of a WAITQ whose poll waits on a fault or on a line (R179, R180) -/
  record : Option Nat := none
  /-- the VA of the access that waits on a fault (R54) -/
  faultVa : Nat := 0
  /-- the cycle at which a PAUSE ends or a WFE's limit expires (R385, R386) -/
  wakeAt : Nat := 0
  /-- the cycle at which a held lease expires (R177) -/
  leaseEnd : Nat := 0
  deriving DecidableEq, Repr

/-! ## Engines -/

/-- What a word does to pipes when it is confirmed (R149, R150, R376). -/
inductive PipeMove where
  | push (q k : Nat)
  | pop (q k : Nat)
  deriving DecidableEq, Repr

/-- A word that has executed and awaits confirmation (R141). -/
structure Flight where
  seq : BitVec 32
  flags : BitVec 6 := 0
  raise : BitVec 10 := 0
  moves : List PipeMove := []
  writes : List (Nat × Nat) := []
  /-- a vector word: the scratch bytes it read (R142) -/
  reads : List (Nat × Nat) := []
  overlap : Bool := false
  prog : Nat := 1
  /-- a matrix word: the bank it writes -/
  bank : Option Nat := none
  /-- a matrix word whose PROG only commits write (Table 9-6) -/
  late : Bool := false
  /-- the cycle in which it has executed -/
  since : Nat := 0
  deriving DecidableEq, Repr

/-- Why a ring's engine is not running. -/
inductive EngWait where
  | none
  /-- queued for its word's await -/
  | await
  /-- waiting for a slot of a pipe (R149) -/
  | pipe
  /-- a write is held: by a full dirty-page log (R88) or by a line that the host holds (R57) -/
  | held
  /-- waiting for its turn at a stack agent (R74) -/
  | agent
  /-- waiting on a fault ID -/
  | fault (fid : Nat)
  /-- waiting on the fault of a read of OPVA, an access of the node (R116) -/
  | nodeFault (fid : Nat)
  /-- a fault was answered FAIL: the word ends with 0x20 (false) or 0x21 (true) -/
  | failed (perm : Bool)
  /-- the fault of a read of OPVA was answered FAIL: the node is FAULTED, the word ends with 0x2A (R116) -/
  | nodeFailed (perm : Bool)
  /-- waiting for answers of the fabric -/
  | fabric
  /-- being reset by the Arbiter (R161) -/
  | reset
  deriving DecidableEq, Repr

/-- A progress mark that is not 2,100 cycles old yet (R141): its word, PROG, the flags of the iterations it covers, and
the cycle in which they ended. -/
structure YoungMark where
  seq : BitVec 32
  prog : Nat
  flags : BitVec 6
  since : Nat
  deriving DecidableEq, Repr

/-- A version of a record in a channel's record cache (R202): the tick at which it was cached, the tick of which it is the
record's content, and the stack agent that read it (R393). -/
structure CachedRec where
  key : Nat
  at' : Nat
  ver : Nat
  agent : Option Nat
  tsr : BitVec 2560
  deriving DecidableEq, Repr

/-- What the ENQ of a copy word notes of its record (R202): the tick of the ENQ and of the strand's last RCFENCE, whether
the strand has written no byte of the record since, and the record as it stood. -/
structure EnqRec where
  seq : BitVec 32
  tick : Nat
  fence : Nat
  fenced : Bool
  tsr : BitVec 2560
  deriving DecidableEq, Repr

/-- A word of a C ring that is in progress, or next to start, while another of the ring moves (R371). -/
structure CopyJob where
  seq : BitVec 32
  wait : EngWait := .none
  begun : Bool := false
  chosen : Option (BitVec 32 × BitVec 2560) := none
  spans : List (Nat × Nat) := []
  deriving DecidableEq, Repr

/-- A ring and its engine (Table 9-3). -/
structure Ring where
  baseG : BitVec 16 := 0
  log2n : BitVec 4 := 0
  rhead : BitVec 32 := 0
  rtail : BitVec 32 := 0
  rkeep : BitVec 32 := 0
  next : BitVec 32 := 0
  rcmt : BitVec 32 := 0
  resets : Nat := 0
  /-- its turn for a rolling reset has come and it waits for a boundary (R163) -/
  roll : Bool := false
  cfgerr : Bool := false
  pendx : Bool := false
  xcode : Byte := 0
  xseq : BitVec 32 := 0
  wait : EngWait := .none
  flight : List Flight := []
  /-- C rings: the tick of the strand's last RCFENCE (R202) -/
  fence : Nat := 0
  /-- C rings: the records that the channel has cached, newest first (R202) -/
  cache : List CachedRec := []
  /-- C rings: the records of the retained words as their ENQ found them (R202) -/
  snaps : List EnqRec := []
  /-- C rings: the ring's other words that are in progress or next to start; the one at `next` moves (R371) -/
  jobs : List CopyJob := []
  /-- C rings: records chosen for the word in progress (R392) -/
  chosen : Option (BitVec 32 × BitVec 2560) := none
  /-- the word at `next` has begun, has done so many iterations or elements, and has set these flags -/
  begun : Bool := false
  done : Nat := 0
  facc : BitVec 6 := 0
  /-- the scratch that the word in progress reads and writes (R142, R166), and whether they meet (R160) -/
  uses : List (Nat × Nat) := []
  spans : List (Nat × Nat) := []
  overlap : Bool := false
  /-- V ring: marks of the words at and before `next` that are not visible yet (R141) -/
  young : List YoungMark := []
  /-- M ring: a commit inside the word in progress waits until this cycle (R157 step 1) -/
  hold : Option Nat := Option.none
  /-- M ring: a commit has ended and no step has followed it (R163) -/
  atCommit : Bool := false
  /-- by sequence, the flags of the iterations or elements that the word's visible PROG covers (R225) -/
  cflags : List (BitVec 32 × BitVec 6) := []
  /-- M ring: the rows of the tile step in progress that have been loaded (R186) -/
  rows : List (List Nat) := []
  deriving DecidableEq, Repr

/-- A pipe (Table 9-5). -/
structure Pipe where
  baseG : BitVec 16 := 0
  slotG : BitVec 12 := 0
  nslotM1 : BitVec 8 := 0
  prod : BitVec 4 := 0
  cons : BitVec 4 := 0
  fill : Nat := 0
  head : Nat := 0
  tail : Nat := 0
  deriving DecidableEq, Repr

/-! ## Lazy tiles -/

/-- Node kinds (Table 13-1). -/
inductive NodeKind where
  | free
  | tld
  | tlds
  | tfill
  | tmm
  | tmms
  | tew
  | tun
  | tcvt
  | tred
  | tsel
  | tmap
  | mat
  deriving DecidableEq, Repr

/-- BODY of a node, by kind (Table 13-1). -/
inductive Body where
  | none
  | leaf (lo hi base : Nat) (str : List Int) (scaled : Option (Nat × Int))
  | fill (bits : BitVec 32)
  | map (m : List Int)
  | scales (aLo aHi bLo bHi : Int)
  | mat (granule : Nat)
  deriving DecidableEq, Repr

/-- A thunk node (Table 13-1). -/
structure Node where
  kind : NodeKind := .free
  sub : Nat := 0
  fmt : BitVec 6 := 0
  rank : Nat := 0
  ext : List Nat := []
  opnd : List Nat := []
  nflags : BitVec 6 := 0
  names : Nat := 0
  uses : Nat := 0
  cseq : BitVec 32 := 0
  arena : Option Nat := none
  creatorPc : Va := 0
  body : Body := .none
  deriving DecidableEq, Repr

/-- An entry of the alias CAM (R245): the leaves it covers are named by their nodes. -/
structure CamEntry where
  scratch : Bool
  lo : Nat
  hi : Nat
  leaves : List Nat
  deriving DecidableEq, Repr

/-- A semaphore slot of 82–94 that the planner holds for a result (R239), until every reader that awaits it is
confirmed. -/
structure HeldSlot where
  slot : Nat
  sym : Nat
  left : Nat
  deriving DecidableEq, Repr

/-- A semaphore field of a planned word: a slot with its count, or a result whose slot is assigned when its producer is
written (R239). -/
inductive SemRef where
  | none
  | slot (n c : Nat)
  | sym (id c : Nat)
  deriving DecidableEq, Repr

/-- A planned word (R248): its ring and sequence, its node, the demanding instruction and the node's creator; whether it
is its demand's last join (R240); the result whose slot it awaits. -/
structure PlannedWord where
  ring : Nat
  seq : BitVec 32
  node : Nat
  demandPc : Va
  creatorPc : Va
  plan : Nat
  join : Bool := false
  sym : Option Nat := none
  deriving DecidableEq, Repr

/-- A word the planner has decided on and not yet written, because a ring was full, an LNT slot in use or no slot of
82–94 free (R239, R241). Its AWAIT and RAISE fields are zero. `readers` is how many words await its result. -/
structure QueuedWord where
  ring : Nat
  word : BitVec 192
  lnt : Option (Nat × BitVec 2176) := Option.none
  node : Nat := 0
  demandPc : Va := 0
  creatorPc : Va := 0
  plan : Nat := 0
  join : Bool := false
  await : SemRef := .none
  raise : SemRef := .none
  readers : Nat := 0
  deriving DecidableEq, Repr

/-- A plan in flight (R242): the nodes it reads, the first granule above its temporaries, the persistent block that its
join frees (R342), the leaves that an implicit force turned into MAT nodes. -/
structure Plan where
  id : Nat
  nodes : List Nat := []
  top : Nat := 0
  temps : Bool := false
  frees : List Nat := []
  unleaf : List Nat := []
  /-- a force under R244 or R247 -/
  implicit : Bool := false
  /-- the demand's semaphore slot (R248) -/
  slot : Option Nat := none
  deriving DecidableEq, Repr

/-- The thunk table and the demand planner (R230 to R251). -/
structure Thunks where
  nodes : Sparse Node := []
  cseq : BitVec 32 := 0
  cam : List CamEntry := []
  arenaFirst : Nat := 0
  arenaCount : Nat := 0
  persist : List (Nat × Nat) := []
  plans : List Plan := []
  words : List PlannedWord := []
  queue : List QueuedWord := []
  held : List HeldSlot := []
  nextPlan : Nat := 0
  nextSym : Nat := 0
  /-- an append waits until no plan is in flight, and only then chooses a root (R244) -/
  joinAll : Bool := false
  deriving DecidableEq, Repr

/-- One core (Table 1-4). -/
structure Core where
  resident : Bool := false
  fn : Nat := 0
  ctx : Nat := 0
  gang : Nat := 0
  rank : Nat := 0
  strand : Strand := {}
  rings : Sparse Ring := []
  pipes : Sparse Pipe := []
  lntActive : Sparse (BitVec 2176) := []
  lntShadow : Sparse (BitVec 2176) := []
  fmtTab : Sparse (BitVec 6) := []
  aliases : Sparse (BitVec 32) := []
  scratch : Sparse Byte := []
  acc : Sparse (BitVec 32) := []
  /-- banks whose unlisted elements are +0 since an MZERO (R368); the others' are undefined -/
  accZero : BitVec 4 := 0
  gen : Nat := 0
  /-- banks whose values are undefined to the strand since a demand with a matmul (R238) -/
  accLost : BitVec 4 := 0
  /-- which undefined values the banks' unwritten elements hold, and those of which bank (R157, R158) -/
  accGen : Nat := 0
  accFrom : Sparse Nat := []
  pair01 : Bool := true
  pair23 : Bool := true
  mzseq : Sparse (BitVec 32) := []
  rowprog : Nat := 0
  /-- a word at or after RCMT has written a protected bank with no commit yet (R157) -/
  uncommitted : Bool := false
  /-- unprotected banks written since their MZERO and not settled (R157) -/
  unsettled : List Nat := []
  thunks : Thunks := {}
  tlb : List TlbEntry := []
  /-- a save decision is pending for the core (R129, R388) -/
  saveAsk : Bool := false
  /-- the cycle of its 20 µs limit (R129) -/
  saveBy : Nat := 0
  /-- its save has begun and waits to go on: the strand and its engines stand (R170, R262) -/
  saveBegun : Bool := false
  /-- the outstanding fault that the save waits on (R262) -/
  saveFid : Option Nat := none
  /-- the lines of 64 bytes that the strand has stored to since its last RCFENCE (R202) -/
  stored : List Nat := []
  /-- the cycles at which the last two PYLDs retired, the latest first, and at which the strand started (R128) -/
  pyldAt : List Nat := []
  startAt : Nat := 0
  /-- the core is being reset (R67) -/
  inReset : Bool := false
  deriving DecidableEq, Repr

/-! ## Semaphores -/

/-- A waiter on a semaphore (R144, R317). -/
structure SemWaiter where
  core : Nat
  /-- none: the strand; some r: the engine of ring r -/
  ring : Option Nat
  key : Nat
  eq : Bool
  c : BitVec 32
  matched : Bool := false
  deriving DecidableEq, Repr

/-! ## Functions, contexts, queues -/

/-- A queue block (Table 4-3) with the host's index, the pass bit and the report entries held. -/
structure Queue where
  base : Word := 0
  en : Bool := false
  log2sz : BitVec 4 := 0
  ctx : BitVec 12 := 0
  prio : BitVec 4 := 0
  host : Nat := 0
  dev : Nat := 0
  pass : Bool := true
  err : Bool := false
  ovf : Bool := false
  held : List (List Byte) := []
  episode : Bool := false
  deriving DecidableEq, Repr

/-- A partition descriptor in force (Table 6-2). -/
structure Partition where
  valid : Bool := false
  test : Bool := false
  minShare : Nat := 0
  minPcg : Nat := 0
  shedRank : Nat := 0
  clusters : BitVec 32 := 0
  tickets : Sparse Nat := []
  ways : Sparse (BitVec 16) := []
  pcg : BitVec 192 := 0
  agents : BitVec 64 := 0
  ports : BitVec 36 := 0
  deriving DecidableEq, Repr

/-- One packet of a contribution, as its port accepted it first (R38). -/
structure Part where
  offset : Nat
  bytes : List Byte
  port : Nat
  vftag : Nat
  deriving DecidableEq, Repr

/-- One contribution to a reduction slot (R38). -/
structure Contribution where
  index : Nat
  peer : Nat
  xfer : Nat
  parts : List Part := []
  deriving DecidableEq, Repr

/-- A reduction slot (R38): the export entry it formed under and the fault it waits on. `dead`: contributions disagreed,
and every later one is rejected. -/
structure RedSlot where
  region : Nat
  slot : Nat
  die : Nat
  n : Nat
  fmt : Nat
  entry : Export := {}
  fid : Option Nat := none
  contribs : List Contribution := []
  dead : Bool := false
  deriving DecidableEq, Repr

/-- The dirty-page log of a function (R86 to R89). -/
structure DirtyLog where
  en : Bool := false
  log2n : Nat := 0
  ring : Nat := 0
  tail : Nat := 0
  head : Nat := 0
  lost : Bool := false
  armed : Option (BitVec 16) := none
  deriving DecidableEq, Repr

/-- A function: the PF (0) or a VF. -/
structure Fn where
  part : Partition := {}
  shed : Bool := false
  s2root : Option Nat := none
  guestDies : Sparse (BitVec 32) := []
  queues : Sparse Queue := []
  exports : Sparse Export := []
  redSlots : List RedSlot := []
  dlog : DirtyLog := {}
  winok : Bool := true
  sysok : Bool := true
  /-- general semaphore range (base, count) by die (R143) -/
  semRange : Sparse (Nat × Nat) := []
  /-- decrements held for slots not fetched: queue, index, failing (R118, R132) -/
  decs : List (Nat × Nat × Bool) := []
  /-- the context switch in progress: outgoing, incoming, CID (R93) -/
  switching : Option (Nat × Nat × BitVec 16) := none
  /-- fault IDs of outstanding faults that a function-level reset discarded (R55) -/
  dropped : List Nat := []
  /-- it has been shed, and the pre-emption of its gangs waits for a context switch (R91, R94) -/
  shedDue : Bool := false
  /-- the 16 words of its MSI-X table (Table 4-2) -/
  msixTab : Sparse Word := []
  /-- the pending-bit array (Table 4-2) -/
  msixPend : BitVec 8 := 0
  deriving DecidableEq, Repr

/-- A context. -/
structure Ctx where
  live : Bool := false
  fn : Nat := 0
  weight : Nat := 16
  s1root : Nat := 0
  waitVa : Nat := 0
  saveVa : Nat := 0
  slots : Nat := 1
  vdiemap : Sparse Byte := []
  admitted : Bool := true
  failed : Bool := false
  pass : Nat := 0
  used : List Nat := []
  /-- flags for CTXFLAGS whose write waits for a translation (R261) -/
  flagsHeld : BitVec 6 := 0
  /-- CTX_DESTROY waits for the nodes: its CID -/
  destroying : Option (BitVec 16) := none
  deriving DecidableEq, Repr

/-! ## Nodes and gangs -/

/-- A launch record (Table 8-1). -/
structure Launch where
  entry : Va := 0
  ctx : Nat := 0
  gang : Nat := 0
  nlev : Nat := 0
  idemp : Bool := false
  sysrel : Bool := false
  opcnt : Nat := 0
  predcnt : Nat := 0
  nsucc : Nat := 0
  succVa : Nat := 0
  argVa : Word := 0
  csem : Option (Nat × Nat) := none
  crVa : Nat := 0
  opVa : Nat := 0
  /-- outer levels (COUNT, KIND, CHUNK), level 0 first -/
  levels : List (Nat × Nat × Nat) := []
  deriving DecidableEq, Repr

/-- Where a task node stands. -/
inductive NodePhase where
  /-- fetched, predecessors outstanding -/
  | waiting
  /-- in the ready pool; instances may be placed -/
  | ready
  /-- its completion steps wait on a translation fault (R131) -/
  | completing
  deriving DecidableEq, Repr

/-- A reset that has taken a node and has not ended (R67): its core or die, and the PC of the strand it met. -/
structure ResetMark where
  die : Bool
  unit : Nat
  pc : Va
  deriving DecidableEq, Repr

/-- A fetched task node (R117). -/
structure TaskNode where
  fn : Nat
  q : Nat
  idx : Nat
  launch : Launch
  remaining : Nat
  doomed : Bool := false
  phase : NodePhase := .waiting
  order : Nat := 0
  /-- the composed map captured: for each virtual die, none or a guest-die entry (R83) -/
  capture : Option (List (Option (BitVec 32))) := none
  /-- the package's peer number as captured (R306) -/
  peer : Nat := 0
  /-- instances to place, in order -/
  toPlace : List Nat := []
  instances : Nat := 0
  doneCount : Nat := 0
  status : Nat := 0
  requeues : Nat := 0
  discards : Nat := 0
  dlmiss : Nat := 0
  tstart : Nat := 0
  failInfo : Word := 0
  /-- successor entries read before step 1 of R131 and not released yet -/
  succs : Option (List (BitVec 32)) := none
  /-- steps 1, and 2 and 3, of R131 are done -/
  recorded : Bool := false
  signalled : Bool := false
  /-- the outstanding fault that its completion waits on -/
  fid : Option Nat := none
  /-- the reset whose end decides its outcome (R67 to R69) -/
  reset : Option ResetMark := none
  deriving DecidableEq, Repr

/-- Where a gang stands. -/
inductive GangPhase where
  | running
  /-- draining, with the deadline running (R129) -/
  | draining
  /-- told to save (R129) -/
  | saving
  /-- saved; it holds slots (R262) -/
  | saved
  /-- waiting to restart from ENTRY after a discard -/
  | ready
  deriving DecidableEq, Repr

/-- What a strand that has exited leaves for the restore of its gang: its own range and chunk (R122, R402), and what the
estimates of R128 count: the PYLDs it retired, the live bytes at its last LIVE, the cycles of its PYLDs and of its start. -/
structure ExitedRank where
  own : Nat × Nat := (0, 0)
  chunk : Nat := 0
  pylds : BitVec 32 := 0
  liveBytes : Option Nat := none
  pyldAt : List Nat := []
  startAt : Nat := 0
  deriving DecidableEq, Repr

/-- A gang: one instance of a node (R119). -/
structure Gang where
  id : Nat
  fn : Nat
  ctx : Nat
  q : Nat
  idx : Nat
  inst : Nat
  die : Nat
  shape : Nat
  /-- package-wide cores by rank, while resident -/
  cores : List Nat
  phase : GangPhase := .running
  u : Nat := 0
  /-- by rank, once saved: its slot, or none where its strand has exited (R130) -/
  slots : Sparse (Option Nat) := []
  /-- by rank: what an exited strand left -/
  ranges : Sparse ExitedRank := []
  /-- by rank: the semaphores and alias bindings that an exited strand's core had at the save (R146) -/
  blocks : Sparse (List (BitVec 32) × Sparse (BitVec 32)) := []
  /-- the cycle of its drain deadline, and the deadline D of the decision (R128, R129) -/
  drainBy : Nat := 0
  deadline : Nat := 0
  /-- the outstanding fault that the restore waits on (R267) -/
  fid : Option Nat := none
  deriving DecidableEq, Repr

/-- A gang passed over in a cluster (R125): its function, queue, record and instance, and the slice ends since. -/
structure Skipped where
  fn : Nat
  q : Nat
  idx : Nat
  inst : Nat
  age : Nat := 0
  deriving DecidableEq, Repr

/-- A cluster's stride scheduler (R123 to R126): the slice length and deadline it has applied. -/
structure Cluster where
  holder : Option Nat := none
  passes : Sparse Nat := []
  /-- reserved for a function, by the lowest cluster of its gang's set (R124), and whether the selection that this asks for
  is still to come -/
  reserved : Option (Nat × Nat) := none
  reserveDue : Bool := false
  hadWork : List Nat := []
  skipped : List Skipped := []
  slice : Nat := 2000
  pdl : Nat := 20
  /-- the cycle at which the slice began -/
  since : Nat := 0
  deriving DecidableEq, Repr

/-! ## Memory protection -/

/-- A live window (R108). -/
structure Window where
  owner : Nat
  home : Nat
  readers : BitVec 64
  frame0 : Nat
  count : Nat
  sem : Nat
  deriving DecidableEq, Repr

/-- Counters of a 4 KiB page (R101): the major and the 64 minors; and the key under which the page's lines, its counter
line and the nodes above it were last written (R99, R104). -/
structure PageCounter where
  major : BitVec 64 := 0
  minors : BitVec 448 := 0
  key : BitVec 256 := 0
  deriving DecidableEq, Repr

/-- The state of a cached copy (R171); a line without a copy is in I. -/
inductive Moesi where
  | m
  | o
  | e
  | s
  deriving DecidableEq, Repr

/-- A line's copy in the L2 of a die: its way, the allocator that it is charged to (R79), its state. -/
structure L2Copy where
  die : Nat
  way : Nat
  fn : Nat
  st : Moesi
  deriving DecidableEq, Repr

/-- A line's copy in the L1 of a core (R171); its fill is pending until the cycle `fillBy` (R177). -/
structure L1Copy where
  core : Nat
  st : Moesi
  fillBy : Nat := 0
  deriving DecidableEq, Repr

/-- A 64-byte line in the caches and its directory entries (R172, R173): the copies give the home's sharer bits and owner
and the second-level directories' core bits; for a HOSTC line also the CXL.cache state held from the host. -/
structure Line where
  hostHolds : Bool := false
  l2 : List L2Copy := []
  l1 : List L1Copy := []
  cxl : Option Moesi := none
  deriving DecidableEq, Repr

/-! ## Fabric -/

/-- A flit: the header of Table 3-2 and the 228 body bytes. Its other bytes follow from these (Table 3-1). -/
structure Flit where
  vc : Nat := 0
  vftag : Nat := 0
  type : Nat := 0
  seq : Nat := 0
  ackSeq : Nat := 0
  crvc : Nat := 0
  crcnt : Nat := 0
  rsv : Nat := 0
  body : List Byte := []
  deriving DecidableEq, Repr

/-- A flit that waits to be sent, and the packet it is a part of with the peer that this goes to. -/
structure TxFlit where
  flit : Flit
  pkt : Option (Nat × Packet) := none
  deriving DecidableEq, Repr

/-- A port's link state (R39, R40). -/
structure Port where
  retired : Bool := false
  retraining : Bool := false
  /-- the SEQ expected next -/
  rxSeq : Nat := 0
  /-- flits are discarded until the resent copy of that SEQ arrives -/
  rxLost : Bool := false
  txSeq : Nat := 0
  /-- flits that wait for credits, for room in the replay buffer, or for the port to be their function's (R26) -/
  txq : List TxFlit := []
  /-- flits sent and not acknowledged -/
  replay : List Flit := []
  retrySeq : Nat := 0
  retries : Nat := 0
  /-- by VC × 64 + VFTAG -/
  credits : Sparse Nat := []
  /-- bytes assembled of the packet in reception, by VC × 64 + VFTAG -/
  assembly : Sparse (List Byte) := []
  deriving DecidableEq, Repr

/-- A packet of a transfer that has been sent: its port and the elements it carries. -/
structure Sent where
  pkt : Packet
  port : Nat
  vc : Nat
  elems : Nat
  answered : Bool := false
  deriving DecidableEq, Repr

/-- An outgoing transfer (R36, R374). -/
structure Transfer where
  core : Nat
  ring : Nat
  seq : BitVec 32
  fn : Nat
  peer : Nat
  xfer : Nat
  packets : List Sent := []
  /-- packets spread so far over the ports (R27) -/
  turn : Nat := 0
  /-- every packet has been sent, or the transfer has ended with PORT_LOST (R40) -/
  done : Bool := false
  /-- the lowest status code received -/
  status : Option Nat := none
  deriving DecidableEq, Repr

/-- An incoming transfer (R37): the offsets landed, those rejected with their status codes, whether it feeds a reduction
slot and the offsets summed there, its SIGNAL packet while that is held, and the answer given to it. -/
structure Incoming where
  peer : Nat
  xfer : Nat
  fn : Nat
  landed : List Nat := []
  refused : List (Nat × Nat) := []
  reduce : Bool := false
  summed : List Nat := []
  signal : Option RxPacket := none
  answered : Option Nat := none
  /-- an answer of it was on a port that has been retired, so its packets may come again (R40) -/
  unsure : Bool := false
  deriving DecidableEq, Repr

/-- An answer that no port of its function may carry yet (R26). -/
structure Owed where
  fn : Nat
  peer : Nat
  port : Nat
  pkt : Packet
  deriving DecidableEq, Repr

/-- The package's fabric (R26 to R41). -/
structure Fabric where
  peer : Nat := 0
  routes : Sparse (BitVec 36) := []
  ports : Sparse Port := []
  nextXfer : Nat := 0
  transfers : List Transfer := []
  incoming : List Incoming := []
  rx : List RxPacket := []
  /-- packets that wait in their buffers for a line of the host or for room in the dirty log -/
  held : List RxPacket := []
  owed : List Owed := []
  /-- the flits put on the wire, with their port -/
  wire : List (Nat × Flit) := []
  deriving DecidableEq, Repr

/-! ## Power, banks, start -/

/-- What a die's power transition does next (R21). -/
inductive PowerPhase where
  | steady
  | raising
  | switchingUp
  | switchingDown
  | lowering
  deriving DecidableEq, Repr

/-- A die's power state and registers (Tables 2-3 to 2-5). -/
structure DiePower where
  target : BitVec 2 := 0
  cur : BitVec 2 := 0
  req : BitVec 2 := 0
  goal : BitVec 2 := 0
  phase : PowerPhase := .steady
  clamp : Bool := false
  result : BitVec 4 := 0
  vmv : BitVec 16 := 800
  active : BitVec 16 := 0
  memStall : BitVec 16 := 0
  syncStall : BitVec 16 := 0
  seq : BitVec 16 := 0
  deriving DecidableEq, Repr

/-- An error bank (Table 14-4). -/
structure Bank where
  valid : Bool := false
  ue : Bool := false
  overflow : Bool := false
  read : Bool := false
  cause : Byte := 0
  kind : Byte := 0
  unit : BitVec 16 := 0
  fn : BitVec 6 := 0
  addr : BitVec 64 := 0
  ce : BitVec 32 := 0
  uec : BitVec 32 := 0
  deriving DecidableEq, Repr

/-- START (Table 5-2). -/
structure Start where
  step : Nat := 0
  done : Bool := false
  fail : Bool := false
  warm : Bool := false
  forceCold : Bool := false
  code : Nat := 0
  ports : BitVec 4 := 0
  /-- the tick at which step 1 loaded the firmware -/
  loaded : Nat := 0
  deriving DecidableEq, Repr

/-- The configuration record applied and the always-on domain (R59, R63, R71). -/
structure Config where
  serial : Word := 0
  svn : BitVec 32 := 0
  minSvn : BitVec 32 := 0
  fabricOn : Bool := true
  tier2On : Bool := true
  floors : Sparse Nat := []
  digest : Option (BitVec 256) := none
  /-- bytes 0 to 279 of the record (Table 5-3) -/
  record : List Byte := []
  /-- the identity seeds of the dies, which nothing reads out (R65) -/
  identity : Sparse (BitVec 256) := []
  /-- the physical unit of each logical one, by harvest group: 0 to 31 the cores of a cluster, 32 to 35 the slices of a die,
  36 to 51 the pseudo-channel groups of a stack (R64) -/
  units : Sparse (List Nat) := []
  calibrated : Bool := false
  /-- second-tier frames presented by port -/
  frames : Sparse Nat := []
  /-- the journal: the nodes lost, with the host address of a completion record on a host page (R71) -/
  journal : List (TaskNode × Option Nat) := []
  deriving DecidableEq, Repr

/-- An injector armed by INJECT (R73). -/
structure Injector where
  fn : Nat
  kind : Nat
  seed : Word
  count : Nat
  /-- injections made, and the cycle at which the command completed -/
  made : Nat
  since : Nat
  deriving DecidableEq, Repr

/-- Who moves next: a core's strand (unit 0) or the engine of its ring r (unit r + 1). -/
structure Actor where
  core : Nat := 0
  unit : Nat := 0
  deriving DecidableEq, Repr

/-- An ATOM outstanding at the host root (R396). -/
structure HostsAtom where
  core : Nat
  addr : Nat
  va : Nat
  /-- the page of the translation that it uses (R52) -/
  base : Nat
  size : Nat
  w : Nat
  op : Nat
  d : Reg
  v : Word
  cmp : Word
  deriving DecidableEq, Repr

/-- What the device keeps of a strand saved with its full context beside the slot: the plans in flight (R250), the waits
on faults and their answers (R55), and an event that an answer gave the strand. -/
structure Parked where
  ctx : Nat
  slot : Nat
  core : Core
  event : Option (Nat × Nat) := none
  deriving DecidableEq, Repr

/-- A word that a stack agent has taken: its core, C ring and sequence, the gang start or restore that it belongs to, and
for an SRED the SLOT of its record (R377). It is in progress until it is DONE or ends. -/
structure AgentHold where
  core : Nat
  ring : Nat
  seq : BitVec 32
  gen : Nat
  slot : Option Nat
  deriving DecidableEq, Repr

/-- A stack agent (R74): the core and C ring of each word that waits for it, in order of arrival, the function whose
word it took last, the words that it has taken, and whether its turn for a rolling reset has come (R163). -/
structure AgentQueue where
  waiting : List (Nat × Nat) := []
  last : Nat := 0
  holds : List AgentHold := []
  roll : Bool := false
  deriving DecidableEq, Repr

/-- An admin command that is held back until a context switch is over (R94), or that has begun and not completed. -/
structure Pending where
  cmd : AdminCmd
  begun : Bool
  /-- the tick of the command (R33) -/
  tick : Nat := 0
  deriving DecidableEq, Repr

/-- The module. -/
structure State where
  cores : Sparse Core := []
  mem : Sparse Byte := []
  hostMem : Sparse Byte := []
  sems : Sparse (BitVec 32) := []
  semWaiters : List SemWaiter := []
  fns : Sparse Fn := []
  ctxs : Sparse Ctx := []
  nodes : List TaskNode := []
  gangs : List Gang := []
  parked : List Parked := []
  clusters : Sparse Cluster := []
  faults : List FaultRec := []
  windows : List (Nat × Window) := []
  keys : Sparse (BitVec 256) := []
  counters : Sparse PageCounter := []
  /-- poisoned lines, as half-open ranges of line numbers (R107) -/
  poison : List (Nat × Nat) := []
  /-- integrity failures found by the device's own accesses (a write-back, a queue entry, a node's record) that the step
  still has to report: the function, the DPA (R106) -/
  broken : List (Nat × Nat) := []
  lines : Sparse Line := []
  tier2 : Sparse Nat := []
  fabric : Fabric := {}
  power : Sparse DiePower := []
  watts : BitVec 16 := 0
  peakW : BitVec 16 := 0
  banks : Sparse Bank := []
  start : Start := {}
  config : Config := {}
  retiredClusters : BitVec 32 := 0
  retiredGroups : BitVec 192 := 0
  retiredAgents : BitVec 64 := 0
  /-- retired links whose traffic has moved to the longer route (R17) -/
  reroutedLinks : List (Nat × Nat) := []
  /-- retired links whose traffic moves when no request on a route over them is outstanding (R17) -/
  movingLinks : List (Nat × Nat) := []
  slice : Nat := 2000
  pdl : Nat := 20
  wdog : BitVec 32 := 13000000
  rollPeriod : BitVec 32 := 100000
  injectors : List Injector := []
  /-- DIE_RESET commands in progress: die, CID; field tests: die (R70, R72) -/
  dieResets : List (Nat × Option (BitVec 16)) := []
  pending : List Pending := []
  /-- stack agents by 4 × (4 × die + stack) + unit (R74) -/
  agents : Sparse AgentQueue := []
  hostsAtoms : List HostsAtom := []
  nextGang : Nat := 1
  nextOrder : Nat := 0
  /-- what the last host read or AtomicOp was answered -/
  answer : List Byte := []
  /-- completion status of the last host AtomicOp: 0 successful, 1 Unsupported Request, 2 Completer Abort -/
  answerStatus : Nat := 0
  /-- MSI-X vectors signalled: function, vector (R45) -/
  msix : List (Nat × Nat) := []
  cycle : Nat := 0
  tick : Nat := 0
  inputs : List Instr := []
  actor : Actor := {}
  deriving DecidableEq, Repr

/-- The module right after reset: every register at the reset value of its own table, nothing placed, no context, no
partition, no window, every memory empty. The default of each field above is its reset value. -/
def State.reset : State := {}

end Sys2Proof.Machine
end

