-- ==== Sys2Proof/Machine/Sparse.lean ====
section
/-! DEFINITION. The operations of sparse state: one canonical list form for every memory, register file and table, and
byte order, decided once (R3). -/

namespace Sys2Proof.Machine

/-- What key `k` holds; `d` is what an unlisted key reads as. -/
def sget {α : Type} (d : α) : Sparse α → Nat → α
  | [], _ => d
  | (j, v) :: m, k => if j = k then v else sget d m k

/-- What key `k` holds, if it is listed. -/
def sfind {α : Type} : Sparse α → Nat → Option α
  | [], _ => none
  | (j, v) :: m, k => if j = k then some v else sfind m k

/-- Remove key `k`. -/
def serase {α : Type} : Sparse α → Nat → Sparse α
  | [], _ => []
  | (j, v) :: m, k => if j = k then serase m k else (j, v) :: serase m k

/-- List `v` at key `k`, in its place. -/
def sput {α : Type} : Sparse α → Nat → α → Sparse α
  | [], k, v => [(k, v)]
  | (j, w) :: m, k, v =>
    if k < j then (k, v) :: (j, w) :: m
    else if k = j then (k, v) :: m
    else (j, w) :: sput m k v

/-- Set key `k` to `v`; setting it to `d`, what an unlisted key reads as, removes the entry. -/
def sset {α : Type} [DecidableEq α] (d : α) (m : Sparse α) (k : Nat) (v : α) : Sparse α :=
  if v = d then serase m k else sput m k v

/-- Every key is above `k`. -/
def sabove {α : Type} (k : Nat) : Sparse α → Bool
  | [] => true
  | (j, _) :: m => decide (k < j) && sabove k m

/-- The keys rise strictly. -/
def ssorted {α : Type} : Sparse α → Bool
  | [] => true
  | (j, _) :: m => sabove j m && ssorted m

/-- The canonical form: keys rise strictly and no entry equals `d`. -/
def swf {α : Type} [DecidableEq α] (d : α) (m : Sparse α) : Bool :=
  ssorted m && m.all (fun e => decide (e.2 ≠ d))

/-! ## Bytes -/

/-- The device memory, host memory and any other byte store whose unlisted bytes read as zero (R60). -/
abbrev Memory := Sparse Byte

/-- The canonical form of a memory. -/
def Memory.wf (m : Memory) : Bool := swf 0 m

/-- One byte of a memory. -/
def mbyte (m : Memory) (a : Nat) : Byte := sget 0 m a

/-- Write one byte. -/
def mput (m : Memory) (a : Nat) (b : Byte) : Memory := sset 0 m a b

/-- Bytes of `n`, least significant first (R3). -/
def toBytes : Nat → Nat → List Byte
  | 0, _ => []
  | k + 1, v => BitVec.ofNat 8 v :: toBytes k (v / 256)

/-- The number that little-endian bytes spell (R3). -/
def ofBytes : List Byte → Nat
  | [] => 0
  | b :: bs => b.toNat + 256 * ofBytes bs

/-- `n` bytes from `a` upwards. -/
def mread (m : Memory) (a : Nat) : Nat → List Byte
  | 0 => []
  | n + 1 => mbyte m a :: mread m (a + 1) n

/-- Write bytes from `a` upwards. -/
def mwrite (m : Memory) (a : Nat) : List Byte → Memory
  | [] => m
  | b :: bs => mwrite (mput m a b) (a + 1) bs

/-- The little-endian value of `n` bytes at `a`. -/
def mval (m : Memory) (a n : Nat) : Nat := ofBytes (mread m a n)

/-- Bits [lo + len − 1 : lo] of a number. -/
def nbits (v lo len : Nat) : Nat := (v >>> lo) % 2 ^ len

/-- Bit `i` of a number. -/
def nbit (v i : Nat) : Bool := v.testBit i

/-- A field of a bit vector as a number. -/
def field {n : Nat} (v : BitVec n) (lo len : Nat) : Nat := nbits v.toNat lo len

/-- The signed value of the low `n` bits of `v`. -/
def sint (n v : Nat) : Int :=
  let u := v % 2 ^ n
  if u < 2 ^ (n - 1) then (u : Int) else (u : Int) - (2 ^ n : Nat)

/-- The low `n` bits of an integer's two's-complement form (R7). -/
def low (n : Nat) (v : Int) : Nat := (v % ((2 ^ n : Nat) : Int)).toNat

/-- Bit `i` of a bitmap. -/
def bmem {n : Nat} (m : BitVec n) (i : Nat) : Bool := m.getLsbD i

/-- A bitmap with bit `i` set. -/
def bset {n : Nat} (m : BitVec n) (i : Nat) : BitVec n := m ||| BitVec.ofNat n (2 ^ i)

/-- A bitmap with bit `i` clear. -/
def bclr {n : Nat} (m : BitVec n) (i : Nat) : BitVec n := m &&& ~~~ (BitVec.ofNat n (2 ^ i))

/-- The numbers below `n` in ascending order. -/
def upto (n : Nat) : List Nat := List.range n

/-- Write bytes into a store whose unlisted bytes are undefined. -/
def uwrite (m : Sparse Byte) (a : Nat) : List Byte → Sparse Byte
  | [] => m
  | b :: bs => uwrite (sput m a b) (a + 1) bs

end Sys2Proof.Machine
end

