-- ==== Sys2Proof/Machine/Crypto.lean ====
section
/-! DEFINITION. The ciphers and digests that the manual names by their standards: AES-256 (FIPS 197), GMAC (NIST
SP 800-38D) and SHA-256 (FIPS 180-4), over lists of bytes; and the line cipher and MACs of R99 and R104. -/

namespace Sys2Proof.Machine

/-! ## AES-256 (FIPS 197) -/

/-- The product of two bytes in GF(2^8) modulo x^8 + x^4 + x^3 + x + 1; `n` bits of `b` are left. -/
def gfMulBits : Nat → Nat → Nat → Nat → Nat
  | 0, _, _, acc => acc
  | n + 1, a, b, acc =>
    let a2 := if 128 ≤ a then (2 * a) ^^^ 0x11B else 2 * a
    gfMulBits n a2 (b / 2) (if b % 2 = 1 then acc ^^^ a else acc)

/-- The product in GF(2^8). -/
def gfMul (a b : Nat) : Nat := gfMulBits 8 a b 0

/-- The inverse in GF(2^8), a^254; that of 0 is 0. -/
def gfInv (a : Nat) : Nat :=
  let a2 := gfMul a a
  let a4 := gfMul a2 a2
  let a8 := gfMul a4 a4
  let a16 := gfMul a8 a8
  let a32 := gfMul a16 a16
  let a64 := gfMul a32 a32
  gfMul (gfMul (gfMul a2 a4) (gfMul a8 a16)) (gfMul (gfMul a32 a64) (gfMul a64 a64))

/-- A byte rotated left. -/
def rotByte (a n : Nat) : Nat := (a * 2 ^ n) % 256 + a / 2 ^ (8 - n)

/-- SubBytes of one byte. -/
def aesSub (a : Nat) : Nat :=
  let i := gfInv (a % 256)
  i ^^^ rotByte i 1 ^^^ rotByte i 2 ^^^ rotByte i 3 ^^^ rotByte i 4 ^^^ 0x63

/-- Two lists of numbers, XORed. -/
def xorList (a b : List Nat) : List Nat := a.zipWith (fun x y => x ^^^ y) b

/-- The key schedule: words of four bytes, the latest first; `n` words are left to make. -/
def aesExpand : Nat → Nat → List (List Nat) → List (List Nat)
  | 0, _, ws => ws
  | n + 1, i, ws =>
    let t := ws.getD 0 []
    let t := if i % 8 = 0 then xorList ((t.drop 1 ++ t.take 1).map aesSub) [gfMulBits 8 1 0 (2 ^ (i / 8 - 1)), 0, 0, 0]
      else if i % 8 = 4 then t.map aesSub else t
    aesExpand n (i + 1) (xorList (ws.getD 7 []) t :: ws)

/-- A list cut into pieces of `k`; `n` cutBy at most. -/
def cutBy {α : Type} (k : Nat) : Nat → List α → List (List α)
  | 0, _ => []
  | n + 1, l => if l.isEmpty then [] else l.take k :: cutBy k n (l.drop k)

/-- The fifteen round keys of a 256-bit key, whose byte 0 is the first of the 32 given. -/
def aesKeys (key : List Nat) : List (List Nat) :=
  cutBy 16 15 ((aesExpand 52 8 (cutBy 4 8 key).reverse).reverse.flatMap id)

/-- ShiftRows: byte `i` of the block comes from column (i / 4 + i % 4) mod 4. -/
def aesShift (b : List Nat) : List Nat := (upto 16).map (fun i => b.getD ((i / 4 + i % 4) % 4 * 4 + i % 4) 0)

/-- MixColumns. -/
def aesMix (b : List Nat) : List Nat :=
  (upto 16).map (fun i =>
    let at' (j : Nat) : Nat := b.getD (i / 4 * 4 + (i + j) % 4) 0
    gfMul 2 (at' 0) ^^^ gfMul 3 (at' 1) ^^^ at' 2 ^^^ at' 3)

/-- Rounds of AES from the block and the round keys left; the last has no MixColumns. -/
def aesRounds : List (List Nat) → List Nat → List Nat
  | [], b => b
  | [k], b => xorList (aesShift (b.map aesSub)) k
  | k :: ks, b => aesRounds ks (xorList (aesMix (aesShift (b.map aesSub))) k)

/-- AES-256 of one block of 16 bytes. -/
def aesBlock (key block : List Nat) : List Nat :=
  match aesKeys key with
  | [] => block
  | k :: ks => aesRounds ks (xorList block k)

/-- A number as `n` bytes, most significant first: the order of the octets of a block (log 85). -/
def bigBytes (n v : Nat) : List Nat := ((toBytes n v).map BitVec.toNat).reverse

/-- The number that bytes spell, most significant first. -/
def ofBig (l : List Nat) : Nat := l.foldl (fun a b => 256 * a + b) 0

/-- AES-256 of a 128-bit block under a 256-bit key, both as numbers. -/
def aes256 (key : BitVec 256) (block : Nat) : Nat := ofBig (aesBlock (bigBytes 32 key.toNat) (bigBytes 16 block))

/-! ## GMAC (NIST SP 800-38D) -/

/-- The product of SP 800-38D in GF(2^128), whose bit 0 is the block's most significant; `n` bits of `x` are left. -/
def ghashMulBits : Nat → Nat → Nat → Nat → Nat
  | 0, _, _, z => z
  | n + 1, x, v, z =>
    let z := if nbit x n then z ^^^ v else z
    ghashMulBits n x (if v % 2 = 1 then (v / 2) ^^^ (0xE1 * 2 ^ 120) else v / 2) z

/-- GHASH of blocks under the hash key `h`. -/
def ghash (h : Nat) (blocks : List Nat) : Nat := blocks.foldl (fun y x => ghashMulBits 128 (y ^^^ x) h 0) 0

/-- Bytes as blocks, the last filled with zeros. -/
def blocksOf (data : List Byte) : List Nat :=
  (cutBy 16 (data.length / 16 + 1) (data.map BitVec.toNat)).map (fun p => ofBig (p ++ List.replicate (16 - p.length) 0))

/-- GMAC of `aad` with a 128-bit IV: the whole tag. -/
def gmac (key : BitVec 256) (iv : Nat) (aad : List Byte) : Nat :=
  let h := aes256 key 0
  let j := ghash h [iv % 2 ^ 128, 128]
  ghash h (blocksOf aad ++ [8 * aad.length * 2 ^ 64]) ^^^ aes256 key j

/-! ## SHA-256 (FIPS 180-4) -/

/-- floor of the cube root of `n`, below 2^`k`. -/
def cubeRoot (n : Nat) : Nat → Nat → Nat
  | 0, r => r
  | k + 1, r => cubeRoot n k (if (r + 2 ^ k) ^ 3 ≤ n then r + 2 ^ k else r)

/-- floor of the square root of `n`, below 2^`k`. -/
def squareRoot (n : Nat) : Nat → Nat → Nat
  | 0, r => r
  | k + 1, r => squareRoot n k (if (r + 2 ^ k) ^ 2 ≤ n then r + 2 ^ k else r)

/-- The first primes below 312: 64 of them. -/
def shaPrimes : List Nat := (upto 312).filter (fun p => decide (2 ≤ p) && (upto 18).all (fun d => decide (d < 2 ∨ p ≤ d ∨ p % d ≠ 0)))

/-- The 64 constants: the first 32 bits of the fractional parts of the primes' cube roots. -/
def shaK : List (BitVec 32) := shaPrimes.map (fun p => BitVec.ofNat 32 (cubeRoot (p * 2 ^ 96) 36 0))

/-- The initial value: the first 32 bits of the fractional parts of eight square roots. -/
def shaH : List (BitVec 32) := (shaPrimes.take 8).map (fun p => BitVec.ofNat 32 (squareRoot (p * 2 ^ 64) 38 0))

/-- The message schedule, the latest word first; `n` words are left to make. -/
def shaWords : Nat → List (BitVec 32) → List (BitVec 32)
  | 0, ws => ws
  | n + 1, ws =>
    let w2 := ws.getD 1 0
    let w15 := ws.getD 14 0
    let s0 := w15.rotateRight 7 ^^^ w15.rotateRight 18 ^^^ (w15 >>> 3)
    let s1 := w2.rotateRight 17 ^^^ w2.rotateRight 19 ^^^ (w2 >>> 10)
    shaWords n ((ws.getD 15 0 + s0 + ws.getD 6 0 + s1) :: ws)

/-- One round on the eight working words, with its word and constant. -/
def shaRound (v : List (BitVec 32)) (wk : BitVec 32 × BitVec 32) : List (BitVec 32) :=
  let a := v.getD 0 0
  let e := v.getD 4 0
  let s1 := e.rotateRight 6 ^^^ e.rotateRight 11 ^^^ e.rotateRight 25
  let ch := (e &&& v.getD 5 0) ^^^ (~~~ e &&& v.getD 6 0)
  let t1 := v.getD 7 0 + s1 + ch + wk.2 + wk.1
  let s0 := a.rotateRight 2 ^^^ a.rotateRight 13 ^^^ a.rotateRight 22
  let maj := (a &&& v.getD 1 0) ^^^ (a &&& v.getD 2 0) ^^^ (v.getD 1 0 &&& v.getD 2 0)
  [t1 + s0 + maj, a, v.getD 1 0, v.getD 2 0, v.getD 3 0 + t1, e, v.getD 5 0, v.getD 6 0]

/-- One 64-byte block into the hash value. -/
def shaBlock (h : List (BitVec 32)) (b : List Nat) : List (BitVec 32) :=
  let ws := (shaWords 48 ((cutBy 4 16 b).map (fun p => BitVec.ofNat 32 (ofBig p))).reverse).reverse
  h.zipWith (fun x y => x + y) ((ws.zip shaK).foldl shaRound h)

/-- SHA-256 of a byte string, as the number whose most significant byte is the digest's first. -/
def sha256 (data : List Byte) : BitVec 256 :=
  let n := data.length
  let msg := data.map BitVec.toNat ++ [0x80] ++ List.replicate ((119 - n % 64) % 64) 0 ++ bigBytes 8 (8 * n)
  let h := (cutBy 64 (msg.length / 64) msg).foldl shaBlock shaH
  BitVec.ofNat 256 (h.foldl (fun a w => a * 2 ^ 32 + w.toNat) 0)

/-! ## Lines and nodes (R99, R104) -/

/-- KM of key K (R99). -/
def macKey (k : BitVec 256) : BitVec 256 := BitVec.ofNat 256 (aes256 k 2 * 2 ^ 128 + aes256 k 1)

/-- ctrblk(b) of a line (R99): its leftmost field is the most significant. -/
def ctrBlock (major minor dpa b : Nat) : Nat :=
  ((((major % 2 ^ 64 * 2 ^ 7 + minor % 2 ^ 7) * 2 ^ 9) * 2 ^ 42 + dpa / 64 % 2 ^ 42) * 2 ^ 2 + b % 4) * 2 ^ 4

/-- The ciphertext of a line's 64 bytes, or the plaintext of its ciphertext: the key stream is the same (R99). -/
def lineCipher (k : BitVec 256) (major minor dpa : Nat) (plain : List Byte) : List Byte :=
  let stream := (upto 4).flatMap (fun b => bigBytes 16 (aes256 k (ctrBlock major minor dpa b)))
  plain.zipWith (fun x y => x ^^^ BitVec.ofNat 8 y) stream

/-- The 56-bit MAC of a line's ciphertext (R99). -/
def lineMac (k : BitVec 256) (major minor dpa : Nat) (cipher : List Byte) : BitVec 56 :=
  BitVec.ofNat 56 (gmac (macKey k) (ctrBlock major minor dpa 0) cipher)

/-- The 56-bit MAC of a counter line (level 0) or tree node (R104). -/
def nodeMac (k : BitVec 256) (level unit idx : Nat) (bytes : List Byte) : BitVec 56 :=
  BitVec.ofNat 56 (gmac (macKey k) ((level % 256 * 2 ^ 16 + unit % 2 ^ 16) * 2 ^ 40 * 2 ^ 64 + idx % 2 ^ 64) bytes)

end Sys2Proof.Machine
end

