-- ==== Sys2Proof/Config.lean ====
section
/-! DEFINITION. What the manual leaves open: the free values of the model (no body, so nothing can be proved of a
value of one) and the constants of the part KWO416 (Table 1-1). -/

namespace Sys2Proof.Config

/-- Cores of one die (Table 1-1, R10). -/
def coresPerDie : Nat := 64

/-- Cores of the package (Table 1-1). -/
def cores : Nat := 256

/-- Bytes of one core's scratchpad (Table 1-1): 2 MiB. -/
def scratchBytes : Nat := 0x200000

/-- Elements of one accumulator bank: 128 rows of 512 FP32 (Table 1-1). -/
def bankElems : Nat := 65536

/-- Semaphores of one die (R143). -/
def semsPerDie : Nat := 65536

/-- Frames of one stack (R18). -/
def framesPerStack : Nat := 32768

/-- FREE VALUE (log 1). A scratchpad byte that nothing has written since the gang start or restore numbered `gen`
(R120, R267): undefined. -/
opaque undefScratch (gen core addr : Nat) : Byte

/-- FREE VALUE (log 1). An accumulator element (bank × 65,536 + element) that nothing has written since the gang start
or restore numbered `gen` (R120, R267), or that a plan left undefined (R238). -/
opaque undefAcc (gen core idx : Nat) : BitVec 32

/-- FREE VALUE (log 2). A scalar, tile or map register that a LIVE restore leaves undefined (R267), by the step's
counter and the register's place. -/
opaque undefReg (tick idx : Nat) : BitVec 64

/-- FREE VALUE (log 3). Cycles of the 1.3 GHz clock that a step takes (R2 gives worst-case bounds only). -/
opaque stepCycles (tick : Nat) : Nat

/-- FREE VALUE (log 4). Which of the results within the bound of Table 19-3 a transcendental of x = num × 2^exp returns, by
the operation. R350: a fixed function of x. -/
opaque ulpChoice (op : Nat) (num : Int) (exp : Int) : Nat

/-- FREE VALUE (log 5). Which of the record versions that R202 allows a copy word reads when no RCFENCE intervened. -/
opaque staleRecord (tick : Nat) : Nat

/-- FREE VALUE (log 6). A 256-bit key from the device's random bit generator (R95, R96, R108). -/
opaque randomKey (tick : Nat) : BitVec 256

/-- FREE VALUE (log 7). SLH-DSA-SHA2-192s (R59, R63, R65, R66): whether a signature verifies under a public key; the public
key of a key pair derived from a seed; a signature under it. -/
opaque slhVerify (key msg sig : List Byte) : Bool
opaque slhPublic (seed : BitVec 256) : List Byte
opaque slhSign (seed : BitVec 256) (msg : List Byte) : List Byte

/-- FREE VALUE (log 7). The response of a die's PUF, and its certificate in module flash (R65). -/
opaque pufResponse (die : Nat) : List Byte
opaque certificate (die : Nat) : List Byte

/-- FREE VALUE (log 8). Whether a FIELD_TEST package's signature verifies (R72). -/
opaque packageSigned (data : List Byte) : Bool

/-- FREE VALUE (log 8). Whether a field test of the die finds its unit faulty (R72, R90): 0 to 7 the clusters, 8 to 55 the
pseudo-channel groups, 56 to 71 the stack agents, 72 to 80 the fabric ports. -/
opaque fieldTestFails (tick die unit : Nat) : Bool

/-- FREE VALUE (log 8). The cycles from an INJECT command's completion to its i-th injection, and the unit it strikes: a
fixed function of seed, kind and i (R73). -/
opaque injectDelay (seed : BitVec 64) (kind i : Nat) : Nat
opaque injectUnit (seed : BitVec 64) (kind i : Nat) : Nat

/-- FREE VALUE (log 9). The set of a line (by its number) in an L2 slice and in an L1, whose address bits the manual does not
give (R171). -/
opaque l2Set (line : Nat) : BitVec 10
opaque l1Set (line : Nat) : BitVec 8

/-- FREE VALUE (log 9). Which of the allocator's ways a fill of an L2 takes, and which line of a full L1 set makes room: the
replacement rules that R79 and R171 leave open. -/
opaque l2Victim (tick line : Nat) : Nat
opaque l1Victim (tick line : Nat) : Nat

/-- FREE VALUE (log 9). The cycles for which the fill of a prefetched line is pending (R177, R311). -/
opaque fillCycles (tick : Nat) : Nat

/-- FREE VALUE (log 10). A result bit string that a word leaves undefined on data (overlapping copies R372, a torn
read): by the step's counter and the byte's address. -/
opaque undefByte (tick addr : Nat) : Byte

/-- FREE VALUE (log 7). The firmware image and its signature, and the configuration record, as module flash holds them at a
step (R59, R63): the module's own data, which may be replaced between starts. -/
opaque firmware (tick : Nat) : List Byte
opaque firmwareSig (tick : Nat) : List Byte
opaque configRecord (tick : Nat) : List Byte

/-- FREE VALUE (log 7). The public key in ROM and the serial in the management controller (R59, R63). -/
opaque romKey : List Byte
opaque controllerSerial : BitVec 64

/-- FREE VALUE (log 8). Whether the training of a start fails for a pseudo-channel of a stack, by its number among the
physical ones (R18), and whether its scan finds a physical unit of a harvest group faulty (R64). -/
opaque channelFails (tick stack channel : Nat) : Bool
opaque scanFails (tick group unit : Nat) : Bool

/-- FREE VALUE (log 19). Second-tier ports whose links do not train, and the bytes that each device reports (R19, R100). -/
opaque portsAbsent (tick : Nat) : BitVec 4
opaque portBytes (tick port : Nat) : Nat

/-- FREE VALUE (log 46). The hottest junction sensor of a die, in units of 1/8 °C (Table 2-4). -/
opaque junctionTemp (tick die : Nat) : BitVec 16

end Sys2Proof.Config
end

