-- ==== Sys2Proof/WellFormed.lean ====
section
/-! DEFINITION. Well-formed instructions: the range checks that the field types do not make (Tables 15-7, 18-1, 21-1;
R271, R273, R297, R300, R308, R315, R318, R321, R325, R326). An instruction that is not well-formed has no encoding. -/

namespace Sys2Proof

/-- A handle number 0 to 14 in a 6-bit field of the handle group (R308). -/
def handleNum (h : BitVec 6) : Bool := decide (h.toNat ≤ 14)

/-- A status register number of Table 15-2. -/
def statusNum (n : BitVec 12) : Bool :=
  let k := n.toNat
  decide (k ≤ 6) || decide (0x10 ≤ k ∧ k ≤ 0x14) || decide (0x18 ≤ k ∧ k ≤ 0x22) || decide (k = 0x30)

/-- A rounding mode code that is not reserved (Table 12-5). -/
def modeCode (m : Nat) : Bool := decide (m ≤ 4)

/-- An LNT slot that a program may name: not slot 0 (R152) and not 12 to 15 (R147). -/
def lntSlot (n : BitVec 4) : Bool := decide (1 ≤ n.toNat ∧ n.toNat ≤ 11)

/-- The first word register of an ENQ: at most 61 for ring M and 62 otherwise; no N register except for ring M
(Table 15-7). -/
def enqFields (ring a b : BitVec 6) : Bool :=
  decide (ring.toNat ≤ 5) && (if ring.toNat = 1 then decide (a.toNat ≤ 61) else decide (a.toNat ≤ 62 ∧ b.toNat = 0))

/-- The scope and window fields of a FENCE (R315). -/
def fenceFields (scope : BitVec 3) (win : BitVec 6) : Bool :=
  decide (scope.toNat ≤ 5) && (decide (scope.toNat = 4) || decide (win.toNat = 0))

/-- Whether a strand instruction has an encoding (R271, R273). Engine words and the device's own steps have no
check here: an engine checks its words when it decodes them (R279). -/
def Instr.wf : Instr → Bool
  | .sext _ _ w | .zext _ _ w => decide (w.toNat ≤ 2)
  | .fcvt _ _ _ code => modeCode (code.toNat / 8)
  | .loop _ off => decide (1 ≤ off.toNat ∧ off.toNat ≤ 8191)
  | .mfs _ num | .mts _ num => statusNum num
  | .rdid _ sel => decide (sel.toNat ≤ 7)
  | .ld _ _ w x _ _ => !(x && decide (w.toNat = 3))
  | .lds _ w x _ _ => !(x && decide (w.toNat = 3))
  | .trans h _ | .hinv h | .hqry _ h => handleNum h
  | .fence _ scope win => fenceFields scope win
  | .salias n _ => decide (n.toNat ≤ 31)
  | .enq ring a b => enqFields ring a b
  | .ringq _ ring field => decide (ring.toNat ≤ 5) && decide (field.toNat ≤ 5)
  | .pdef q _ | .padv q => decide (q.toNat ≤ 31)
  | .take d lvl b => decide (lvl.toNat ≤ 5) && (decide (d ≠ b) || decide (d.toNat = 0))
  | .lntw slot _ _ | .lntgo slot _ => lntSlot slot
  | .tmm ofmt _ _ _ | .tmms ofmt _ _ _ => decide (ofmt.toNat ≤ 2)
  | .tcvt mode _ _ _ => modeCode mode.toNat
  | .mapset m _ | .maprow _ m _ _ => decide (m.toNat ≤ 15)
  | _ => true

end Sys2Proof
end

