-- ==== Sys2Proof/Decode.lean ====
section
/-! DEFINITION. Decoding, total on any word, and the encoder (Tables 15-5 to 15-11, 18-1, 21-1). -/

namespace Sys2Proof

/-- Why a word is no instruction (R271 to R273, R278). -/
inductive DecodeError where
  /-- a reserved major opcode -/
  | reservedMajor
  /-- a function code beyond the last of its group -/
  | reservedFunction
  /-- a field or modifier bit that must be zero is not -/
  | fieldNotZero
  /-- a field value out of range -/
  | outOfRange
  /-- a reserved VOP, MOP or COP -/
  | reservedEngineOpcode
  /-- no word of this length exists -/
  | noSuchWord
  deriving DecidableEq, Repr

/-! ## Fields of a strand word (Table 15-5) -/

/-- The major opcode, [31:26]. -/
def wMajor (w : BitVec 32) : BitVec 6 := w.extractLsb' 26 6
/-- Bits [25:20]: d, td, the source of ST, or a of BR. -/
def wD (w : BitVec 32) : BitVec 6 := w.extractLsb' 20 6
/-- Bits [19:14]: a, ta, or b of BR. -/
def wA (w : BitVec 32) : BitVec 6 := w.extractLsb' 14 6
/-- Bits [13:8]: b or tb. -/
def wB (w : BitVec 32) : BitVec 6 := w.extractLsb' 8 6
/-- Bits [7:0]: fn8. -/
def wFn8 (w : BitVec 32) : BitVec 8 := w.extractLsb' 0 8
/-- Bits [4:0]: the function code. -/
def wFn (w : BitVec 32) : BitVec 5 := w.extractLsb' 0 5
/-- Bits [7:5]: the modifier bits. -/
def wMod (w : BitVec 32) : BitVec 3 := w.extractLsb' 5 3
/-- Bits [13:0]: imm14 or off14. -/
def wImm14 (w : BitVec 32) : BitVec 14 := w.extractLsb' 0 14
/-- Bits [19:0]: imm20 or off20. -/
def wImm20 (w : BitVec 32) : BitVec 20 := w.extractLsb' 0 20
/-- The h field of the M and AT formats, [19:16]. -/
def wH (w : BitVec 32) : BitVec 4 := w.extractLsb' 16 4
/-- w of the M format, [15:14]. -/
def wMW (w : BitVec 32) : BitVec 2 := w.extractLsb' 14 2
/-- x of the M format, [13]. -/
def wMX (w : BitVec 32) : Bool := w.getLsbD 13
/-- a of the M format, [12:7]. -/
def wMA (w : BitVec 32) : BitVec 6 := w.extractLsb' 7 6
/-- imm7 of the M format. -/
def wImm7 (w : BitVec 32) : BitVec 7 := w.extractLsb' 0 7
/-- w of the MS format, [19:18]. -/
def wSW (w : BitVec 32) : BitVec 2 := w.extractLsb' 18 2
/-- x of the MS format, [17]. -/
def wSX (w : BitVec 32) : Bool := w.getLsbD 17
/-- a of the MS format, [16:11]. -/
def wSA (w : BitVec 32) : BitVec 6 := w.extractLsb' 11 6
/-- imm11 of the MS format. -/
def wImm11 (w : BitVec 32) : BitVec 11 := w.extractLsb' 0 11
/-- a of the AT format, [15:10]. -/
def wTA (w : BitVec 32) : BitVec 6 := w.extractLsb' 10 6
/-- b of the AT format, [9:4]. -/
def wTB (w : BitVec 32) : BitVec 6 := w.extractLsb' 4 6
/-- fn4 of the AT format. -/
def wFn4 (w : BitVec 32) : BitVec 4 := w.extractLsb' 0 4

/-- Accept `i` if the must-be-zero fields are zero and the ranges of Tables 15-7 and 18-1 hold. -/
def accept (zero : Bool) (i : Instr) : Except DecodeError Instr :=
  if !zero then .error .fieldNotZero else if i.wf then .ok i else .error .outOfRange

/-! ## The groups of Table 15-7 -/

/-- Major 0x01. -/
def decodeAlu (w : BitVec 32) : Except DecodeError Instr :=
  let d := wD w; let a := wA w; let b := wB w
  let m := decide (wMod w = 0)
  match (wFn w).toNat with
  | 0 => accept m (.add d a b)
  | 1 => accept m (.sub d a b)
  | 2 => accept m (.and d a b)
  | 3 => accept m (.or d a b)
  | 4 => accept m (.xor d a b)
  | 5 => accept m (.andn d a b)
  | 6 => accept m (.sll d a b)
  | 7 => accept m (.srl d a b)
  | 8 => accept m (.sra d a b)
  | 9 => accept m (.mul d a b)
  | 10 => accept m (.mulhu d a b)
  | 11 => accept m (.mulhs d a b)
  | 12 => accept m (.div d a b)
  | 13 => accept m (.divu d a b)
  | 14 => accept m (.rem d a b)
  | 15 => accept m (.remu d a b)
  | 16 => accept m (.min d a b)
  | 17 => accept m (.max d a b)
  | 18 => accept m (.minu d a b)
  | 19 => accept m (.maxu d a b)
  | 20 => accept m (.slt d a b)
  | 21 => accept m (.sltu d a b)
  | 22 => accept m (.seq d a b)
  | 23 => accept (m && decide (b = 0)) (.clz d a)
  | 24 => accept (m && decide (b = 0)) (.ctz d a)
  | 25 => accept (m && decide (b = 0)) (.popc d a)
  | 26 => accept m (.sext d a b)
  | 27 => accept m (.zext d a b)
  | _ => .error .reservedFunction

/-- Major 0x08: imm14[13:12] selects the member. -/
def decodeShift (w : BitVec 32) : Except DecodeError Instr :=
  let d := wD w; let a := wA w; let sh : BitVec 6 := w.extractLsb' 0 6
  let z := decide (w.extractLsb' 6 6 = 0#6)
  match (w.extractLsb' 12 2).toNat with
  | 0 => accept z (.slli d a sh)
  | 1 => accept z (.srli d a sh)
  | 2 => accept z (.srai d a sh)
  | _ => .error .reservedFunction

/-- Major 0x0B. -/
def decodeFpu (w : BitVec 32) : Except DecodeError Instr :=
  let d := wD w; let a := wA w; let b := wB w; let dbl := w.getLsbD 7
  let m := decide (w.extractLsb' 5 2 = 0#2)
  match (wFn w).toNat with
  | 0 => accept m (.fadd dbl d a b)
  | 1 => accept m (.fsub dbl d a b)
  | 2 => accept m (.fmul dbl d a b)
  | 3 => accept m (.fdiv dbl d a b)
  | 4 => accept (m && decide (b = 0)) (.fsqrt dbl d a)
  | 5 => accept m (.fmin dbl d a b)
  | 6 => accept m (.fmax dbl d a b)
  | 7 => accept m (.fma dbl d a b)
  | 8 => accept m (.fcmpeq dbl d a b)
  | 9 => accept m (.fcmplt dbl d a b)
  | 10 => accept m (.fcmple dbl d a b)
  | 11 => accept (m && decide (b = 0)) (.fclass dbl d a)
  | 12 => accept m (.fcvt dbl d a b)
  | _ => .error .reservedFunction

/-- Major 0x15. -/
def decodeMisc (w : BitVec 32) : Except DecodeError Instr :=
  let d := wD w; let a := wA w; let b := wB w
  let m := decide (wMod w = 0)
  match (wFn w).toNat with
  | 0 => accept m (.mfs d (w.extractLsb' 8 12))
  | 1 => accept m (.mts d (w.extractLsb' 8 12))
  | 2 => accept m (.vdq d a b)
  | 3 => accept (m && decide (b = 0)) (.sflag d a)
  | 4 => accept (m && decide (a = 0)) (.rdid d b)
  | _ => .error .reservedFunction

/-- Major 0x1B. -/
def decodeHandle (w : BitVec 32) : Except DecodeError Instr :=
  let d := wD w; let a := wA w
  let m := decide (wMod w = 0) && decide (wB w = 0)
  match (wFn w).toNat with
  | 0 => accept m (.trans d a)
  | 1 => accept (m && decide (a = 0)) (.hinv d)
  | 2 => accept m (.hqry d a)
  | _ => .error .reservedFunction

/-- Major 0x1C. -/
def decodeAtom32 (w : BitVec 32) : Except DecodeError Instr :=
  let d := wD w; let h := wH w; let a := wTA w; let b := wTB w
  match (wFn4 w).toNat with
  | 0 => accept true (.atom32Add d h a b)
  | 1 => accept true (.atom32And d h a b)
  | 2 => accept true (.atom32Or d h a b)
  | 3 => accept true (.atom32Xor d h a b)
  | 4 => accept true (.atom32Min d h a b)
  | 5 => accept true (.atom32Max d h a b)
  | 6 => accept true (.atom32Minu d h a b)
  | 7 => accept true (.atom32Maxu d h a b)
  | 8 => accept true (.atom32Xchg d h a b)
  | 9 => accept true (.atom32Cas d h a b)
  | 10 => accept true (.atom32Fadd d h a b)
  | 11 => accept true (.atom32Fmin d h a b)
  | 12 => accept true (.atom32Fmax d h a b)
  | _ => .error .reservedFunction

/-- Major 0x1D. -/
def decodeAtom64 (w : BitVec 32) : Except DecodeError Instr :=
  let d := wD w; let h := wH w; let a := wTA w; let b := wTB w
  match (wFn4 w).toNat with
  | 0 => accept true (.atom64Add d h a b)
  | 1 => accept true (.atom64And d h a b)
  | 2 => accept true (.atom64Or d h a b)
  | 3 => accept true (.atom64Xor d h a b)
  | 4 => accept true (.atom64Min d h a b)
  | 5 => accept true (.atom64Max d h a b)
  | 6 => accept true (.atom64Minu d h a b)
  | 7 => accept true (.atom64Maxu d h a b)
  | 8 => accept true (.atom64Xchg d h a b)
  | 9 => accept true (.atom64Cas d h a b)
  | 10 => accept true (.atom64Fadd d h a b)
  | 11 => accept true (.atom64Fmin d h a b)
  | 12 => accept true (.atom64Fmax d h a b)
  | _ => .error .reservedFunction

/-- Major 0x1E. -/
def decodeLease (w : BitVec 32) : Except DecodeError Instr :=
  let d := wD w; let h := wH w; let a := wTA w
  let bz := decide (wTB w = 0)
  match (wFn4 w).toNat with
  | 0 => accept (bz && decide (d = 0)) (.lease h a)
  | 1 => accept (bz && decide (h = 0) && decide (a = 0)) (.unlease d)
  | _ => .error .reservedFunction

/-- Major 0x1F: d[1:0] kind, d[4:2] scope, d[5] zero. -/
def decodeFence (w : BitVec 32) : Except DecodeError Instr :=
  let a := wA w
  let m := decide (wMod w = 0) && decide (wB w = 0)
  match (wFn w).toNat with
  | 0 => accept (m && !w.getLsbD 25) (.fence (w.extractLsb' 20 2) (w.extractLsb' 22 3) a)
  | 1 => accept (m && decide (wD w = 0) && decide (a = 0)) .rcfence
  | _ => .error .reservedFunction

/-- Major 0x20: fn8[5] is EQ for SWAIT. -/
def decodeSem (w : BitVec 32) : Except DecodeError Instr :=
  let d := wD w; let a := wA w; let b := wB w
  let m := decide (wMod w = 0)
  match (wFn w).toNat with
  | 0 => accept (decide (w.extractLsb' 6 2 = 0#2) && decide (d = 0)) (.swait (w.getLsbD 5) a b)
  | 1 => accept (m && decide (d = 0)) (.ssig a b)
  | 2 => accept (m && decide (b = 0)) (.sread d a)
  | 3 => accept (m && decide (d = 0)) (.sinit a b)
  | 4 => accept (m && decide (b = 0)) (.salias d a)
  | _ => .error .reservedFunction

/-- Major 0x21. -/
def decodeWait (w : BitVec 32) : Except DecodeError Instr :=
  let d := wD w; let h := wH w; let a := wTA w; let b := wTB w
  match (wFn4 w).toNat with
  | 0 => accept (decide (b = 0)) (.waitq d h a)
  | 1 => accept true (.wake d h a b)
  | _ => .error .reservedFunction

/-- Major 0x23. -/
def decodeEnq (w : BitVec 32) : Except DecodeError Instr :=
  let d := wD w; let a := wA w; let b := wB w
  let m := decide (wMod w = 0)
  match (wFn w).toNat with
  | 0 => accept m (.enq d a b)
  | 1 => accept m (.ringq d a b)
  | 2 => accept (m && decide (b = 0)) (.pdef d a)
  | 3 => accept (m && decide (a = 0) && decide (b = 0)) (.padv d)
  | _ => .error .reservedFunction

/-- Major 0x24. -/
def decodeTake (w : BitVec 32) : Except DecodeError Instr :=
  match (wFn w).toNat with
  | 0 => accept (decide (wMod w = 0)) (.take (wD w) (wA w) (wB w))
  | _ => .error .reservedFunction

/-- Major 0x25: d[3:0] slot, d[4] engine, d[5] zero. -/
def decodeLnt (w : BitVec 32) : Except DecodeError Instr :=
  let a := wA w
  let m := decide (wMod w = 0) && decide (wB w = 0)
  match (wFn w).toNat with
  | 0 => accept (m && !w.getLsbD 25) (.lntw (w.extractLsb' 20 4) (w.getLsbD 24) a)
  | 1 => accept (m && !w.getLsbD 25 && decide (a = 0)) (.lntgo (w.extractLsb' 20 4) (w.getLsbD 24))
  | 2 => accept m (.fmtw (wD w) a)
  | _ => .error .reservedFunction

/-- Major 0x26. -/
def decodeLeaf (w : BitVec 32) : Except DecodeError Instr :=
  let d := wD w; let a := wA w; let b := wB w
  let m := decide (wMod w = 0)
  match (wFn w).toNat with
  | 0 => accept (m && decide (b = 0)) (.tld d a)
  | 1 => accept (m && decide (b = 0)) (.tlds d a)
  | 2 => accept m (.tfill d a b)
  | _ => .error .reservedFunction

/-- Major 0x27: fn8[7:5] is the output format. -/
def decodeTmm (w : BitVec 32) : Except DecodeError Instr :=
  match (wFn w).toNat with
  | 0 => accept true (.tmm (wMod w) (wD w) (wA w) (wB w))
  | 1 => accept true (.tmms (wMod w) (wD w) (wA w) (wB w))
  | _ => .error .reservedFunction

/-- Major 0x28. -/
def decodeTew (w : BitVec 32) : Except DecodeError Instr :=
  let d := wD w; let a := wA w; let b := wB w
  let m := decide (wMod w = 0)
  match (wFn w).toNat with
  | 0 => accept m (.tewAdd d a b)
  | 1 => accept m (.tewSub d a b)
  | 2 => accept m (.tewMul d a b)
  | 3 => accept m (.tewDiv d a b)
  | 4 => accept m (.tewMax d a b)
  | 5 => accept m (.tewMin d a b)
  | _ => .error .reservedFunction

/-- Major 0x29. -/
def decodeTun (w : BitVec 32) : Except DecodeError Instr :=
  let d := wD w; let a := wA w
  let m := decide (wMod w = 0) && decide (wB w = 0)
  match (wFn w).toNat with
  | 0 => accept m (.tunExp d a)
  | 1 => accept m (.tunLog d a)
  | 2 => accept m (.tunRcp d a)
  | 3 => accept m (.tunRsq d a)
  | 4 => accept m (.tunTanh d a)
  | 5 => accept m (.tunSilu d a)
  | 6 => accept m (.tunNeg d a)
  | 7 => accept m (.tunAbs d a)
  | _ => .error .reservedFunction

/-- Major 0x2A. -/
def decodeTcvt (w : BitVec 32) : Except DecodeError Instr :=
  let d := wD w; let a := wA w; let b := wB w
  match (wFn w).toNat with
  | 0 => accept true (.tcvt (wMod w) d a b)
  | 1 => accept (decide (b = 0)) (.tred (w.getLsbD 5) (w.extractLsb' 6 2) d a)
  | 2 => accept (decide (wMod w = 0)) (.tsel d a b)
  | _ => .error .reservedFunction

/-- Major 0x2B. TMAP: tb[3:0] m, tb[5:4] and fn8[7:5] the s register. -/
def decodeTmap (w : BitVec 32) : Except DecodeError Instr :=
  let d := wD w; let a := wA w; let b := wB w
  match (wFn w).toNat with
  | 0 => accept true (.tmap d a (w.extractLsb' 8 4) (w.extractLsb' 12 2 ++ w.extractLsb' 5 3))
  | 1 => accept (decide (wMod w = 0) && decide (b = 0)) (.mapset d a)
  | 2 => accept (!w.getLsbD 5) (.maprow (w.extractLsb' 6 2) d a b)
  | _ => .error .reservedFunction

/-- Major 0x2C: fn8[5] selects .SP or .W. -/
def decodeStore (w : BitVec 32) : Except DecodeError Instr :=
  let z := decide (w.extractLsb' 6 2 = 0#2) && decide (wD w = 0)
  match (wFn w).toNat with
  | 0 => accept z (.tstore (w.getLsbD 5) (wA w) (wB w))
  | 1 => accept z (.force (w.getLsbD 5) (wA w) (wB w))
  | _ => .error .reservedFunction

/-- Major 0x2D. -/
def decodeTname (w : BitVec 32) : Except DecodeError Instr :=
  let d := wD w; let a := wA w; let b := wB w
  match (wFn w).toNat with
  | 0 => accept (decide (wMod w = 0) && decide (d = 0) && decide (b = 0)) (.tdrop a)
  | 1 => accept (decide (b = 0)) (.tqry d a (wMod w))
  | 2 => accept (decide (wMod w = 0) && decide (d = 0)) (.tarena a b)
  | _ => .error .reservedFunction

/-- Major 0x38. -/
def decodeSys (w : BitVec 32) : Except DecodeError Instr :=
  let d := wD w; let a := wA w; let b := wB w
  let m := decide (wMod w = 0)
  let z := m && decide (b = 0) && decide (d = 0)
  match (wFn w).toNat with
  | 0 => accept m (.trap (w.extractLsb' 8 18))
  | 1 => accept (z && decide (a = 0)) .eret
  | 2 => accept (z && decide (a = 0)) .exit
  | 3 => accept z (.pause a)
  | 4 => accept (m && decide (b = 0)) (.wfe d a)
  | 5 => accept (z && decide (a = 0)) .pyld
  | 6 => accept (m && decide (b = 0)) (.ctxsv d a)
  | 7 => accept z (.ctxld a)
  | 8 => accept z (.live a)
  | 9 => accept (z && decide (a = 0)) .dbgbrk
  | _ => .error .reservedFunction

/-- A strand word (R272): total; every word that is no instruction is refused by name. -/
def decodeStrand (w : BitVec 32) : Except DecodeError Instr :=
  let d := wD w; let a := wA w; let imm := wImm14 w
  match (wMajor w).toNat with
  | 0x01 => decodeAlu w
  | 0x02 => accept true (.addi d a imm)
  | 0x03 => accept true (.andi d a imm)
  | 0x04 => accept true (.ori d a imm)
  | 0x05 => accept true (.xori d a imm)
  | 0x06 => accept true (.slti d a imm)
  | 0x07 => accept true (.sltiu d a imm)
  | 0x08 => decodeShift w
  | 0x09 => accept true (.li d (wImm20 w))
  | 0x0A => accept true (.lih d (wImm20 w))
  | 0x0B => decodeFpu w
  | 0x0C => accept true (.beq d a imm)
  | 0x0D => accept true (.bne d a imm)
  | 0x0E => accept true (.blt d a imm)
  | 0x0F => accept true (.bge d a imm)
  | 0x10 => accept true (.bltu d a imm)
  | 0x11 => accept true (.bgeu d a imm)
  | 0x12 => accept true (.jal d (wImm20 w))
  | 0x13 => accept true (.jalr d a imm)
  | 0x14 => accept (decide (a = 0)) (.loop d imm)
  | 0x15 => decodeMisc w
  | 0x16 => accept true (.ld d (wH w) (wMW w) (wMX w) (wMA w) (wImm7 w))
  | 0x17 => accept (!wMX w) (.st d (wH w) (wMW w) (wMA w) (wImm7 w))
  | 0x18 => accept true (.lds d (wSW w) (wSX w) (wSA w) (wImm11 w))
  | 0x19 => accept (!wSX w) (.sts d (wSW w) (wSA w) (wImm11 w))
  | 0x1A => accept (decide (d = 0)) (.pf (wH w) (wMW w) (wMX w) (wMA w) (wImm7 w))
  | 0x1B => decodeHandle w
  | 0x1C => decodeAtom32 w
  | 0x1D => decodeAtom64 w
  | 0x1E => decodeLease w
  | 0x1F => decodeFence w
  | 0x20 => decodeSem w
  | 0x21 => decodeWait w
  | 0x22 => accept (decide (w.extractLsb' 0 26 = 0#26)) .bar
  | 0x23 => decodeEnq w
  | 0x24 => decodeTake w
  | 0x25 => decodeLnt w
  | 0x26 => decodeLeaf w
  | 0x27 => decodeTmm w
  | 0x28 => decodeTew w
  | 0x29 => decodeTun w
  | 0x2A => decodeTcvt w
  | 0x2B => decodeTmap w
  | 0x2C => decodeStore w
  | 0x2D => decodeTname w
  | 0x38 => decodeSys w
  | _ => .error .reservedMajor

/-! ## Engine words (Tables 15-8 to 15-11) -/

/-- The fields of a vector word below its opcode. -/
def vWordOf (w : BitVec 96) : VWord :=
  { mod := w.extractLsb' 86 3, fmt := w.extractLsb' 80 6, lnt := w.extractLsb' 76 4, await := w.extractLsb' 66 10,
    raise := w.extractLsb' 56 10, dst := w.extractLsb' 38 18, a := w.extractLsb' 20 18, b := w.extractLsb' 2 18,
    rsv := w.extractLsb' 0 2 }

/-- The fields of a matrix word below its opcode. -/
def mWordOf (w : BitVec 192) : MWord :=
  { fmtA := w.extractLsb' 178 6, fmtB := w.extractLsb' 172 6, accm := w.extractLsb' 170 2,
    bank := w.extractLsb' 168 2, await := w.extractLsb' 158 10, raise := w.extractLsb' 148 10,
    n16 := w.extractLsb' 143 5, lnt := w.extractLsb' 139 4, scale := w.extractLsb' 135 4,
    ava := w.extractLsb' 78 57, aux := w.extractLsb' 71 7, bva := w.extractLsb' 14 57,
    flags := w.extractLsb' 0 14 }

/-- The fields of a copy word below its opcode. -/
def cWordOf (w : BitVec 96) : CWord :=
  { mod := w.extractLsb' 86 3, await := w.extractLsb' 76 10, raise := w.extractLsb' 66 10,
    tsra := w.extractLsb' 15 51, ch := w.extractLsb' 10 5, tsrsp := w.getLsbD 9, rsv := w.extractLsb' 0 9 }

/-- A vector word by its VOP, [95:89]. -/
def decodeVector (w : BitVec 96) : Except DecodeError Instr :=
  let v := vWordOf w
  match (w.extractLsb' 89 7).toNat with
  | 1 => .ok (.vmov v)
  | 2 => .ok (.vadd v)
  | 3 => .ok (.vsub v)
  | 4 => .ok (.vmul v)
  | 5 => .ok (.vfma v)
  | 6 => .ok (.vdiv v)
  | 7 => .ok (.vmin v)
  | 8 => .ok (.vmax v)
  | 9 => .ok (.vabs v)
  | 10 => .ok (.vneg v)
  | 11 => .ok (.vexp v)
  | 12 => .ok (.vlog v)
  | 13 => .ok (.vrcp v)
  | 14 => .ok (.vrsq v)
  | 15 => .ok (.vtanh v)
  | 16 => .ok (.vsilu v)
  | 17 => .ok (.vcmp v)
  | 18 => .ok (.vsel v)
  | 19 => .ok (.vand v)
  | 20 => .ok (.vor v)
  | 21 => .ok (.vxor v)
  | 22 => .ok (.vshl v)
  | 23 => .ok (.vshr v)
  | 24 => .ok (.vcvt v)
  | 25 => .ok (.vqnt v)
  | 26 => .ok (.vrsum v)
  | 27 => .ok (.vrmax v)
  | 28 => .ok (.vscan v)
  | 29 => .ok (.vgath v)
  | 30 => .ok (.vscat v)
  | 31 => .ok (.vhins v)
  | 32 => .ok (.vhdrn v)
  | 33 => .ok (.vdrn v)
  | 34 => .ok (.vadv v)
  | 35 => .ok (.vnop v)
  | _ => .error .reservedEngineOpcode

/-- A matrix word by its MOP, [191:184]. -/
def decodeMatrix (w : BitVec 192) : Except DecodeError Instr :=
  let v := mWordOf w
  match (w.extractLsb' 184 8).toNat with
  | 1 => .ok (.mma v)
  | 2 => .ok (.mmas v)
  | 3 => .ok (.mspm v)
  | 4 => .ok (.mzero v)
  | 5 => .ok (.mcmt v)
  | 6 => .ok (.mnop v)
  | _ => .error .reservedEngineOpcode

/-- A copy word by its COP, [95:89]. -/
def decodeCopy (w : BitVec 96) : Except DecodeError Instr :=
  let v := cWordOf w
  match (w.extractLsb' 89 7).toNat with
  | 1 => .ok (.ccopy v)
  | 2 => .ok (.ccvt v)
  | 3 => .ok (.cgath v)
  | 4 => .ok (.cscat v)
  | 5 => .ok (.cfill v)
  | 6 => .ok (.csend v)
  | 7 => .ok (.cred v)
  | 8 => .ok (.csub v)
  | 9 => .ok (.cdrain v)
  | 10 => .ok (.sgath v)
  | 11 => .ok (.sred v)
  | 12 => .ok (.scvt v)
  | 13 => .ok (.cnop v)
  | _ => .error .reservedEngineOpcode

/-- A word as ring `ring` decodes it (R279): a vector word on ring 0, a matrix word on ring 1, a copy word otherwise.
The low 96 bits hold a vector or copy word. -/
def decodeEngine (ring : Nat) (w : BitVec 192) : Except DecodeError Instr :=
  if ring = 0 then decodeVector (w.extractLsb' 0 96)
  else if ring = 1 then decodeMatrix w
  else decodeCopy (w.extractLsb' 0 96)

/-! ## The encoder -/

/-- RR and TL formats. -/
def rr (maj : BitVec 6) (d a b : BitVec 6) (md : BitVec 3) (fn : BitVec 5) : BitVec 32 := maj ++ d ++ a ++ b ++ md ++ fn
/-- RI and BR formats. -/
def ri (maj : BitVec 6) (d a : BitVec 6) (imm : BitVec 14) : BitVec 32 := maj ++ d ++ a ++ imm
/-- J and LI formats. -/
def li20 (maj : BitVec 6) (d : BitVec 6) (imm : BitVec 20) : BitVec 32 := maj ++ d ++ imm
/-- M format. -/
def mform (maj : BitVec 6) (d : BitVec 6) (h : BitVec 4) (w : BitVec 2) (x : Bool) (a : BitVec 6) (imm : BitVec 7) :
    BitVec 32 := maj ++ d ++ h ++ w ++ BitVec.ofBool x ++ a ++ imm
/-- MS format. -/
def msform (maj : BitVec 6) (d : BitVec 6) (w : BitVec 2) (x : Bool) (a : BitVec 6) (imm : BitVec 11) : BitVec 32 :=
  maj ++ d ++ w ++ BitVec.ofBool x ++ a ++ imm
/-- AT format. -/
def atform (maj : BitVec 6) (d : BitVec 6) (h : BitVec 4) (a b : BitVec 6) (fn : BitVec 4) : BitVec 32 :=
  maj ++ d ++ h ++ a ++ b ++ fn
/-- A vector word. -/
def vform (op : BitVec 7) (v : VWord) : BitVec 96 :=
  op ++ v.mod ++ v.fmt ++ v.lnt ++ v.await ++ v.raise ++ v.dst ++ v.a ++ v.b ++ v.rsv
/-- A matrix word. -/
def mxform (op : BitVec 8) (v : MWord) : BitVec 192 :=
  op ++ v.fmtA ++ v.fmtB ++ v.accm ++ v.bank ++ v.await ++ v.raise ++ v.n16 ++ v.lnt ++ v.scale ++ v.ava ++ v.aux ++
    v.bva ++ v.flags
/-- A copy word. -/
def cform (op : BitVec 7) (v : CWord) : BitVec 96 :=
  op ++ v.mod ++ v.await ++ v.raise ++ v.tsra ++ v.ch ++ BitVec.ofBool v.tsrsp ++ v.rsv

/-- The strand word of an instruction; none for an engine word or a step of the device. -/
def encodeStrand : Instr → Option (BitVec 32)
  | .add d a b => some (rr 0x01 d a b 0 0x0)
  | .sub d a b => some (rr 0x01 d a b 0 0x1)
  | .and d a b => some (rr 0x01 d a b 0 0x2)
  | .or d a b => some (rr 0x01 d a b 0 0x3)
  | .xor d a b => some (rr 0x01 d a b 0 0x4)
  | .andn d a b => some (rr 0x01 d a b 0 0x5)
  | .sll d a b => some (rr 0x01 d a b 0 0x6)
  | .srl d a b => some (rr 0x01 d a b 0 0x7)
  | .sra d a b => some (rr 0x01 d a b 0 0x8)
  | .mul d a b => some (rr 0x01 d a b 0 0x9)
  | .mulhu d a b => some (rr 0x01 d a b 0 0xa)
  | .mulhs d a b => some (rr 0x01 d a b 0 0xb)
  | .div d a b => some (rr 0x01 d a b 0 0xc)
  | .divu d a b => some (rr 0x01 d a b 0 0xd)
  | .rem d a b => some (rr 0x01 d a b 0 0xe)
  | .remu d a b => some (rr 0x01 d a b 0 0xf)
  | .min d a b => some (rr 0x01 d a b 0 0x10)
  | .max d a b => some (rr 0x01 d a b 0 0x11)
  | .minu d a b => some (rr 0x01 d a b 0 0x12)
  | .maxu d a b => some (rr 0x01 d a b 0 0x13)
  | .slt d a b => some (rr 0x01 d a b 0 0x14)
  | .sltu d a b => some (rr 0x01 d a b 0 0x15)
  | .seq d a b => some (rr 0x01 d a b 0 0x16)
  | .clz d a => some (rr 0x01 d a 0 0 0x17)
  | .ctz d a => some (rr 0x01 d a 0 0 0x18)
  | .popc d a => some (rr 0x01 d a 0 0 0x19)
  | .sext d a w => some (rr 0x01 d a w 0 0x1A)
  | .zext d a w => some (rr 0x01 d a w 0 0x1B)
  | .addi d a imm => some (ri 0x02 d a imm)
  | .andi d a imm => some (ri 0x03 d a imm)
  | .ori d a imm => some (ri 0x04 d a imm)
  | .xori d a imm => some (ri 0x05 d a imm)
  | .slti d a imm => some (ri 0x06 d a imm)
  | .sltiu d a imm => some (ri 0x07 d a imm)
  | .slli d a sh => some (ri 0x08 d a (0#2 ++ 0#6 ++ sh))
  | .srli d a sh => some (ri 0x08 d a (1#2 ++ 0#6 ++ sh))
  | .srai d a sh => some (ri 0x08 d a (2#2 ++ 0#6 ++ sh))
  | .li d imm => some (li20 0x09 d imm)
  | .lih d imm => some (li20 0x0A d imm)
  | .fadd dbl d a b => some (rr 0x0B d a b (BitVec.ofBool dbl ++ 0#2) 0x0)
  | .fsub dbl d a b => some (rr 0x0B d a b (BitVec.ofBool dbl ++ 0#2) 0x1)
  | .fmul dbl d a b => some (rr 0x0B d a b (BitVec.ofBool dbl ++ 0#2) 0x2)
  | .fdiv dbl d a b => some (rr 0x0B d a b (BitVec.ofBool dbl ++ 0#2) 0x3)
  | .fsqrt dbl d a => some (rr 0x0B d a 0 (BitVec.ofBool dbl ++ 0#2) 0x4)
  | .fmin dbl d a b => some (rr 0x0B d a b (BitVec.ofBool dbl ++ 0#2) 0x5)
  | .fmax dbl d a b => some (rr 0x0B d a b (BitVec.ofBool dbl ++ 0#2) 0x6)
  | .fma dbl d a b => some (rr 0x0B d a b (BitVec.ofBool dbl ++ 0#2) 0x7)
  | .fcmpeq dbl d a b => some (rr 0x0B d a b (BitVec.ofBool dbl ++ 0#2) 0x8)
  | .fcmplt dbl d a b => some (rr 0x0B d a b (BitVec.ofBool dbl ++ 0#2) 0x9)
  | .fcmple dbl d a b => some (rr 0x0B d a b (BitVec.ofBool dbl ++ 0#2) 0xa)
  | .fclass dbl d a => some (rr 0x0B d a 0 (BitVec.ofBool dbl ++ 0#2) 0xb)
  | .fcvt dbl d a code => some (rr 0x0B d a code (BitVec.ofBool dbl ++ 0#2) 0xc)
  | .beq a b off => some (ri 0xc a b off)
  | .bne a b off => some (ri 0xd a b off)
  | .blt a b off => some (ri 0xe a b off)
  | .bge a b off => some (ri 0xf a b off)
  | .bltu a b off => some (ri 0x10 a b off)
  | .bgeu a b off => some (ri 0x11 a b off)
  | .jal d off => some (li20 0x12 d off)
  | .jalr d a imm => some (ri 0x13 d a imm)
  | .loop a off => some (ri 0x14 a 0 off)
  | .mfs d num => some (0x15#6 ++ d ++ num ++ 0#3 ++ 0#5)
  | .mts d num => some (0x15#6 ++ d ++ num ++ 0#3 ++ 1#5)
  | .vdq d a b => some (rr 0x15 d a b 0 2)
  | .sflag d a => some (rr 0x15 d a 0 0 3)
  | .rdid d sel => some (rr 0x15 d 0 sel 0 4)
  | .ld d h w x a imm => some (mform 0x16 d h w x a imm)
  | .st b h w a imm => some (mform 0x17 b h w false a imm)
  | .lds d w x a imm => some (msform 0x18 d w x a imm)
  | .sts d w a imm => some (msform 0x19 d w false a imm)
  | .pf h w x a imm => some (mform 0x1A 0 h w x a imm)
  | .trans h a => some (rr 0x1B h a 0 0 0)
  | .hinv h => some (rr 0x1B h 0 0 0 1)
  | .hqry d h => some (rr 0x1B d h 0 0 2)
  | .atom32Add d h a b => some (atform 0x1c d h a b 0x0)
  | .atom32And d h a b => some (atform 0x1c d h a b 0x1)
  | .atom32Or d h a b => some (atform 0x1c d h a b 0x2)
  | .atom32Xor d h a b => some (atform 0x1c d h a b 0x3)
  | .atom32Min d h a b => some (atform 0x1c d h a b 0x4)
  | .atom32Max d h a b => some (atform 0x1c d h a b 0x5)
  | .atom32Minu d h a b => some (atform 0x1c d h a b 0x6)
  | .atom32Maxu d h a b => some (atform 0x1c d h a b 0x7)
  | .atom32Xchg d h a b => some (atform 0x1c d h a b 0x8)
  | .atom32Cas d h a b => some (atform 0x1c d h a b 0x9)
  | .atom32Fadd d h a b => some (atform 0x1c d h a b 0xa)
  | .atom32Fmin d h a b => some (atform 0x1c d h a b 0xb)
  | .atom32Fmax d h a b => some (atform 0x1c d h a b 0xc)
  | .atom64Add d h a b => some (atform 0x1d d h a b 0x0)
  | .atom64And d h a b => some (atform 0x1d d h a b 0x1)
  | .atom64Or d h a b => some (atform 0x1d d h a b 0x2)
  | .atom64Xor d h a b => some (atform 0x1d d h a b 0x3)
  | .atom64Min d h a b => some (atform 0x1d d h a b 0x4)
  | .atom64Max d h a b => some (atform 0x1d d h a b 0x5)
  | .atom64Minu d h a b => some (atform 0x1d d h a b 0x6)
  | .atom64Maxu d h a b => some (atform 0x1d d h a b 0x7)
  | .atom64Xchg d h a b => some (atform 0x1d d h a b 0x8)
  | .atom64Cas d h a b => some (atform 0x1d d h a b 0x9)
  | .atom64Fadd d h a b => some (atform 0x1d d h a b 0xa)
  | .atom64Fmin d h a b => some (atform 0x1d d h a b 0xb)
  | .atom64Fmax d h a b => some (atform 0x1d d h a b 0xc)
  | .lease h a => some (atform 0x1E 0 h a 0 0)
  | .unlease d => some (atform 0x1E d 0 0 0 1)
  | .fence kind scope win => some (rr 0x1F (0#1 ++ scope ++ kind) win 0 0 0)
  | .rcfence => some (rr 0x1F 0 0 0 0 1)
  | .swait eq a b => some (rr 0x20 0 a b (0#2 ++ BitVec.ofBool eq) 0)
  | .ssig a b => some (rr 0x20 0 a b 0 1)
  | .sread d a => some (rr 0x20 d a 0 0 2)
  | .sinit a b => some (rr 0x20 0 a b 0 3)
  | .salias n a => some (rr 0x20 n a 0 0 4)
  | .waitq d h a => some (atform 0x21 d h a 0 0)
  | .wake d h a b => some (atform 0x21 d h a b 1)
  | .bar => some (rr 0x22 0 0 0 0 0)
  | .enq ring a b => some (rr 0x23 ring a b 0 0)
  | .ringq d ring field => some (rr 0x23 d ring field 0 1)
  | .pdef q a => some (rr 0x23 q a 0 0 2)
  | .padv q => some (rr 0x23 q 0 0 0 3)
  | .take d lvl b => some (rr 0x24 d lvl b 0 0)
  | .lntw slot eng a => some (rr 0x25 (0#1 ++ BitVec.ofBool eng ++ slot) a 0 0 0)
  | .lntgo slot eng => some (rr 0x25 (0#1 ++ BitVec.ofBool eng ++ slot) 0 0 0 1)
  | .fmtw e a => some (rr 0x25 e a 0 0 2)
  | .tld td a => some (rr 0x26 td a 0 0 0)
  | .tlds td a => some (rr 0x26 td a 0 0 1)
  | .tfill td a fmt => some (rr 0x26 td a fmt 0 2)
  | .tmm ofmt td ta tb => some (rr 0x27 td ta tb ofmt 0)
  | .tmms ofmt td ta tb => some (rr 0x27 td ta tb ofmt 1)
  | .tewAdd td ta tb => some (rr 0x28 td ta tb 0 0)
  | .tewSub td ta tb => some (rr 0x28 td ta tb 0 1)
  | .tewMul td ta tb => some (rr 0x28 td ta tb 0 2)
  | .tewDiv td ta tb => some (rr 0x28 td ta tb 0 3)
  | .tewMax td ta tb => some (rr 0x28 td ta tb 0 4)
  | .tewMin td ta tb => some (rr 0x28 td ta tb 0 5)
  | .tunExp td ta => some (rr 0x29 td ta 0 0 0)
  | .tunLog td ta => some (rr 0x29 td ta 0 0 1)
  | .tunRcp td ta => some (rr 0x29 td ta 0 0 2)
  | .tunRsq td ta => some (rr 0x29 td ta 0 0 3)
  | .tunTanh td ta => some (rr 0x29 td ta 0 0 4)
  | .tunSilu td ta => some (rr 0x29 td ta 0 0 5)
  | .tunNeg td ta => some (rr 0x29 td ta 0 0 6)
  | .tunAbs td ta => some (rr 0x29 td ta 0 0 7)
  | .tcvt mode td ta fmt => some (rr 0x2A td ta fmt mode 0)
  | .tred isMax axis td ta => some (rr 0x2A td ta 0 (axis ++ BitVec.ofBool isMax) 1)
  | .tsel td ta tb => some (rr 0x2A td ta tb 0 2)
  | .tmap td ta m sr => some (rr 0x2B td ta (sr.extractLsb' 3 2 ++ m) (sr.extractLsb' 0 3) 0)
  | .mapset m a => some (rr 0x2B m a 0 0 1)
  | .maprow row m a b => some (rr 0x2B m a b (row ++ 0#1) 2)
  | .tstore sp ta b => some (rr 0x2C 0 ta b (0#2 ++ BitVec.ofBool sp) 0)
  | .force wait ta b => some (rr 0x2C 0 ta b (0#2 ++ BitVec.ofBool wait) 1)
  | .tdrop ta => some (rr 0x2D 0 ta 0 0 0)
  | .tqry d ta sel => some (rr 0x2D d ta 0 sel 1)
  | .tarena a b => some (rr 0x2D 0 a b 0 2)
  | .trap n => some (0x38#6 ++ n ++ 0#3 ++ 0#5)
  | .eret => some (rr 0x38 0 0 0 0 1)
  | .exit => some (rr 0x38 0 0 0 0 2)
  | .pause a => some (rr 0x38 0 a 0 0 3)
  | .wfe d a => some (rr 0x38 d a 0 0 4)
  | .pyld => some (rr 0x38 0 0 0 0 5)
  | .ctxsv d a => some (rr 0x38 d a 0 0 6)
  | .ctxld a => some (rr 0x38 0 a 0 0 7)
  | .live a => some (rr 0x38 0 a 0 0 8)
  | .dbgbrk => some (rr 0x38 0 0 0 0 9)
  | _ => none

/-- The engine word of an instruction, in the low 96 bits for a vector or copy word. -/
def encodeEngine : Instr → Option (BitVec 192)
  | .vmov v => some ((vform 0x1 v).setWidth 192)
  | .vadd v => some ((vform 0x2 v).setWidth 192)
  | .vsub v => some ((vform 0x3 v).setWidth 192)
  | .vmul v => some ((vform 0x4 v).setWidth 192)
  | .vfma v => some ((vform 0x5 v).setWidth 192)
  | .vdiv v => some ((vform 0x6 v).setWidth 192)
  | .vmin v => some ((vform 0x7 v).setWidth 192)
  | .vmax v => some ((vform 0x8 v).setWidth 192)
  | .vabs v => some ((vform 0x9 v).setWidth 192)
  | .vneg v => some ((vform 0xa v).setWidth 192)
  | .vexp v => some ((vform 0xb v).setWidth 192)
  | .vlog v => some ((vform 0xc v).setWidth 192)
  | .vrcp v => some ((vform 0xd v).setWidth 192)
  | .vrsq v => some ((vform 0xe v).setWidth 192)
  | .vtanh v => some ((vform 0xf v).setWidth 192)
  | .vsilu v => some ((vform 0x10 v).setWidth 192)
  | .vcmp v => some ((vform 0x11 v).setWidth 192)
  | .vsel v => some ((vform 0x12 v).setWidth 192)
  | .vand v => some ((vform 0x13 v).setWidth 192)
  | .vor v => some ((vform 0x14 v).setWidth 192)
  | .vxor v => some ((vform 0x15 v).setWidth 192)
  | .vshl v => some ((vform 0x16 v).setWidth 192)
  | .vshr v => some ((vform 0x17 v).setWidth 192)
  | .vcvt v => some ((vform 0x18 v).setWidth 192)
  | .vqnt v => some ((vform 0x19 v).setWidth 192)
  | .vrsum v => some ((vform 0x1a v).setWidth 192)
  | .vrmax v => some ((vform 0x1b v).setWidth 192)
  | .vscan v => some ((vform 0x1c v).setWidth 192)
  | .vgath v => some ((vform 0x1d v).setWidth 192)
  | .vscat v => some ((vform 0x1e v).setWidth 192)
  | .vhins v => some ((vform 0x1f v).setWidth 192)
  | .vhdrn v => some ((vform 0x20 v).setWidth 192)
  | .vdrn v => some ((vform 0x21 v).setWidth 192)
  | .vadv v => some ((vform 0x22 v).setWidth 192)
  | .vnop v => some ((vform 0x23 v).setWidth 192)
  | .mma v => some (mxform 0x1 v)
  | .mmas v => some (mxform 0x2 v)
  | .mspm v => some (mxform 0x3 v)
  | .mzero v => some (mxform 0x4 v)
  | .mcmt v => some (mxform 0x5 v)
  | .mnop v => some (mxform 0x6 v)
  | .ccopy v => some ((cform 0x1 v).setWidth 192)
  | .ccvt v => some ((cform 0x2 v).setWidth 192)
  | .cgath v => some ((cform 0x3 v).setWidth 192)
  | .cscat v => some ((cform 0x4 v).setWidth 192)
  | .cfill v => some ((cform 0x5 v).setWidth 192)
  | .csend v => some ((cform 0x6 v).setWidth 192)
  | .cred v => some ((cform 0x7 v).setWidth 192)
  | .csub v => some ((cform 0x8 v).setWidth 192)
  | .cdrain v => some ((cform 0x9 v).setWidth 192)
  | .sgath v => some ((cform 0xa v).setWidth 192)
  | .sred v => some ((cform 0xb v).setWidth 192)
  | .scvt v => some ((cform 0xc v).setWidth 192)
  | .cnop v => some ((cform 0xd v).setWidth 192)
  | _ => none

/-- The ring code that decodes an engine word: 0 V, 1 M, 2 for the copy rings. -/
def engineRing : Instr → Option Nat
  | .vmov _ | .vadd _ | .vsub _ | .vmul _ | .vfma _ | .vdiv _ | .vmin _ | .vmax _ | .vabs _ | .vneg _ | .vexp _ | .vlog _
  | .vrcp _ | .vrsq _ | .vtanh _ | .vsilu _ | .vcmp _ | .vsel _ | .vand _ | .vor _ | .vxor _ | .vshl _ | .vshr _ | .vcvt _
  | .vqnt _ | .vrsum _ | .vrmax _ | .vscan _ | .vgath _ | .vscat _ | .vhins _ | .vhdrn _ | .vdrn _ | .vadv _ | .vnop _ => some 0
  | .mma _ | .mmas _ | .mspm _ | .mzero _ | .mcmt _ | .mnop _ => some 1
  | .ccopy _ | .ccvt _ | .cgath _ | .cscat _ | .cfill _ | .csend _ | .cred _ | .csub _ | .cdrain _ | .sgath _ | .sred _ | .scvt _ | .cnop _ => some 2
  | _ => none

/-- The strand word of an instruction, 0 where it has none: what TRAPINFO holds for event 0x01. -/
def wordOf (i : Instr) : BitVec 32 := (encodeStrand i).getD 0

/-- The instruction that `nbits` bits spell, numbered as the opcode table numbers them: 32 a strand word, 96 a vector
word, 192 a matrix word (R3: bit 0 is the least significant bit of byte 0). -/
def decodeTableWord (nbits w : Nat) : Option Instr :=
  let r : Except DecodeError Instr :=
    if nbits ≤ 32 then decodeStrand (BitVec.ofNat 32 w)
    else if nbits ≤ 96 then decodeVector (BitVec.ofNat 96 w)
    else if nbits ≤ 192 then decodeMatrix (BitVec.ofNat 192 w)
    else .error .noSuchWord
  match r with
  | .ok i => some i
  | .error _ => none

end Sys2Proof
end

