-- ==== Sys2Proof/Machine/Flags.lean ====
section
/-! DEFINITION. Number formats, exact values, rounding and the numeric flags (Number Formats and Arithmetic, R209 to
R226, and FP64 of R295). -/

namespace Sys2Proof.Machine

/-- The six sticky flags in the order of Table 12-7. -/
abbrev NumFlags := BitVec 6

/-- Invalid. -/
def fNV : NumFlags := 1
/-- Divide-by-zero. -/
def fDZ : NumFlags := 2
/-- Overflow. -/
def fOF : NumFlags := 4
/-- Underflow. -/
def fUF : NumFlags := 8
/-- Inexact. -/
def fNX : NumFlags := 16
/-- Saturated. -/
def fSAT : NumFlags := 32

/-- The element formats (Table 12-1), and the strand's own FP64, I64 and U64 (R295, R297). -/
inductive Fmt where
  | f64
  | f32
  | bf16
  | f16
  | i8
  | i32
  | i64
  | u64
  | h4s
  | h4u
  | e8s
  | b8 (p : Nat) (signed ext : Bool)
  deriving DecidableEq, Repr

/-- The format of a code; none for a reserved code (R209). Code 0x3F is resolved before. -/
def fmtOf (c : BitVec 6) : Option Fmt :=
  let n := c.toNat
  if n = 0 then some .f32
  else if n = 1 then some .bf16
  else if n = 2 then some .f16
  else if n = 3 then some .i8
  else if n = 4 then some .i32
  else if n = 5 then some .h4s
  else if n = 6 then some .h4u
  else if n = 7 then some .e8s
  else if n < 0x28 && n % 8 < 7 then some (.b8 (n % 8 + 1) (decide (n < 0x18)) (decide (n / 8 % 2 = 0)))
  else none

/-- Bits per element (Table 12-1). -/
def Fmt.bits : Fmt → Nat
  | .f64 => 64
  | .f32 => 32
  | .bf16 => 16
  | .f16 => 16
  | .i8 => 8
  | .i32 => 32
  | .i64 => 64
  | .u64 => 64
  | .h4s => 4
  | .h4u => 4
  | .e8s => 8
  | .b8 _ _ _ => 8

/-- The element size in bytes, 1 for a 4-bit format (R332). -/
def Fmt.bytes (f : Fmt) : Nat := if f.bits = 4 then 1 else f.bits / 8

/-- An exact value: `fin n e` is n × 2^e with n not zero. -/
inductive Val where
  | nan
  | inf (neg : Bool)
  | zero (neg : Bool)
  | fin (num exp : Int)
  deriving DecidableEq, Repr

/-- n × 2^e, with +0 for zero. -/
def Val.mk (n e : Int) : Val := if n = 0 then .zero false else .fin n e

/-- Shift left by an integer that is not negative. -/
def shl (n k : Int) : Int := n * ((2 ^ k.toNat : Nat) : Int)

/-- Decode an IEEE interchange encoding with `eb` exponent bits and `mb` trailing bits (R211). -/
def ieeeVal (eb mb : Nat) (v : Nat) : Val :=
  let t := nbits v 0 mb
  let e := nbits v mb eb
  let s := nbit v (mb + eb)
  let bias : Int := (2 ^ (eb - 1) : Nat) - 1
  let sg : Int := if s then -1 else 1
  if e = 2 ^ eb - 1 then (if t = 0 then .inf s else .nan)
  else if e = 0 then (if t = 0 then .zero s else .fin (sg * t) (1 - bias - mb))
  else .fin (sg * ((2 ^ mb + t : Nat) : Int)) (e - bias - mb)

/-- Decode a binary8 code (R215, Table 12-2). -/
def b8Val (p : Nat) (signed ext : Bool) (c : Nat) : Val :=
  let s := signed && nbit c 7
  let body := if signed then nbits c 0 7 else nbits c 0 8
  let bias : Int := ((2 ^ ((if signed then 7 else 8) - p) : Nat) : Int)
  let nan := if signed then 0x80 else 0xFF
  let pinf := if signed then 0x7F else 0xFE
  if c % 256 = nan then .nan
  else if ext && c % 256 = pinf then .inf false
  else if ext && signed && c % 256 = 0xFF then .inf true
  else
    let e := body / 2 ^ (p - 1)
    let t := body % 2 ^ (p - 1)
    let sg : Int := if s then -1 else 1
    if e = 0 then Val.mk (sg * t) (1 - bias - (p - 1 : Nat))
    else .fin (sg * ((2 ^ (p - 1) + t : Nat) : Int)) (e - bias - (p - 1 : Nat))

/-- The value of an element (R211 to R215). -/
def Fmt.val (f : Fmt) (v : Nat) : Val :=
  match f with
  | .f64 => ieeeVal 11 52 v
  | .f32 => ieeeVal 8 23 v
  | .bf16 => ieeeVal 8 7 v
  | .f16 => ieeeVal 5 10 v
  | .i8 => Val.mk (sint 8 v) 0
  | .i32 => Val.mk (sint 32 v) 0
  | .i64 => Val.mk (sint 64 v) 0
  | .u64 => Val.mk (v % 2 ^ 64 : Nat) 0
  | .h4s => .fin (2 * sint 4 v + 1) (-1)
  | .h4u => .fin (2 * ((v % 16 : Nat) : Int) + 1) (-1)
  | .e8s => if v % 256 = 255 then .nan else .fin 1 (((v % 256 : Nat) : Int) - 127)
  | .b8 p s x => b8Val p s x v

/-- Rounding modes (Table 12-5). -/
inductive Mode where
  | rne
  | rtz
  | rdn
  | rup
  | sr
  deriving DecidableEq, Repr

/-- The mode of a code; 5 to 7 are reserved (R219). -/
def modeOf (c : Nat) : Option Mode :=
  match c with
  | 0 => some .rne
  | 1 => some .rtz
  | 2 => some .rdn
  | 3 => some .rup
  | 4 => some .sr
  | _ => none

/-- Whether the neighbour farther from zero is taken, for |x| = (n + f) × quantum with f = num / den, under a mode, a
sign and the 16-bit draw r (R219, R220). `even` says that the nearer-zero neighbour is the one a tie takes. -/
def roundUp (m : Mode) (neg : Bool) (num den r : Nat) (even : Bool) : Bool :=
  if num = 0 then false
  else match m with
    | .rne => decide (den < 2 * num) || (decide (2 * num = den) && !even)
    | .rtz => false
    | .rdn => neg
    | .rup => !neg
    | .sr => decide (r < num * 65536 / den)

/-- floor(log2 n) of a positive number. -/
def ilog (n : Nat) : Int := (n.log2 : Nat)

/-- |n × 2^e| cut at quantum 2^q: the integer part, the fraction's numerator and its denominator. -/
def cut (n : Nat) (e q : Int) : Nat × Nat × Nat :=
  if q ≤ e then (n * 2 ^ (e - q).toNat, 0, 1)
  else
    let d := 2 ^ (q - e).toNat
    (n / d, n % d, d)

/-- Precision, exponent of the smallest spacing, and largest finite magnitude (significand, exponent) of a float format
(R211, R215, R216). -/
structure FloatSpec where
  p : Nat
  qmin : Int
  maxN : Nat
  maxE : Int
  deriving DecidableEq, Repr

/-- The largest finite code of a binary8 format (Table 12-2). -/
def b8Max (signed ext : Bool) : Nat :=
  (if signed then 0x7F else 0xFE) - (if ext then 1 else 0)

/-- The float formats' parameters; none for integers, half-steps and E8S. -/
def Fmt.float : Fmt → Option FloatSpec
  | .f64 => some ⟨53, -1074, 2 ^ 53 - 1, 971⟩
  | .f32 => some ⟨24, -149, 2 ^ 24 - 1, 104⟩
  | .bf16 => some ⟨8, -133, 2 ^ 8 - 1, 120⟩
  | .f16 => some ⟨11, -24, 2 ^ 11 - 1, 5⟩
  | .b8 p s x =>
    let bias : Int := ((2 ^ ((if s then 7 else 8) - p) : Nat) : Int)
    match b8Val p s x (b8Max s x) with
    | .fin n e => some ⟨p, 1 - bias - (p - 1 : Nat), n.toNat, e⟩
    | _ => none
  | _ => none

/-- The code of NaN, or of what takes its place (R217 step 1), with the flags. -/
def nanCode : Fmt → Nat × NumFlags
  | .f64 => (0x7FF8000000000000, 0)
  | .f32 => (0x7FC00000, 0)
  | .bf16 => (0x7FC0, 0)
  | .f16 => (0x7E00, 0)
  | .i8 | .i32 | .i64 | .u64 | .h4s | .h4u => (0, fNV)
  | .e8s => (0xFF, 0)
  | .b8 _ s _ => (if s then 0x80 else 0xFF, 0)

/-- The code of the end of the range on the side of a sign (R217 steps 3 and 5). -/
def rangeEnd (f : Fmt) (neg : Bool) : Nat :=
  match f with
  | .f64 => if neg then 0xFFEFFFFFFFFFFFFF else 0x7FEFFFFFFFFFFFFF
  | .f32 => if neg then 0xFF7FFFFF else 0x7F7FFFFF
  | .bf16 => if neg then 0xFF7F else 0x7F7F
  | .f16 => if neg then 0xFBFF else 0x7BFF
  | .i8 => if neg then 0x80 else 0x7F
  | .i32 => if neg then 0x80000000 else 0x7FFFFFFF
  | .i64 => if neg then 0x8000000000000000 else 0x7FFFFFFFFFFFFFFF
  | .u64 => if neg then 0 else 0xFFFFFFFFFFFFFFFF
  | .h4s => if neg then 8 else 7
  | .h4u => if neg then 0 else 15
  | .e8s => 0xFE
  | .b8 _ s x => b8Max s x + (if neg && s then 0x80 else 0)

/-- The code of an infinity where the format has one. -/
def infCode (f : Fmt) (neg : Bool) : Option Nat :=
  match f with
  | .f64 => some (if neg then 0xFFF0000000000000 else 0x7FF0000000000000)
  | .f32 => some (if neg then 0xFF800000 else 0x7F800000)
  | .bf16 => some (if neg then 0xFF80 else 0x7F80)
  | .f16 => some (if neg then 0xFC00 else 0x7C00)
  | .b8 _ true true => some (if neg then 0xFF else 0x7F)
  | .b8 _ false true => some 0xFE
  | _ => none

/-- The code of ±0 in a float format (R217 step 6). -/
def zeroCode (f : Fmt) (neg : Bool) : Nat :=
  match f with
  | .f64 => if neg then 2 ^ 63 else 0
  | .f32 => if neg then 2 ^ 31 else 0
  | .bf16 | .f16 => if neg then 2 ^ 15 else 0
  | _ => 0

/-- The code of n × 2^q on the grid of a float format, n × 2^q within its range and n not zero. -/
def encodeFloat (f : Fmt) (sp : FloatSpec) (neg : Bool) (n : Nat) (q : Int) : Nat :=
  let full := n.log2 + 1
  -- renormalise a carry out of the significand
  let (n, q) := if sp.p < full then (n / 2 ^ (full - sp.p), q + ((full - sp.p : Nat) : Int)) else (n, q)
  let body :=
    if n < 2 ^ (sp.p - 1) then n
    else (q - sp.qmin + 1).toNat * 2 ^ (sp.p - 1) + (n - 2 ^ (sp.p - 1))
  body + (if neg then 2 ^ (f.bits - 1) else 0)

/-- round() of R217 with the SAT option of R218 and the 16-bit draw of SR: the element and its flags. -/
def roundVal (f : Fmt) (m : Mode) (sat : Bool) (r : Nat) (x : Val) : Nat × NumFlags :=
  match x with
  | .nan => nanCode f
  | .inf neg =>
    match f with
    | .b8 _ false _ =>
      if neg then (0xFF, fNV)
      else match infCode f false with
        | some c => (c, 0)
        | none => (rangeEnd f false, fSAT ||| fNX)
    | _ =>
      match infCode f neg with
      | some c => (c, 0)
      | none => (rangeEnd f neg, fSAT ||| fNX)
  | .zero neg =>
    match f with
    | .h4s | .h4u =>
      -- ±0 lies between −0.5 (code −1) and +0.5 (code 0)
      let down := match m with
        | .rne => false
        | .rtz => neg
        | .rdn => true
        | .rup => false
        | .sr => neg
      if down then (if f = .h4s then (0xF, fNX) else (0, fNX ||| fSAT)) else (0, fNX)
    | .e8s => (0, fUF ||| fNX)
    | _ => (zeroCode f neg, 0)
  | .fin num exp =>
    let neg := decide (num < 0)
    let n := num.natAbs
    match f with
    | .h4s | .h4u =>
      -- the code is x − 1/2 rounded: signed floor and fraction
      let y := shl num (exp + 1 - min (exp + 1) 0) - shl 1 (0 - min (exp + 1) 0)
      let den : Nat := 2 ^ (0 - min (exp + 1) 0).toNat * 2
      let fl := y / (den : Int)
      let fr := (y % (den : Int)).toNat
      let small := decide (shl (2 * n) (exp - min exp 0) < shl 1 (0 - min exp 0))
      let up :=
        if fr = 0 then false
        else match m with
          | .rne => decide (den < 2 * fr) || (decide (2 * fr = den) && decide (fl % 2 = 1))
          | .rtz => if small then !neg else neg
          | .rdn => false
          | .rup => true
          | .sr =>
            if small then !neg
            else if neg then !decide (r < (den - fr) * 65536 / den)
            else decide (r < fr * 65536 / den)
      let c := if up then fl + 1 else fl
      let nx := if fr = 0 then 0 else fNX
      let lo : Int := if f = .h4s then -8 else 0
      let hi : Int := if f = .h4s then 7 else 15
      if c < lo then (rangeEnd f true, nx ||| fSAT)
      else if hi < c then (rangeEnd f false, nx ||| fSAT)
      else (low 4 c, nx)
    | .e8s =>
      let k : Int := ilog n + exp
      let (_, fr, den) := cut n exp k
      let up := match m with
        | .rdn => false
        | .rup => decide (fr ≠ 0)
        | m => roundUp m false fr den r (decide ((k + 127) % 2 = 0))
      let e : Int := if up then k + 1 else k
      let nx := if fr = 0 then 0 else fNX
      -- a power below 2^−127 is rounded as zero is
      if e < -127 then (0, fUF ||| fNX)
      else if 127 < e then (0xFE, nx ||| fSAT)
      else ((e + 127).toNat, nx)
    | .i8 | .i32 | .i64 | .u64 =>
      let (a, fr, den) := cut n exp 0
      let up := roundUp m neg fr den r (decide (a % 2 = 0))
      let a := if up then a + 1 else a
      let nx := if fr = 0 then 0 else fNX
      let lim := if neg then (match f with | .u64 => 0 | _ => 2 ^ (f.bits - 1))
        else (match f with | .u64 => 2 ^ 64 - 1 | _ => 2 ^ (f.bits - 1) - 1)
      if lim < a then (rangeEnd f neg, nx ||| fSAT)
      else (low f.bits (if neg then -(a : Int) else a), nx)
    | _ =>
      match f.float with
      | none => (0, 0)
      | some sp =>
        if (match f with | .b8 _ false _ => neg | _ => false) then (0xFF, fNV)
        else
          let q := max (ilog n + exp - (sp.p - 1 : Nat)) sp.qmin
          let (a, fr, den) := cut n exp q
          let up := roundUp m neg fr den r (decide (a % 2 = 0))
          let a := if up then a + 1 else a
          let nx := if fr = 0 then 0 else fNX
          if a = 0 then (zeroCode f neg, nx)
          else
            let uf := if fr ≠ 0 ∧ ilog a + q < sp.qmin + (sp.p - 1 : Nat) then fUF else 0
            let above := decide (shl sp.maxN (sp.maxE - min sp.maxE q) < shl a (q - min sp.maxE q))
            if above then
              match infCode f neg with
              | some c =>
                if sat then (rangeEnd f neg, fSAT ||| fNX)
                else
                  let toInf := match m with
                    | .rne => true
                    | .rtz => false
                    | .rdn => neg
                    | .rup => !neg
                    | .sr => true
                  (if toInf then c else rangeEnd f neg, fOF ||| fNX)
              | none => (rangeEnd f neg, nx ||| fSAT)
            else (encodeFloat f sp neg a q, nx ||| uf)

/-- round() in RNE without an option. -/
def roundRne (f : Fmt) (x : Val) : Nat × NumFlags := roundVal f .rne false 0 x

/-! ## The SR draw (R220) -/

/-- One step of the Galois LFSR. -/
def lfsrStep (x : BitVec 32) : BitVec 32 :=
  if x.getLsbD 0 then (x >>> 1) ^^^ 0x80200003 else x >>> 1

/-- `k` steps. -/
def lfsrRun : Nat → BitVec 32 → BitVec 32
  | 0, x => x
  | k + 1, x => lfsrRun k (lfsrStep x)

/-- The draw from a start value: the final x. -/
def srDraw (x : BitVec 32) : BitVec 32 := lfsrRun 32 (if x = 0 then 0xFFFFFFFF else x)

/-- r = x[31:16] of an engine word's draw for sequence n and element i. -/
def engDraw (seed seq : BitVec 32) (i : Nat) : Nat :=
  (srDraw (seed ^^^ BitVec.ofNat 32 (field seq 0 16 * 65536 + i % 65536))).toNat / 65536

/-! ## Exact arithmetic (R222) -/

/-- Whether a value is negative, by its sign. -/
def Val.neg? : Val → Bool
  | .nan => false
  | .inf n => n
  | .zero n => n
  | .fin n _ => decide (n < 0)

/-- −x. -/
def vneg : Val → Val
  | .nan => .nan
  | .inf n => .inf (!n)
  | .zero n => .zero (!n)
  | .fin n e => .fin (-n) e

/-- |x|. -/
def vabs : Val → Val
  | .nan => .nan
  | .inf _ => .inf false
  | .zero _ => .zero false
  | .fin n e => .fin n.natAbs e

/-- The exact sum of n₁ × 2^e₁ and n₂ × 2^e₂. -/
def dyAdd (n₁ e₁ n₂ e₂ : Int) : Int × Int :=
  let e := min e₁ e₂
  (shl n₁ (e₁ - e) + shl n₂ (e₂ - e), e)

/-- x + y, exact, with the flags of R222. -/
def vadd (x y : Val) : Val × NumFlags :=
  match x, y with
  | .nan, _ => (.nan, 0)
  | _, .nan => (.nan, 0)
  | .inf a, .inf b => if a = b then (.inf a, 0) else (.nan, fNV)
  | .inf a, _ => (.inf a, 0)
  | _, .inf b => (.inf b, 0)
  | .zero a, .zero b => (.zero (a && b), 0)
  | .zero _, y => (y, 0)
  | x, .zero _ => (x, 0)
  | .fin n e, .fin n' e' => let s := dyAdd n e n' e'; (Val.mk s.1 s.2, 0)

/-- x − y. -/
def vsub (x y : Val) : Val × NumFlags := vadd x (vneg y)

/-- x × y, exact. -/
def vmul (x y : Val) : Val × NumFlags :=
  match x, y with
  | .nan, _ => (.nan, 0)
  | _, .nan => (.nan, 0)
  | .inf _, .zero _ => (.nan, fNV)
  | .zero _, .inf _ => (.nan, fNV)
  | .inf a, y => (.inf (a ^^ y.neg?), 0)
  | x, .inf b => (.inf (x.neg? ^^ b), 0)
  | .zero a, y => (.zero (a ^^ y.neg?), 0)
  | x, .zero b => (.zero (x.neg? ^^ b), 0)
  | .fin n e, .fin n' e' => (.fin (n * n') (e + e'), 0)

/-- The quotient of two positive numbers to 128 significant bits and a sticky bit: enough for every rounding. -/
def divSticky (n d : Nat) : Nat × Int :=
  let k : Int := 130 + ilog d - ilog n
  let num := if 0 ≤ k then n * 2 ^ k.toNat else n
  let den := if 0 ≤ k then d else d * 2 ^ (-k).toNat
  (2 * (num / den) + (if num % den = 0 then 0 else 1), -k - 1)

/-- x / y, exact or with a sticky bit, with the flags of R222. -/
def vdiv (x y : Val) : Val × NumFlags :=
  match x, y with
  | .nan, _ => (.nan, 0)
  | _, .nan => (.nan, 0)
  | .inf _, .inf _ => (.nan, fNV)
  | .zero _, .zero _ => (.nan, fNV)
  | .inf a, y => (.inf (a ^^ y.neg?), 0)
  | x, .inf b => (.zero (x.neg? ^^ b), 0)
  | .zero a, y => (.zero (a ^^ y.neg?), 0)
  | x, .zero b => (.inf (x.neg? ^^ b), fDZ)
  | .fin n e, .fin n' e' =>
    let q := divSticky n.natAbs n'.natAbs
    let sg : Int := if decide (n < 0) ^^ decide (n' < 0) then -1 else 1
    (.fin (sg * (q.1 : Int)) (q.2 + e - e'), 0)

/-- The integer square root by halving steps: `k` bits are tried, highest first. -/
def isqrtLoop : Nat → Nat → Nat → Nat
  | 0, _, r => r
  | k + 1, n, r =>
    let t := r + 2 ^ k
    isqrtLoop k n (if t * t ≤ n then t else r)

/-- floor(√n). -/
def isqrt (n : Nat) : Nat := isqrtLoop (n.log2 / 2 + 1) n 0

/-- √x, exact or with a sticky bit. -/
def vsqrt (x : Val) : Val × NumFlags :=
  match x with
  | .nan => (.nan, 0)
  | .zero n => (.zero n, 0)
  | .inf n => if n then (.nan, fNV) else (.inf false, 0)
  | .fin n e =>
    if n < 0 then (.nan, fNV)
    else
      -- scale to an even exponent with at least 160 bits
      let k : Int := 160 + (e % 2)
      let m := n.natAbs * 2 ^ k.toNat
      let r := isqrt m
      (.fin ((2 * r + (if r * r = m then 0 else 1) : Nat) : Int) ((e - k) / 2 - 1), 0)

/-- x × y + z, exact (Table 16-4, FMA). -/
def vfma (x y z : Val) : Val × NumFlags :=
  if x = .nan ∨ y = .nan ∨ z = .nan then (.nan, 0)
  else
    let p := vmul x y
    if p.1 = .nan then p else vadd p.1 z

/-- x < y on the exact values; false with a NaN. −0 equals +0. -/
def vlt (x y : Val) : Bool :=
  match x, y with
  | .nan, _ => false
  | _, .nan => false
  | .inf a, .inf b => a && !b
  | .inf a, _ => a
  | _, .inf b => !b
  | .zero _, .zero _ => false
  | .zero _, .fin n _ => decide (0 < n)
  | .fin n _, .zero _ => decide (n < 0)
  | .fin n e, .fin n' e' => decide (shl n (e - min e e') < shl n' (e' - min e e'))

/-- x = y on the exact values; false with a NaN. -/
def veq (x y : Val) : Bool :=
  match x, y with
  | .nan, _ => false
  | _, .nan => false
  | x, y => !vlt x y && !vlt y x

/-- The lesser; −0 below +0; NaN if either is NaN (R222). -/
def vmin (x y : Val) : Val :=
  match x, y with
  | .nan, _ => .nan
  | _, .nan => .nan
  | .zero a, .zero b => .zero (a || b)
  | x, y => if vlt y x then y else x

/-- The greater. -/
def vmax (x y : Val) : Val :=
  match x, y with
  | .nan, _ => .nan
  | _, .nan => .nan
  | .zero a, .zero b => .zero (a && b)
  | x, y => if vlt x y then y else x

/-- Round an exact result and collect both sets of flags. -/
def finish (f : Fmt) (m : Mode) (sat : Bool) (r : Nat) (x : Val × NumFlags) : Nat × NumFlags :=
  let o := roundVal f m sat r x.1
  (o.1, x.2 ||| o.2)

end Sys2Proof.Machine
end

