-- ==== Sys2Proof/Machine/Ops.lean ====
section
/-! DEFINITION. The named operations over the state: cores, strands and registers (R268), retirement with the loop
stack (R300), taking a precise event (R253), waiting, returning from a handler (R383), and the ends of nodes. -/

namespace Sys2Proof.Machine

/-- The outcome type of every meaning. -/
abbrev Out := Host.Outcome State Fault Refusal

/-! ## Cores and strands -/

/-- The core numbered `c` in the package (R10). -/
def State.core (s : State) (c : Nat) : Core := sget {} s.cores c

/-- Replace core `c`. -/
def State.setCore (s : State) (c : Nat) (k : Core) : State := { s with cores := sset {} s.cores c k }

/-- Change core `c`. -/
def State.onCore (s : State) (c : Nat) (f : Core → Core) : State := s.setCore c (f (s.core c))

/-- The core that moves. -/
def State.me (s : State) : Core := s.core s.actor.core

/-- The strand that moves. -/
def State.strand (s : State) : Strand := s.me.strand

/-- Change the moving core. -/
def State.onMe (s : State) (f : Core → Core) : State := s.onCore s.actor.core f

/-- Change a core's strand. -/
def Core.onStrand (k : Core) (f : Strand → Strand) : Core := { k with strand := f k.strand }

/-- Change the moving strand. -/
def State.onStrand (s : State) (f : Strand → Strand) : State := s.onMe (fun k => k.onStrand f)

/-- Change the strand of core `c`. -/
def State.onStrandOf (s : State) (c : Nat) (f : Strand → Strand) : State := s.onCore c (fun k => k.onStrand f)

/-- The die of core `c` (R10). -/
def dieOf (c : Nat) : Nat := c / 64

/-- The core's number within its die. -/
def coreInDie (c : Nat) : Nat := c % 64

/-! ## Scalar registers (R268) -/

/-- s[r]; s0 reads as zero. -/
def Strand.get (t : Strand) (r : Reg) : Word := if r = 0 then 0 else sget 0 t.regs r.toNat

/-- s[r] := v; a write to s0 is discarded. -/
def Strand.set (t : Strand) (r : Reg) (v : Word) : Strand :=
  if r = 0 then t else { t with regs := sset 0 t.regs r.toNat v }

/-- s[r] of the moving strand. -/
def State.get (s : State) (r : Reg) : Word := s.strand.get r

/-- s[r] := v in the moving strand. -/
def State.set (s : State) (r : Reg) (v : Word) : State := s.onStrand (fun t => t.set r v)

/-- OR numeric flags into FLAGS of the moving strand (R224, R225). -/
def State.orFlags (s : State) (f : NumFlags) : State := s.onStrand (fun t => { t with flags := t.flags ||| f })

/-! ## The program counter (R290) and the loop stack (R300) -/

/-- PC + n words modulo 2^57. -/
def pcAdd (pc : Va) (words : Int) : Va := BitVec.ofInt 57 ((pc.toNat : Int) + 4 * words)

/-- The end action of R300 after a retired word at `t.pc` that did not set PC itself; the next PC otherwise. -/
def Strand.advance (t : Strand) : Strand :=
  match t.loops with
  | [] => { t with pc := pcAdd t.pc 1 }
  | e :: rest =>
    if t.pc = e.last then
      if (t.get e.reg).toNat ≤ 1 then { t.set e.reg 0 with loops := rest, pc := pcAdd e.last 1 }
      else { t.set e.reg (t.get e.reg - 1) with pc := pcAdd e.pc 1 }
    else { t with pc := pcAdd t.pc 1 }

/-- A strand whose instruction retires: the end action of R300, or PC + 4. -/
def Strand.retired (t : Strand) : Strand := { t.advance with stalled := false, toForce := [], status := .running }

/-- A strand whose instruction sets PC itself and retires. -/
def Strand.jumped (t : Strand) (target : Va) : Strand :=
  { t with pc := target, stalled := false, toForce := [], status := .running }

/-- Retire the instruction of the moving strand. -/
def State.retire (s : State) : State := s.onStrand Strand.retired

/-- Retire an instruction of the moving strand that sets PC itself. -/
def State.jump (s : State) (target : Va) : State := s.onStrand (fun t => t.jumped target)

/-- Write a result and retire: every source has been read before (R289). -/
def State.result (s : State) (d : Reg) (v : Word) : State := (s.set d v).retire

/-! ## Functions, contexts, nodes -/

/-- Function `f`. -/
def State.fn (s : State) (f : Nat) : Fn := sget {} s.fns f

/-- Change function `f`. -/
def State.onFn (s : State) (f : Nat) (g : Fn → Fn) : State := { s with fns := sset {} s.fns f (g (s.fn f)) }

/-- Context `x`. -/
def State.ctx (s : State) (x : Nat) : Ctx := sget {} s.ctxs x

/-- Change context `x`. -/
def State.onCtx (s : State) (x : Nat) (g : Ctx → Ctx) : State := { s with ctxs := sset {} s.ctxs x (g (s.ctx x)) }

/-- The gang numbered `g`. -/
def State.gang (s : State) (g : Nat) : Option Gang := s.gangs.find? (fun x => decide (x.id = g))

/-- Change gang `g`. -/
def State.onGang (s : State) (g : Nat) (f : Gang → Gang) : State :=
  { s with gangs := s.gangs.map (fun x => if x.id = g then f x else x) }

/-- The node of a function, queue and index. -/
def State.node (s : State) (fn q idx : Nat) : Option TaskNode :=
  s.nodes.find? (fun n => decide (n.fn = fn ∧ n.q = q ∧ n.idx = idx))

/-- Change that node. -/
def State.onNode (s : State) (fn q idx : Nat) (f : TaskNode → TaskNode) : State :=
  { s with nodes := s.nodes.map (fun n => if n.fn = fn ∧ n.q = q ∧ n.idx = idx then f n else n) }

/-- The node of the gang that holds core `c`. -/
def State.nodeOf (s : State) (c : Nat) : Option TaskNode :=
  match s.gang (s.core c).gang with
  | none => none
  | some g => s.node g.fn g.q g.idx

/-- Cores of the gang of core `c`, by rank. -/
def State.gangCores (s : State) (c : Nat) : List Nat :=
  match s.gang (s.core c).gang with
  | none => [c]
  | some g => g.cores

/-- A node's status after a failure: the first failure is kept (Table 8-6). -/
def TaskNode.fail (n : TaskNode) (status : Nat) (info : Word) : TaskNode :=
  if n.status = 0 then { n with status := status, failInfo := info } else n

/-- Fail the node of core `c`. -/
def State.failNodeOf (s : State) (c : Nat) (status : Nat) (info : Word) : State :=
  match s.gang (s.core c).gang with
  | none => s
  | some g => s.onNode g.fn g.q g.idx (fun n => n.fail status info)

/-! ## Precise events (R253) -/

/-- FAILINFO: code in [7:0], PC[56:2] in [62:8] (Table 8-6). -/
def failInfo (code : Nat) (pc : Va) : Word := BitVec.ofNat 64 (code % 256 + (pc.toNat / 4) * 256)

/-- End a strand: it issues nothing further (R253). -/
def Strand.finish (t : Strand) : Strand := { t with status := .ended, stalled := false, toForce := [], record := none }

/-- The trap registers of a strand that takes a precise event (R253). -/
def Strand.enter (t : Strand) (code : Nat) (info : Nat) : Strand :=
  { t with trapPc := t.pc, trapCause := BitVec.ofNat 8 code, trapInfo := BitVec.ofNat 64 info, inHandler := true,
           pc := t.trapVec, stalled := false, toForce := [], status := .running, record := none }

/-- A strand whose wait is over issues again. -/
def Strand.issue (t : Strand) : Strand := { t with status := .running }

/-- The wait record that the strand's WAITQ holds (R179). -/
def Strand.queued (t : Strand) : Option Nat :=
  match t.status with
  | .waitQueue r _ => some r
  | _ => t.record

/-- Take the precise event `code` with TRAPINFO `info` at the instruction of the strand of core `c` (R253). -/
def State.trapOf (s : State) (c : Nat) (code : Nat) (info : Nat) : State :=
  let t := (s.core c).strand
  if t.inHandler || !t.trapVecValid then
    (s.failNodeOf c 5 (failInfo code t.pc)).onStrandOf c Strand.finish
  else s.onStrandOf c (fun t => t.enter code info)

/-- Take the precise event `code` at the moving strand's instruction. -/
def State.trap (s : State) (code : Nat) (info : Nat) : State := s.trapOf s.actor.core code info

/-- ERET with INH = 1: PC := TRAPPC, its bits [1:0] zero, and INH := 0 in one step; nothing else changes (R383). -/
def Strand.leave (t : Strand) : Strand :=
  { t with pc := t.trapPc &&& ~~~3, inHandler := false, stalled := false, toForce := [], status := .running }

/-! ## Why an instruction does not complete -/

/-- A failure of a translation (R53, R182): the stage, whether it is a permission failure, and the GPA (Table 4-7). A walk
whose table read fails its checks is no fault but an integrity failure at `mac`, a line (R106). -/
structure WalkFail where
  stage2 : Bool
  perm : Bool
  gpa : Nat
  mac : Option Nat := none
  deriving DecidableEq, Repr

/-- What stops an instruction or access before it completes. -/
inductive Stop where
  /-- a precise event with its TRAPINFO (Table 14-1) -/
  | event (code info : Nat)
  /-- a translation failure at a VA: the agent waits (R53) -/
  | walk (va : Nat) (acc : AccKind) (f : WalkFail)
  /-- a condition that must first change: the instruction is issued again -/
  | stall
  /-- the strand waits in this status -/
  | become (st : Status)
  /-- an integrity failure on the line at this DPA (R106, R107) -/
  | integrity (dpa : Nat)
  /-- the instruction is issued again in this state, which an implicit force has reached (R244, R247) -/
  | again (s : State)
  deriving DecidableEq, Repr

/-- What a failed walk for an access to `va` stops with: the fault of R53, or the integrity failure of a table read (R106). -/
def stopWalk (va : Nat) (acc : AccKind) (f : WalkFail) : Stop :=
  match f.mac with
  | some l => .integrity (64 * l)
  | none => .walk va acc f

/-- A check and what it answers. -/
abbrev Chk (α : Type) := Except Stop α

/-- Raise the event unless `ok`. -/
def need (ok : Bool) (e : Stop) : Chk Unit := if ok then .ok () else .error e

/-! ## Report queues and events (R46, R49) -/

/-- Entries of a queue. -/
def Queue.size (q : Queue) : Nat := 2 ^ (q.log2sz.toNat + 4)

/-- Queue numbers within a function: 0 ADMSQ, 1 ADMCQ, 2 CQ, 3 FQ, 4 + n launch queue n. -/
def queueNum : QueueId → Nat
  | .admsq => 0
  | .admcq => 1
  | .cq => 2
  | .fq => 3
  | .launch n => 4 + n % 32

/-- The queue block's BAR0 offset (Table 4-2). -/
def queueOff (q : Nat) : Nat := if q < 4 then 0x100 + 0x20 * q else 0x200 + 32 * (q - 4)

/-- Queue `q` of function `f`. -/
def State.queue (s : State) (f q : Nat) : Queue := sget {} (s.fn f).queues q

/-- Change a queue. -/
def State.onQueue (s : State) (f q : Nat) (g : Queue → Queue) : State :=
  s.onFn f (fun x => { x with queues := sset {} x.queues q (g (sget {} x.queues q)) })

/-- A report queue is full when advancing DEVIDX would reach the host's head (R49). -/
def Queue.full (q : Queue) : Bool := decide ((q.dev + 1) % q.size = q.host % q.size)

/-- Bytes per entry: ADMSQ 64, ADMCQ 16, CQ and FQ 32, launch records 128 (Tables 4-4, 8-1; R50). -/
def entryBytes (q : Nat) : Nat :=
  if q = 0 then 64 else if q = 1 then 16 else if q = 2 ∨ q = 3 then 32 else 128

end Sys2Proof.Machine
end

