-- ==== Sys2Proof/Machine/Protect.lean ====
section
/-! DEFINITION. Device physical memory (R18, R99): its frames, owners and units, the line and page counters (R101, R102),
the counter tree over them (R103, R104), and which accesses are integrity failures (R106, R107). -/

namespace Sys2Proof.Machine

/-! ## Frames (R18, R99) -/

/-- The 2 MiB frame of a DPA (R99); a second-tier frame i of port p is (p + 1) × 2^23 + i. -/
def frameOf (dpa : Nat) : Nat := dpa / 0x200000

/-- The group within its stack of frame `j` (R18; the frames of a group are consecutive, log 20). -/
def groupInStack (j : Nat) : Nat := if j < 8 * 2731 then j / 2731 else 8 + (j - 8 * 2731) / 2730

/-- The pseudo-channel group of a first-tier frame, numbered 12 × stack + group. -/
def groupOf (frame : Nat) : Nat := frame / 32768 * 12 + groupInStack (frame % 32768)

/-- The first frame of a group, and how many it holds (R18). -/
def groupFirst (g : Nat) : Nat :=
  g / 12 * 32768 + (if g % 12 < 8 then g % 12 * 2731 else 8 * 2731 + (g % 12 - 8) * 2730)
def groupFrames (g : Nat) : Nat := if g % 12 < 8 then 2731 else 2730

/-- The pseudo-channel of its group that holds a DPA: 256-byte blocks in ascending order (R18). -/
def channelOf (dpa : Nat) : Nat := dpa / 256 % 16

/-- Whether a DPA lies in the second tier (R99). -/
def secondTier (dpa : Nat) : Bool := decide (2 ^ 44 ≤ dpa)

/-- The second-tier port of a DPA. -/
def t2Port (dpa : Nat) : Nat := dpa / 2 ^ 44 - 1

/-- The key of a second-tier frame in `State.tier2`: its frame number. -/
def t2Key (port frame : Nat) : Nat := (port + 1) * 2 ^ 23 + frame

/-- The live window that holds a first-tier frame (R108). -/
def State.windowOf (s : State) (frame : Nat) : Option Nat :=
  (s.windows.find? (fun w => decide (w.2.frame0 ≤ frame ∧ frame < w.2.frame0 + w.2.count))).map Prod.fst

/-- The live window numbered `w`. -/
def State.window (s : State) (w : Nat) : Option Window := (s.windows.find? (fun x => decide (x.1 = w))).map Prod.snd

/-- Whether a DPA lies in a retired group (R90). -/
def State.lostGroup (s : State) (dpa : Nat) : Bool := !secondTier dpa && bmem s.retiredGroups (groupOf (frameOf dpa))

/-- The VF that owns a group, or the PF, whose memory is what no VF owns (R74, log 21). -/
def State.groupOwner (s : State) (g : Nat) : Nat :=
  match s.fns.find? (fun e => decide (e.1 ≠ 0) && bmem e.2.part.pcg g) with
  | some e => e.1
  | none => 0

/-- Whether function `f` owns the frame of a DPA: its group, or the second-tier frame (R98). -/
def State.ownsFrame (s : State) (f dpa : Nat) : Bool :=
  if secondTier dpa then decide (sget 0 s.tier2 (frameOf dpa) = f + 1)
  else decide (dpa < 2 ^ 40) && !s.lostGroup dpa &&
    (if f = 0 then decide (s.groupOwner (groupOf (frameOf dpa)) = 0) else bmem (s.fn f).part.pcg (groupOf (frameOf dpa)))

/-- Whether `f` is the owner or a reader of window `w` (R98). -/
def Window.participant (w : Window) (f : Nat) : Bool := decide (w.owner = f) || bmem w.readers f

/-- Whether the walker accepts a key ID for an access by `f` to the frame of `pa`; a frame of a retired group is left to
R90 (R98). -/
def State.keyOk (s : State) (f keyid pa : Nat) (mt : MType) : Bool :=
  match mt with
  | .dev =>
    if s.lostGroup pa then true
    else if keyid < 64 then decide (keyid = f) && s.ownsFrame f pa && (secondTier pa || (s.windowOf (frameOf pa)).isNone)
    else if keyid < 128 then
      match s.window (keyid - 64) with
      | none => false
      | some w => w.participant f && decide (s.windowOf (frameOf pa) = some (keyid - 64)) && !secondTier pa
    else false
  | _ => decide (keyid = 0xFF)

/-! ## Units and keys (R95, R103) -/

/-- A unit of protection (Table 7-3). -/
inductive MemUnit where
  | group (g : Nat)
  | port (p f : Nat)
  | window (w frame0 : Nat)
  deriving DecidableEq, Repr

/-- The unit of a DPA. -/
def State.unitOf (s : State) (dpa : Nat) : Option MemUnit :=
  if secondTier dpa then
    match sget 0 s.tier2 (frameOf dpa) with
    | 0 => none
    | f + 1 => some (.port (t2Port dpa) f)
  else match s.windowOf (frameOf dpa) with
    | some w => some (.window w ((s.window w).getD { owner := 0, home := 0, readers := 0, frame0 := 0, count := 0, sem := 0 }).frame0)
    | none => if dpa < 2 ^ 40 then some (.group (groupOf (frameOf dpa))) else none

/-- The unit number (R104). -/
def MemUnit.number : MemUnit → Nat
  | .group g => g
  | .port p f => 256 + 64 * p + f
  | .window w _ => 512 + w

/-- The level of the unit's top node (Table 7-3). -/
def MemUnit.top : MemUnit → Nat
  | .group _ => 7
  | .port _ _ => 10
  | .window _ _ => 6

/-- The first page of the unit: its counter lines are numbered from there. -/
def MemUnit.firstPage : MemUnit → Nat
  | .group g => groupFirst g * 512
  | .port p _ => t2Key p 0 * 512
  | .window _ frame0 => frame0 * 512

/-- The key slot of a unit: its owner's, its function's or the window's (R95, R103). -/
def State.unitSlot (s : State) : MemUnit → Nat
  | .group g => s.groupOwner g
  | .port _ f => f
  | .window w _ => 64 + w

/-- The key in force for a unit; for an empty key slot the model takes the key 0 (log 105). -/
def State.unitKey (s : State) (u : MemUnit) : BitVec 256 := (sfind s.keys (s.unitSlot u)).getD 0

/-! ## Lines and counters (R101, R102) -/

/-- A device line or a host line as the key of the directory (R172). -/
def lineKey (mt : MType) (pa : Nat) : Nat :=
  match mt with
  | .dev => pa / 64
  | _ => 2 ^ 60 + pa / 64

/-- The 64-byte lines that `n` bytes at `pa` touch. -/
def linesOf (pa n : Nat) : List Nat :=
  if n = 0 then [] else (upto ((pa + n - 1) / 64 + 1 - pa / 64)).map (fun i => pa / 64 + i)

/-- The counters of page `p`. -/
def State.page (s : State) (p : Nat) : PageCounter := sget {} s.counters p

/-- A line's minor counter. -/
def PageCounter.minor (c : PageCounter) (line : Nat) : Nat := field c.minors (7 * line) 7

/-- The counters of a line after one more write of it to DRAM (R101, R102). -/
def PageCounter.bump (c : PageCounter) (line : Nat) : PageCounter :=
  let m := field c.minors (7 * line) 7
  if m = 127 then { c with major := c.major + 1, minors := 0 }
  else { c with minors := BitVec.ofNat 448 (c.minors.toNat + 2 ^ (7 * line)) }

/-- Whether a write of the line would take the major counter past its last value (R102). -/
def PageCounter.wraps (c : PageCounter) (line : Nat) : Bool :=
  decide (field c.minors (7 * line) 7 = 127 ∧ c.major.toNat = 2 ^ 64 - 1)

/-- Whether the page is empty for a line (R101). -/
def PageCounter.empty (c : PageCounter) (line : Nat) : Bool := decide (c.major = 0 ∧ field c.minors (7 * line) 7 = 0)

/-- Count one write of a line, under the key of its unit (R101, R104). -/
def State.bumpLine (s : State) (line : Nat) : State :=
  let k := match s.unitOf (64 * line) with
    | some u => s.unitKey u
    | none => 0
  { s with counters := sset {} s.counters (line / 64) { (s.page (line / 64)).bump (line % 64) with key := k } }

/-! ## The counter tree (R100, R103, R104)

Every node on a counter line's path is updated before the write that changed it becomes visible, so the MAC lines, the
counter lines and the nodes are functions of the counters, the keys and the data. -/

/-- A page's counter line (Table 7-2). -/
def PageCounter.image (c : PageCounter) : List Byte := toBytes 8 c.major.toNat ++ toBytes 56 c.minors.toNat

/-- The first page of the unit written since the unit was initialised, of those below node `i` of level `k`. -/
def State.written (s : State) (u : MemUnit) (k i : Nat) : Option PageCounter :=
  (s.counters.find? (fun e => decide (u.firstPage ≤ e.1 ∧ (e.1 - u.firstPage) / 8 ^ k = i) &&
    decide (s.unitOf (4096 * e.1) = some u))).map Prod.snd

/-- The 64 bytes of node `i` of level `k` of a unit; level 0 is a counter line (Table 7-4). A child with INIT clear has
CMAC 0 here. -/
def State.node64 (s : State) (u : MemUnit) : Nat → Nat → List Byte
  | 0, i => (s.page (u.firstPage + i)).image
  | k + 1, i =>
    let child (j : Nat) : Option PageCounter := s.written u k (8 * i + j)
    (upto 8).flatMap (fun j => toBytes 7 (match child j with
      | some c => (nodeMac c.key k u.number (8 * i + j) (State.node64 s u k (8 * i + j))).toNat
      | none => 0))
    ++ toBytes 8 ((upto 8).foldl (fun n j => if (child j).isSome then n + 2 ^ j else n) 0)

/-- The top node of a unit, as the root store of its die holds it (R103). -/
def State.rootNode (s : State) (u : MemUnit) : List Byte := s.node64 u u.top 0

/-- The die whose root store holds a unit's top node (Table 7-3). -/
def State.rootDie (s : State) : MemUnit → Nat
  | .group g => g / 48
  | .port p _ => p
  | .window w _ => match s.window w with
    | some x => x.home
    | none => 0

/-- The ciphertext of a line in DRAM (R99). -/
def State.stored (s : State) (line : Nat) : List Byte :=
  let c := s.page (line / 64)
  lineCipher c.key c.major.toNat (c.minor (line % 64)) (64 * line) (mread s.mem (64 * line) 64)

/-- A page's MAC line: 64 MACs of 7 bytes (Table 7-2). -/
def State.macImage (s : State) (p : Nat) : List Byte :=
  let c := s.page p
  (upto 64).flatMap (fun l =>
    toBytes 7 (lineMac c.key c.major.toNat (c.minor l) (4096 * p + 64 * l) (s.stored (64 * p + l))).toNat)

/-- Whether the page `p` fails its check at a node below the top, from level `k` − 1 down to its counter line: the lines
that the failing node covers (R104, R106, R107). A child with INIT clear ends the fetch. -/
def State.treeFails (s : State) (u : MemUnit) (key : BitVec 256) (p : Nat) : Nat → Option (Nat × Nat)
  | 0 => none
  | k + 1 =>
    let i := (p - u.firstPage) / 8 ^ k
    match s.written u k i with
    | none => none
    | some c =>
      if c.key = key ∨ nodeMac c.key k u.number i (s.node64 u k i) = nodeMac key k u.number i (s.node64 u k i) then
        State.treeFails s u key p k
      else some (64 * (u.firstPage + i * 8 ^ k), 64 * (u.firstPage + (i + 1) * 8 ^ k))

/-- Whether a fetch of a line from DRAM fails a MAC: its page's path, then, unless it is empty, its own MAC (R99, R101,
R104). Equal keys need no comparison. The lines that fail are answered. -/
def State.macFails (s : State) (line : Nat) : Option (Nat × Nat) :=
  match s.unitOf (64 * line) with
  | none => none
  | some u =>
    let key := s.unitKey u
    let c := s.page (line / 64)
    match s.treeFails u key (line / 64) u.top with
    | some r => some r
    | none =>
      if c.key = key || c.empty (line % 64)
          || decide (lineMac c.key c.major.toNat (c.minor (line % 64)) (64 * line) (s.stored line)
              = lineMac key c.major.toNat (c.minor (line % 64)) (64 * line) (s.stored line)) then none
      else some (line, line + 1)

/-! ## Integrity (R106, R107) -/

/-- Whether a line is poisoned. -/
def State.poisoned (s : State) (line : Nat) : Bool := s.poison.any (fun r => decide (r.1 ≤ line ∧ line < r.2))

/-- Poison a range of lines. -/
def State.poisonLines (s : State) (r : Nat × Nat) : State :=
  if s.poison.contains r then s else { s with poison := s.poison ++ [r] }

/-- Frames, the first and how many, as a half-open range of lines. -/
def frameLines (r : Nat × Nat) : Nat × Nat := (r.1 * 32768, (r.1 + r.2) * 32768)

/-- Ranges of lines without those of frames. -/
def cutFrames (l : List (Nat × Nat)) (r : Nat × Nat) : List (Nat × Nat) :=
  let c := frameLines r
  (l.flatMap (fun e => [(e.1, min e.2 c.1), (max e.1 c.2, e.2)])).filter (fun e => decide (e.1 < e.2))

/-- The lines of a unit (R103): a group's without the windows in it, the frames of a function on a port, a window's. -/
def State.unitLines (s : State) (u : MemUnit) : List (Nat × Nat) :=
  match u with
  | .group g => (s.windows.map (fun w => (w.2.frame0, w.2.count))).foldl cutFrames [frameLines (groupFirst g, groupFrames g)]
  | .port p f => (s.tier2.filter (fun e => decide (t2Port (e.1 * 0x200000) = p ∧ e.2 = f + 1))).map (fun e => frameLines (e.1, 1))
  | .window w _ => match s.window w with
    | some x => [frameLines (x.frame0, x.count)]
    | none => []

/-- The lines that an integrity failure at a line poisons: those of its unit below the failing node, or the line (R107). -/
def State.failing (s : State) (line : Nat) : List (Nat × Nat) :=
  match s.macFails line, s.unitOf (64 * line) with
  | some r, some u => ((s.unitLines u).map (fun e => (max e.1 r.1, min e.2 r.2))).filter (fun e => decide (e.1 < e.2))
  | _, _ => [(line, line + 1)]

/-- Every line of the ranges is poisoned. -/
def State.poisonAll (s : State) (l : List (Nat × Nat)) : State := l.foldl State.poisonLines s

/-- Whether some L2 holds the line. -/
def Line.cached (l : Line) : Bool := !l.l2.isEmpty

/-- The line in the directories. -/
def State.dirLine (s : State) (k : Nat) : Line := sget {} s.lines k

/-- Whether an access to a device line fails: a retired group (R90), a poisoned line unless it is read empty, a MAC of a
line that comes from DRAM, or a write to DRAM whose counter would wrap (R101, R102, R106, R107). DEDUCED (log 114): R101
decides for the read of an empty poisoned line. -/
def State.deviceLineFails (s : State) (wr : Bool) (l : Nat) : Bool :=
  s.lostGroup (64 * l) || (s.poisoned l && (wr || !(s.page (l / 64)).empty (l % 64)))
    || (!(s.dirLine l).cached && (s.macFails l).isSome) || (wr && (s.page (l / 64)).wraps (l % 64))

/-- The first line that fails, of an access to these bytes; `wr`: they are written to DRAM. -/
def State.lineFails (s : State) (mt : MType) (pa n : Nat) (wr : Bool) : Option Nat :=
  match mt with
  | .dev => (linesOf pa n).find? (s.deviceLineFails wr)
  | _ => none

/-- The line of a read of a stage-2 table that fails its checks: the read is under the PF's key (R182), which opens no line
written under another. -/
def State.tableFails (s : State) (pa n : Nat) : Option Nat :=
  match s.lineFails .dev pa n false with
  | some l => some l
  | none => (linesOf pa n).find? (fun l => !s.keyOk 0 0 (64 * l) .dev && !(s.page (l / 64)).empty (l % 64))

/-! ## Bytes -/

/-- Bytes of the page's own store. -/
def State.readPa (s : State) (mt : MType) (pa n : Nat) : List Byte :=
  match mt with
  | .dev => mread s.mem pa n
  | _ => mread s.hostMem pa n

/-- Whether an L2 holds the line modified, so that a store to it goes no further yet (R173). -/
def Line.dirty (l : Line) : Bool := l.l2.any (fun c => decide (c.st = .m))

/-- Write bytes to the page's own store. Each line that no L2 holds modified is written to DRAM, which counts (R101). -/
def State.writePa (s : State) (mt : MType) (pa : Nat) (bs : List Byte) : State :=
  match mt with
  | .dev => (linesOf pa bs.length).foldl (fun (s : State) l => if (s.dirLine l).dirty then s else s.bumpLine l)
      { s with mem := mwrite s.mem pa bs }
  | _ => { s with hostMem := mwrite s.hostMem pa bs }

end Sys2Proof.Machine
end

