-- ==== Sys2Proof/Machine/Translate.lean ====
section
/-! DEFINITION. Translation (R181, R182, R98): the tables, whose reads are checked like any other (R106), the core TLB and
what a translation that is held still grants. -/

namespace Sys2Proof.Machine

/-! ## Tables (R181, R182) -/

/-- Bytes that one entry maps at a level. -/
def levelSize (level : Nat) : Nat := 2 ^ (12 + 9 * (level - 1))

/-- The index of an address at a level. -/
def levelIndex (level a : Nat) : Nat := a / levelSize level % 512

/-- The next table or page of an entry, [51:12]. -/
def entryBase (e : Nat) : Nat := nbits e 12 40 * 4096

/-- A stage-2 leaf as found: its fields and its address. -/
structure Leaf2 where
  size : Nat
  pa : Nat
  entry : Nat
  addr : Nat
  deriving DecidableEq, Repr

/-- The leaf of an entry at a level: page size and page address; none where the entry is unaligned. -/
def leafOf (level e : Nat) : Option (Nat × Nat) :=
  if level = 1 then
    if nbit e 4 then (if entryBase e % 0x10000 = 0 then some (0x10000, entryBase e) else none)
    else some (0x1000, entryBase e)
  else if entryBase e % levelSize level = 0 then some (levelSize level, entryBase e) else none

/-- A translation failure of stage 2 at this GPA. -/
def fail2 {α : Type} (perm : Bool) (gpa : Nat) : Except WalkFail α := .error { stage2 := true, perm := perm, gpa := gpa }

/-- Stage-2 levels `level` to 1 from the table at DPA `table`: a leaf, not present, or the table line whose read is an
integrity failure (R106) or reaches a retired group (R90). -/
def stage2Levels (s : State) (gpa : Nat) : Nat → Nat → Except WalkFail Leaf2
  | 0, _ => fail2 false gpa
  | level + 1, table =>
    let l := level + 1
    let addr := table + 8 * levelIndex l gpa
    match s.tableFails addr 8 with
    | some x => .error { stage2 := true, perm := false, gpa := gpa, mac := some x }
    | none =>
      let e := mval s.mem addr 8
      if !nbit e 0 || nbits e 9 3 ≠ 0 || nbits e 60 4 ≠ 0 then fail2 false gpa
      else if l = 1 || nbit e 1 then
        if l = 4 then fail2 false gpa
        else match leafOf l e with
          | none => fail2 false gpa
          | some (size, base) => .ok { size := size, pa := base, entry := e, addr := addr }
      else stage2Levels s gpa level (entryBase e)

/-- The memory type code of a leaf. -/
def mtypeOf (code : Nat) : Option MType :=
  if code = 0 then some .dev else if code = 1 then some .hostc else if code = 2 then some .hosts else none

/-- Whether the access needs write permission. -/
def AccKind.writes : AccKind → Bool
  | .write | .atomic => true
  | _ => false

/-- Stage 2: GPA to a page (R181, R182, R98). The PF without a stage-2 root maps GPA to DPA one to one in its own memory
(R43, log 21). -/
def walk2 (s : State) (f gpa : Nat) (acc : AccKind) : Except WalkFail Trans :=
  match (s.fn f).s2root with
  | none =>
    if f = 0 ∧ gpa < 2 ^ 48 ∧ (s.keyOk 0 0 gpa .dev = true) then
      .ok { base := gpa / 4096 * 4096, size := 4096, pa := gpa / 4096 * 4096, gpa := gpa / 4096 * 4096, wr := true,
            ex := true }
    else fail2 false gpa
  | some root =>
    if 2 ^ 48 ≤ gpa then fail2 false gpa
    else match stage2Levels s gpa 4 root with
      | .error e => .error e
      | .ok l =>
        match mtypeOf (nbits l.entry 6 2) with
        | none => fail2 true gpa
        | some mt =>
          let keyid := nbits l.entry 52 8
          let l2 := nbit l.entry 8
          let off := gpa % l.size / 4096 * 4096
          if !s.keyOk f keyid (l.pa + off) mt || (l2 && decide (mt ≠ .dev)) then fail2 true gpa
          else if !nbit l.entry 2 || (acc.writes && !nbit l.entry 3) then fail2 true gpa
          else if acc.writes && (s.fn f).dlog.en && decide (l.size ≠ 4096) then fail2 true gpa
          else .ok { base := gpa - gpa % l.size, size := l.size, mtype := mt, pa := l.pa, gpa := gpa - gpa % l.size,
                     keyid := keyid, l2atom := l2, wr := nbit l.entry 3, ex := true, leaf := l.addr,
                     big := decide (l.size ≠ 4096) }

/-- What a stage-1 walk finds: the page size, its GPA, and W and X of the leaf. -/
structure Leaf1 where
  size : Nat
  gpa : Nat
  w : Bool
  x : Bool
  deriving DecidableEq, Repr

/-- Stage-1 levels `level` to 1 from the table at this GPA. -/
def stage1Levels (s : State) (f va : Nat) : Nat → Nat → Except WalkFail Leaf1
  | 0, _ => .error { stage2 := false, perm := false, gpa := 0 }
  | level + 1, table =>
    let l := level + 1
    let gpa := table + 8 * levelIndex l va
    match walk2 s f gpa .read with
    | .error e => .error e
    | .ok t =>
      -- a stage-1 table in a HOSTS or window page fails as a stage-2 permission failure (R182)
      if t.mtype = .hosts ∨ (64 ≤ t.keyid ∧ t.keyid < 128) then .error { stage2 := true, perm := true, gpa := gpa }
      else
        match s.lineFails t.mtype (t.pa + (gpa - t.base)) 8 false with
        | some x => .error { stage2 := false, perm := false, gpa := gpa, mac := some x }
        | none =>
        let e := ofBytes (s.readPa t.mtype (t.pa + (gpa - t.base)) 8)
        let missing : Except WalkFail Leaf1 := .error { stage2 := false, perm := false, gpa := 0 }
        if !nbit e 0 || nbits e 5 7 ≠ 0 || nbits e 52 12 ≠ 0 then missing
        else if l = 1 || nbit e 1 then
          if 4 ≤ l then missing
          else match leafOf l e with
            | none => missing
            | some (size, base) => .ok { size := size, gpa := base, w := nbit e 2, x := nbit e 3 }
        else stage1Levels s f va level (entryBase e)

/-- A whole walk of a VA by function `f` in context `x` (R182). -/
def walk (s : State) (f x va : Nat) (acc : AccKind) : Except WalkFail Trans :=
  match stage1Levels s f va 5 (s.ctx x).s1root with
  | .error e => .error e
  | .ok l =>
    if (acc.writes && !l.w) || (decide (acc = .fetch) && !l.x) then
      .error { stage2 := false, perm := true, gpa := 0 }
    else
      let gpa := l.gpa + va % l.size
      match walk2 s f gpa acc with
      | .error e => .error e
      | .ok t =>
        let size := min l.size t.size
        .ok { t with base := va - va % size, size := size, pa := t.pa + (gpa - gpa % size - t.base),
                     gpa := gpa - gpa % size, wr := l.w && t.wr, ex := l.x }

/-- The core TLB's entry for a VA (R183). -/
def Core.tlbHit (k : Core) (f x va : Nat) : Option Trans :=
  (k.tlb.find? (fun e => decide (e.fn = f ∧ e.ctx = x ∧ e.tr.base ≤ va ∧ va < e.tr.base + e.tr.size))).map TlbEntry.tr

/-- The physical address of a VA within its page. -/
def Trans.at (t : Trans) (va : Nat) : Nat := t.pa + (va - t.base)

/-- Whether a translation that is held still grants function `f` an access to `va`: the key ID for the frame that it
reaches (R98), and no write through a stage-2 leaf larger than 4 KiB while the log is enabled (R87). -/
def State.grants (s : State) (f : Nat) (t : Trans) (va : Nat) (acc : AccKind) : Bool :=
  s.keyOk f t.keyid (t.at va) t.mtype && !(acc.writes && (s.fn f).dlog.en && t.big)

/-- The page of the strand's own access on core `c`: the core TLB where it holds a fitting entry, else a walk. -/
def State.transOn (s : State) (c va : Nat) (acc : AccKind) : Except WalkFail Trans :=
  let k := s.core c
  match k.tlbHit k.fn k.ctx va with
  | some t =>
    if (acc.writes && !t.wr) || (decide (acc = .fetch) && !t.ex) || !s.grants k.fn t va acc then walk s k.fn k.ctx va acc
    else .ok t
  | none => walk s k.fn k.ctx va acc

end Sys2Proof.Machine
end

