-- ==== Sys2Proof/Machine/Cache.lean ====
section
/-! DEFINITION. The caches (R171 to R173) with their homes, directories, ways and charge (R79, R80, R109); the dirty-page
log (R86 to R88); and one access by any agent. -/

namespace Sys2Proof.Machine

/-! ## Homes and copies (R10, R172) -/

/-- The home die of a line. -/
def homeDie (mt : MType) (pa : Nat) : Nat :=
  match mt with
  | .dev => if secondTier pa then t2Port pa % 4 else pa / 2 ^ 36 / 4 % 4
  | _ => pa / 4096 % 4

/-- The home slice on the home die: A[11:6] XOR A[17:12] XOR A[23:18]. -/
def homeSlice (pa : Nat) : Nat := pa / 2 ^ 6 % 64 ^^^ pa / 2 ^ 12 % 64 ^^^ pa / 2 ^ 18 % 64

/-- The package-wide number of a slice (R10). -/
def sliceNumber (die slice : Nat) : Nat := 64 * die + slice

/-- Whether the key of a line is a device line's. -/
def keyDev (k : Nat) : Bool := decide (k < 2 ^ 60)

/-- The address of the line with a key. -/
def keyPa (k : Nat) : Nat := if keyDev k then 64 * k else 64 * (k - 2 ^ 60)

/-- The home die of the line with a key. -/
def keyHome (k : Nat) : Nat := homeDie (if keyDev k then .dev else .hostc) (keyPa k)

/-- A die's copy. -/
def Line.copy (l : Line) (d : Nat) : Option L2Copy := l.l2.find? (fun c => decide (c.die = d))

/-- The home directory's sharer bits, one per die (R172). -/
def Line.sharers (l : Line) : BitVec 4 := l.l2.foldl (fun m c => bset m c.die) 0

/-- The home directory's owning die, for M or O (R172). -/
def Line.owner (l : Line) : Option Nat := (l.l2.find? (fun c => decide (c.st = .m ∨ c.st = .o))).map L2Copy.die

/-- A die's second-level directory: one bit per core (R172). -/
def Line.coreBits (l : Line) (d : Nat) : BitVec 64 :=
  l.l1.foldl (fun m c => if dieOf c.core = d then bset m (coreInDie c.core) else m) 0

/-- Replace the directory entry of a line. -/
def State.setLine (s : State) (k : Nat) (l : Line) : State := { s with lines := sset {} s.lines k l }

/-! ## Filling and leaving (R79, R80, R173) -/

/-- An integrity failure that the end of the step reports (R106). -/
def State.noteFail (s : State) (f line : Nat) : State := { s with broken := s.broken ++ [(f, 64 * line)] }

/-- A write of line `k` from an L2 to DRAM for its allocator `f`: counted (R101), or an integrity failure (R102, R106). -/
def State.writeBack (s : State) (k f : Nat) : State :=
  if !keyDev k then s
  else if (s.page (k / 64)).wraps (k % 64) || (s.macFails k).isSome then s.noteFail f k
  else s.bumpLine k

/-- The copy of line `k` leaves the L2 of die `d`: first from every L1 of the die; M or O is written back (R173). -/
def State.evict (s : State) (k d : Nat) : State :=
  let l := s.dirLine k
  match l.copy d with
  | none => s
  | some c =>
    let s := if c.st = .m ∨ c.st = .o then s.writeBack k c.fn else s
    let rest := l.l2.filter (fun x => decide (x.die ≠ d))
    s.setLine k { l with l2 := rest, l1 := l.l1.filter (fun x => decide (dieOf x.core ≠ d)), cxl := if rest.isEmpty then none else l.cxl }

/-- Every device copy of line `k` goes; dirty data is written back (R57). -/
def State.evictAll (s : State) (k : Nat) : State := (upto 4).foldl (fun s d => s.evict k d) s

/-- The ways of function `f` on die `d` (R79). -/
def State.waysOf (s : State) (f d : Nat) : List Nat := (upto 16).filter (bmem (sget 0 (s.fn f).part.ways d))

/-- The die whose L2 serves an access by `f` on die `d` to a line: that die, or the home die where `f` has no way on it and
it holds no copy. -/
def State.seat (s : State) (f d k : Nat) : Nat :=
  if ((s.dirLine k).copy d).isSome || !(s.waysOf f d).isEmpty then d else keyHome k

/-- The line that occupies way `w` of the set of line `k` in the slice of die `d`. -/
def State.occupant (s : State) (k d w : Nat) : Option Nat :=
  (s.lines.find? (fun e => decide (e.1 ≠ k) && e.2.l2.any (fun c => decide (c.die = d ∧ c.way = w))
    && decide (homeSlice (keyPa e.1) = homeSlice (keyPa k)) && decide (Config.l2Set e.1 = Config.l2Set k))).map Prod.fst

/-- The line that the strand of core `c` holds under a lease that has not expired (R177). -/
def State.leaseOf (s : State) (c : Nat) : Option Nat :=
  let t := (s.core c).strand
  if s.cycle < t.leaseEnd then t.lease else none

/-- Whether a strand of die `d` holds a lease on the line, so that no L2 there gives it up (R177). -/
def State.leasedOn (s : State) (d line : Nat) : Bool :=
  s.cores.any (fun e => decide (dieOf e.1 = d ∧ s.leaseOf e.1 = some line))

/-- Line `k` is in the L2 of die `d` in state `st`: a copy there takes the state; a miss allocates in one of `f`'s ways, from
which another line of `f` leaves (R79), but none that is leased (R177). With no such way nothing is cached. -/
def State.fillDie (s : State) (f d k : Nat) (st : Moesi) : State :=
  let l := s.dirLine k
  if (l.copy d).isSome then
    s.setLine k { l with l2 := l.l2.map (fun c => if c.die = d then { c with st := st } else c) }
  else match (s.waysOf f d).filter (fun w => match s.occupant k d w with
      | some x => !s.leasedOn d x
      | none => true) with
    | [] => s
    | w :: ws =>
      let way := (w :: ws).getD (Config.l2Victim s.tick k % (w :: ws).length) w
      let s := match s.occupant k d way with
        | some x => s.evict x d
        | none => s
      let rest (before : Bool) := l.l2.filter (fun c => if before then decide (c.die < d) else decide (d < c.die))
      s.setLine k { l with l2 := rest true ++ [{ die := d, way := way, fn := f, st := st }] ++ rest false }

/-- The lines of the L1 set of line `k` that core `c` holds, beside `k`. -/
def State.l1Others (s : State) (c k : Nat) : List (Nat × L1Copy) :=
  (s.lines.filter (fun e => decide (e.1 ≠ k) && e.2.l1.any (fun x => decide (x.core = c))
    && decide (Config.l1Set e.1 = Config.l1Set k))).filterMap (fun e =>
      (e.2.l1.find? (fun x => decide (x.core = c))).map (fun x => (e.1, x)))

/-- Whether a line of core `c`'s L1 may not make room: it is leased, or its fill is pending (R177). -/
def State.l1Held (s : State) (c : Nat) (e : Nat × L1Copy) : Bool :=
  decide (s.leaseOf c = some e.1 ∨ s.cycle < e.2.fillBy)

/-- Remove line `k` from core `c`'s L1. -/
def State.leaveL1 (s : State) (c k : Nat) : State :=
  s.setLine k { s.dirLine k with l1 := (s.dirLine k).l1.filter (fun x => decide (x.core ≠ c)) }

/-- Line `k`, which the L2 of core `c`'s die holds, is in its L1 in state `st`: one of the 8 ways is free, or one that may is
made free (R171, R173). -/
def State.fillL1 (s : State) (c k : Nat) (st : Moesi) (fillBy : Nat) : State :=
  if ((s.dirLine k).copy (dieOf c)).isNone then s
  else
    let others := s.l1Others c k
    let put (s : State) : State :=
      let l := s.dirLine k
      let rest (before : Bool) := l.l1.filter (fun x => if before then decide (x.core < c) else decide (c < x.core))
      s.setLine k { l with l1 := rest true ++ [{ core := c, st := st, fillBy := fillBy }] ++ rest false }
    if others.length < 8 then put s
    else match others.filter (fun e => !s.l1Held c e) with
      | [] => s
      | e :: es => put (s.leaveL1 c (((e :: es).getD (Config.l1Victim s.tick k % (e :: es).length) e).1))

/-- A store or atomic by a lease's holder to another line of an L1 set whose 8 ways all hold leases or pending fills
(R177). -/
def State.l1Blocked (s : State) (c k : Nat) : Bool :=
  decide ((s.leaseOf c).isSome ∧ s.leaseOf c ≠ some k) &&
    decide (8 ≤ ((s.l1Others c k).filter (s.l1Held c)).length)

/-! ## Reading and owning a line (R173) -/

/-- Whether the key ID is a window's (R98). -/
def Trans.isWindow (t : Trans) : Bool := decide (64 ≤ t.keyid ∧ t.keyid < 128)

/-- The line key of a VA within its page. -/
def Trans.line (t : Trans) (va : Nat) : Nat := lineKey t.mtype (t.at va)

/-- A window line or an L2ATOM line lies only in its home slice (R109, R173). -/
def Trans.homeOnly (t : Trans) : Bool := t.isWindow || t.l2atom

/-- Copies of a line as another die reads it: M becomes O, E becomes S, in the L1s M and E become S (R173). -/
def Line.downgrade (l : Line) (d : Nat) : Line :=
  { l with
    l2 := l.l2.map (fun c => if c.die = d then c else { c with st := if c.st = .m then .o else if c.st = .e then .s else c.st })
    l1 := l.l1.map (fun x => if dieOf x.core = d then x else { x with st := .s }) }

/-- A read by function `f` on die `d`, and by core `c`'s strand where it is one: the copies that hold the line afterwards
(R172, R173). `fillBy`: the cycle until which a prefetch's fill is pending. -/
def State.shareLineTo (s : State) (f d : Nat) (c : Option Nat) (t : Trans) (va fillBy : Nat) : State :=
  let k := t.line va
  let home := keyHome k
  -- the host may share a host line that the device has only read
  let alone' : Moesi := if t.mtype = .hostc then .s else .e
  if t.mtype = .hosts then s
  else if t.homeOnly then
    (if ((s.dirLine k).copy home).isSome then s else s.fillDie f home k .e)
  else
    let d := s.seat f d k
    let l := s.dirLine k
    let s :=
      if (l.copy d).isSome then s
      else
        let alone := l.l2.isEmpty
        let s := s.setLine k (l.downgrade d)
        let s := if home = d || (l.copy home).isSome then s else s.fillDie f home k .s
        s.fillDie f d k (if alone && decide (home = d) then alone' else .s)
    let s := if t.mtype = .hostc && ((s.dirLine k).cxl).isNone && (s.dirLine k).cached then
        s.setLine k { s.dirLine k with cxl := some .s } else s
    match c with
    | none => s
    | some c =>
      let l := s.dirLine k
      if l.l1.any (fun x => decide (x.core = c)) then s
      else
        let mates := l.l1.any (fun x => decide (dieOf x.core = dieOf c))
        let sole := match l.copy (dieOf c) with
          | some x => decide (x.st = .m ∨ x.st = .e)
          | none => false
        let s := s.setLine k { l with l1 := l.l1.map (fun x => if dieOf x.core = dieOf c then { x with st := .s } else x) }
        s.fillL1 c k (if sole && !mates then .e else .s) fillBy

/-- A read by a strand, engine or walk with no pending fill. -/
def State.shareLine (s : State) (f d : Nat) (c : Option Nat) (t : Trans) (va : Nat) : State := s.shareLineTo f d c t va 0

/-- Exclusive ownership for function `f` on die `d`, and for core `c`'s L1 where its strand takes it: every other copy goes,
its L1s first; `st` is M for a store, E for ownership alone, and M where a copy that went was dirty (R56, R171, R173). -/
def State.ownLineTo (s : State) (f d : Nat) (c : Option Nat) (st : Moesi) (t : Trans) (va fillBy : Nat) : State :=
  let k := t.line va
  if t.mtype = .hosts then s
  else
    let d := if t.homeOnly then keyHome k else s.seat f d k
    let l := s.dirLine k
    let kept := l.l2.filter (fun x => decide (x.die = d))
    let wasDirty := l.l2.any (fun x => decide (x.st = .m ∨ x.st = .o))
    let st := if wasDirty then .m else st
    if kept.isEmpty && (s.waysOf f d).isEmpty then s.evictAll k
    else
      let s := s.setLine k { l with l2 := kept, l1 := [], hostHolds := false, cxl := if t.mtype = .hostc then some st else none }
      let s := s.fillDie f d k st
      match c with
      | some c => if t.homeOnly || decide (dieOf c ≠ d) then s else s.fillL1 c k st fillBy
      | none => s

/-- Ownership with no pending fill. -/
def State.ownLine (s : State) (f d : Nat) (c : Option Nat) (st : Moesi) (t : Trans) (va : Nat) : State :=
  s.ownLineTo f d c st t va 0

/-- Whether a store by `f` on die `d` stays in an L2, so that DRAM is written later (R101). -/
def State.holds (s : State) (f d : Nat) (t : Trans) (va : Nat) : Bool :=
  let k := t.line va
  let d := if t.homeOnly then keyHome k else s.seat f d k
  decide (t.mtype = .dev) && (((s.dirLine k).copy d).isSome || !(s.waysOf f d).isEmpty)

/-- The number of L2 lines charged to `f` on die `d` (R79), which PART_QUERY reports (R78). -/
def State.l2Charge (s : State) (f d : Nat) : Nat :=
  s.lines.foldl (fun n e => n + (e.2.l2.filter (fun c => decide (c.die = d ∧ c.fn = f))).length) 0

/-- Write back and invalidate every L2 copy that meets `p` (R80, R92). -/
def State.evictWhere (s : State) (p : Nat → L2Copy → Bool) : State :=
  s.lines.foldl (fun s e => e.2.l2.foldl (fun s c => if p e.1 c then s.evict e.1 c.die else s) s) s

/-! ## The dirty-page log (R86 to R88) -/

/-- Whether the log of `f` is full. -/
def DirtyLog.full (d : DirtyLog) : Bool := decide ((d.tail + 1) % 2 ^ d.log2n = d.head % 2 ^ d.log2n)

/-- The free entries of the log. -/
def DirtyLog.room (d : DirtyLog) : Nat := (d.head + 2 ^ d.log2n - d.tail % 2 ^ d.log2n - 1) % 2 ^ d.log2n

/-- The stage-2 leaf behind a page has D clear while the log is enabled: the page is clean. -/
def State.cleanPage (s : State) (f : Nat) (t : Trans) : Bool :=
  (s.fn f).dlog.en && decide (t.leaf ≠ 0) && !nbit (mval s.mem t.leaf 8) 5

/-- An access of the device's own waits until every lease on the lines under `n` bytes is over (R177): the cycle is then the
last of their ends. -/
def State.outwait (s : State) (mt : MType) (pa n : Nat) : State :=
  match (s.cores.filter (fun e => (linesOf pa n).any (fun l => decide (s.leaseOf e.1 = some (lineKey mt (64 * l)))))).map
      (fun e => e.2.strand.leaseEnd) with
  | [] => s
  | l => { s with cycle := l.foldl max s.cycle }

/-- A write of the device's own that no cache holds: L2 copies of the lines go first. A failing line takes nothing, and the
failure is function `f`'s (R106). -/
def State.putPa (s : State) (f : Nat) (mt : MType) (pa : Nat) (bs : List Byte) : State :=
  match s.lineFails mt pa bs.length true with
  | some l => s.noteFail f l
  | none =>
    let s := s.outwait mt pa bs.length
    if mt = .dev then ((linesOf pa bs.length).foldl (fun (s : State) l => s.evictAll l) s).writePa mt pa bs
    else s.writePa mt pa bs

/-- Set D in the leaf. -/
def State.setDirty (s : State) (leaf : Nat) : State := s.putPa 0 .dev leaf (toBytes 8 (mval s.mem leaf 8 ||| 32))

/-- The integrity failure that a walk's table read met is the function's (R106). -/
def State.noteWalk (s : State) (f : Nat) (e : WalkFail) : State :=
  match e.mac with
  | some l => s.noteFail f l
  | none => s

/-- Write bytes at a GPA of PF memory; an unmapped GPA takes nothing. -/
def State.pfPut (s : State) (gpa : Nat) (bs : List Byte) : State :=
  match walk2 s 0 gpa .read with
  | .ok t => s.putPa 0 t.mtype (t.at gpa) bs
  | .error e => s.noteWalk 0 e

/-- The value of `n` bytes at a GPA of PF memory; 0 where it is not mapped, or its read fails its checks. -/
def State.pfVal (s : State) (gpa n : Nat) : Nat :=
  match walk2 s 0 gpa .read with
  | .ok t => if (s.lineFails t.mtype (t.at gpa) n false).isSome then 0 else ofBytes (s.readPa t.mtype (t.at gpa) n)
  | .error _ => 0

/-- A read of `n` bytes at a GPA of PF memory that fails its checks is the PF's integrity failure (R106). -/
def State.pfNote (s : State) (gpa n : Nat) : State :=
  match walk2 s 0 gpa .read with
  | .ok t => match s.lineFails t.mtype (t.at gpa) n false with
    | some l => s.noteFail 0 l
    | none => s
  | .error e => s.noteWalk 0 e

/-- The first write of `f` to a clean page: D, the entry, TAIL (R87). The log ring lies in PF memory (log 21). -/
def State.logPage (s : State) (f gpa : Nat) (t : Trans) : State :=
  let d := (s.fn f).dlog
  let s := s.setDirty t.leaf
  let tail := (d.tail + 1) % 2 ^ d.log2n
  let s := (s.pfPut (d.ring + 64 + 8 * d.tail) (toBytes 8 (gpa / 4096 * 4096))).pfPut d.ring (toBytes 4 tail)
  s.onFn f (fun x => { x with dlog := { x.dlog with tail := tail } })

/-! ## One access of an agent -/

/-- Whether another agent than core `c`'s strand holds a lease on the line (R177). -/
def State.leasedByOther (s : State) (c : Option Nat) (line : Nat) : Bool :=
  s.cores.any (fun e => decide (some e.1 ≠ c ∧ s.leaseOf e.1 = some line))

/-- What must hold before a device agent's access to `n` bytes on die `d`: no lease of another agent, the host not holding
the line (R57), no integrity failure, a way of the L1 that a store can use (R177), and for a write space in the dirty log
(R88). `c` is the strand's core; `wb`: a write stays in an L2. -/
def State.accessCheckOn (s : State) (f : Nat) (c : Option Nat) (t : Trans) (va n : Nat) (wr wb : Bool) : Chk Unit :=
  if t.mtype ≠ .hosts && s.leasedByOther c (t.line va) then .error .stall
  else if decide (t.mtype = .dev) && (s.dirLine (t.line va)).hostHolds && c.isSome then
    .error (.become (.waitLine (t.at va / 64 * 64)))
  else match s.lineFails t.mtype (t.at va) n (wr && !wb) with
    | some l => .error (.integrity (l * 64))
    | none =>
      if wr && (match c with
        | some c => decide (t.mtype ≠ .hosts) && !t.homeOnly && s.l1Blocked c (t.line va)
        | none => false) then .error (.event 0x0A (va / 64 * 64))
      else if wr && s.cleanPage f t && (s.fn f).dlog.full then .error .stall else .ok ()

/-- The checks of a strand's own access on core `c`. -/
def State.accessCheck (s : State) (f : Nat) (c : Option Nat) (t : Trans) (va n : Nat) (wr : Bool) : Chk Unit :=
  s.accessCheckOn f c t va n wr (match c with
    | some c => s.holds f (dieOf c) t va
    | none => false)

/-- Bytes read through a page. -/
def State.readVia (s : State) (t : Trans) (va n : Nat) : List Byte := s.readPa t.mtype (t.at va) n

/-- Bytes of one page that an agent of the device reads at a VA of context `x` of function `f`: a failing line gives no
bytes (R106). -/
def State.peek (s : State) (f x va n : Nat) : Except WalkFail (List Byte) :=
  match walk s f x va .read with
  | .error e => .error e
  | .ok t =>
    match s.lineFails t.mtype (t.at va) n false with
    | some l => .error { stage2 := false, perm := false, gpa := 0, mac := some l }
    | none => .ok (s.readVia t va n)

/-- Record the dirty page of a write (R87). -/
def State.noteWrite (s : State) (f : Nat) (t : Trans) (va : Nat) : State :=
  if s.cleanPage f t then s.logPage f (t.gpa + (va - t.base)) t else s

/-- Write bytes through a page after `accessCheck`, in the L2 that holds the line modified or else in DRAM. -/
def State.writeVia (s : State) (f : Nat) (t : Trans) (va : Nat) (bs : List Byte) : State :=
  (s.noteWrite f t va).writePa t.mtype (t.at va) bs

/-- A store by `f` on die `d`, and by core `c`'s strand where it is one: D and the log (R87), ownership of the line (R173), the
bytes. -/
def State.storeOn (s : State) (f d : Nat) (c : Option Nat) (t : Trans) (va : Nat) (bs : List Byte) : State :=
  ((s.noteWrite f t va).ownLine f d c .m t va).writePa t.mtype (t.at va) bs

/-- A window line that its home slice holds is served there, and stays charged to its allocator (R80, R109). -/
def State.servedHome (s : State) (t : Trans) (k : Nat) : Bool := t.isWindow && ((s.dirLine k).copy (keyHome k)).isSome

/-- It takes a write there: it is modified. -/
def State.writeHome (s : State) (k : Nat) : State :=
  s.setLine k { s.dirLine k with l2 := (s.dirLine k).l2.map (fun c => { c with st := .m }) }

/-- The cached copies of the lines under `n` bytes go before an uncached write (R101), which waits for a lease on them
(R177); a window line in its home slice takes the write there (R80). -/
def State.uncache (s : State) (t : Trans) (va n : Nat) : State :=
  if t.mtype = .hosts then s
  else (linesOf (t.at va) n).foldl (fun (s : State) l =>
    let k := lineKey t.mtype (64 * l)
    if s.servedHome t k then s.writeHome k else s.evictAll k) (s.outwait t.mtype (t.at va) n)

/-- An uncached write: a stack agent's, a fabric packet's, the host's through BAR2 (R101). -/
def State.writeUncached (s : State) (f : Nat) (t : Trans) (va : Nat) (bs : List Byte) : State :=
  (s.uncache t va bs.length).writeVia f t va bs

/-- What becomes of a write by an agent of the device at a VA of context `x` of function `f`: done, or held by a full log
(R88), or its walk or line fails (R106). -/
def State.poke (s : State) (f x va : Nat) (bs : List Byte) : Except WalkFail (Option State) :=
  match walk s f x va .write with
  | .error e => .error e
  | .ok t =>
    match s.lineFails t.mtype (t.at va) bs.length true with
    | some l => .error { stage2 := false, perm := false, gpa := 0, mac := some l }
    | none => if s.cleanPage f t && (s.fn f).dlog.full then .ok none else .ok (some (s.writeUncached f t va bs))

end Sys2Proof.Machine
end

