-- ==== Sys2Proof/Machine/Report.lean ====
section
/-! DEFINITION. Report queues and events (R46 to R50, R406), fault replay (R53, R54), error banks (R258 to R260)
and the flags of absent strands (R261). -/

namespace Sys2Proof.Machine

/-! ## Report queues (R49) -/

/-- Where byte 0 of entry `i` of queue `q` lies: host memory, or device memory through BAR2 (Table 4-3), where its page is
mapped. -/
def State.queueWalk (s : State) (f q i : Nat) (acc : AccKind) : Except WalkFail (MType × Nat) :=
  let b := s.queue f q
  let off := entryBytes q * i
  if nbit b.base.toNat 63 then
    match walk2 s f (nbits b.base.toNat 0 44 + off) acc with
    | .ok t => .ok (t.mtype, t.at (nbits b.base.toNat 0 44 + off))
    | .error e => .error e
  else .ok (.hosts, b.base.toNat + off)

/-- The same, or none. -/
def State.queueAddr (s : State) (f q i : Nat) (acc : AccKind) : Option (MType × Nat) :=
  match s.queueWalk f q i acc with
  | .ok p => some p
  | .error _ => none

/-- The entry at the head of a submission queue: all ones where it is not mapped (R43) or a line of it fails, an integrity
failure of the function (R106). -/
def State.entryRead (s : State) (f q : Nat) : State × List Byte :=
  let n := entryBytes q
  match s.queueWalk f q (s.queue f q).dev .read with
  | .error e => (s.noteWalk f e, List.replicate n 0xFF)
  | .ok (mt, a) =>
    match s.lineFails mt a n false with
    | some l => (s.noteFail f l, List.replicate n 0xFF)
    | none => (s, s.readPa mt a n)

/-- The entry with bit P of its pass (Table 4-4). -/
def withPass (q : Nat) (pass : Bool) (bs : List Byte) : List Byte :=
  if pass then bs.modify (if q = 3 then 7 else 3) (fun b => b ||| 0x80) else bs

/-- The MSI-X vector of a report queue (R45). -/
def vectorOf (q : Nat) : Nat := q - 1

/-- The line that fails the write of the entry at DEVIDX (R106). -/
def State.entryFails (s : State) (f q : Nat) : Option Nat :=
  match s.queueWalk f q (s.queue f q).dev .write with
  | .ok (mt, a) => s.lineFails mt a (entryBytes q) true
  | .error e => e.mac

/-- Whether the entry at DEVIDX can be written: its place is mapped and its line does not fail. -/
def State.entryReady (s : State) (f q : Nat) : Bool :=
  (s.queueAddr f q (s.queue f q).dev .write).isSome && (s.entryFails f q).isNone

/-- A vector is signalled; one that its table entry masks becomes pending (R45, log 92). -/
def State.signalVector (s : State) (f v : Nat) : State :=
  if nbit (sget 0 (s.fn f).msixTab (2 * v + 1)).toNat 32 then s.onFn f (fun x => { x with msixPend := bset x.msixPend v })
  else { s with msix := s.msix ++ [(f, v)] }

/-- A write to the MSI-X table: a pending vector that it unmasks is signalled (log 92). -/
def State.writeVector (s : State) (f i : Nat) (v : Word) : State :=
  let s := s.onFn f (fun x => { x with msixTab := sset 0 x.msixTab i v })
  if bmem (s.fn f).msixPend (i / 2) && !nbit (sget 0 (s.fn f).msixTab (i / 2 * 2 + 1)).toNat 32 then
    (s.onFn f (fun x => { x with msixPend := bclr x.msixPend (i / 2) })).signalVector f (i / 2)
  else s

/-- Write one entry at DEVIDX, advance it, and signal the vector (R49). -/
def State.writeEntry (s : State) (f q : Nat) (bs : List Byte) : State :=
  let b := s.queue f q
  let s := match s.queueAddr f q b.dev .write with
    | some (mt, a) => s.putPa f mt a (withPass q b.pass bs)
    | none => s
  let next := (b.dev + 1) % b.size
  let s := s.onQueue f q (fun b => { b with dev := next, pass := if next = 0 then !b.pass else b.pass })
  s.signalVector f (vectorOf q)

/-- Write an entry, or hold it while the queue is disabled or full, or its place cannot be written (R49); OVF is set for lack
of space. The first entry that a failing line keeps is an integrity failure of the function (R106). -/
def State.pushEntry (s : State) (f q : Nat) (bs : List Byte) : State :=
  let b := s.queue f q
  if b.en && !b.full && b.held.isEmpty && s.entryReady f q then s.writeEntry f q bs
  else
    let t := s.onQueue f q (fun b => { b with held := b.held ++ [bs], ovf := b.ovf || (b.en && b.full) })
    match s.entryFails f q with
    | some l => if b.en && b.held.isEmpty then t.noteFail f l else t
    | none => t

/-- An ADMCQ entry (Table 4-4). -/
def admEntry (cid status event result : Nat) : List Byte :=
  toBytes 2 cid ++ toBytes 1 status ++ toBytes 1 event ++ toBytes 4 0 ++ toBytes 8 result

/-- Post an ADMCQ entry. -/
def State.postAdm (s : State) (f cid status event result : Nat) : State :=
  s.pushEntry f 1 (admEntry cid status event result)

/-- Post an ADMCQ event (Table 4-6, R406). -/
def State.event (s : State) (f code result : Nat) : State := s.postAdm f 0xFFFF 0 code result

/-- Complete an admin command with exactly one entry (R50). -/
def State.complete (s : State) (cmd : AdminCmd) (status : Nat) (result : Nat) : State :=
  s.postAdm cmd.fn cmd.cid.toNat status 0 result

/-- Post a CQ or FQ entry; the first entry held for lack of space begins an overflow episode, event 6 (R49). -/
def State.post (s : State) (f q : Nat) (bs : List Byte) : State :=
  let s' := s.pushEntry f q bs
  let b := s'.queue f q
  if b.en && b.full && !b.held.isEmpty && !b.episode then
    (s'.onQueue f q (fun b => { b with episode := true })).event f 6 (queueOff q)
  else s'

/-- Write held entries while there is space; `n` bounds how many. -/
def State.flushHeld (f q : Nat) : Nat → State → State
  | 0, s => s
  | n + 1, s =>
    let b := s.queue f q
    match b.held with
    | [] => s.onQueue f q (fun b => { b with episode := false })
    | e :: rest =>
      if b.en && !b.full && s.entryReady f q then
        State.flushHeld f q n ((s.onQueue f q (fun b => { b with held := rest })).writeEntry f q e)
      else s

/-- Write what the queue holds, as far as space allows; entries that are left for lack of space set OVF and begin an overflow
episode (R49). -/
def State.flush (s : State) (f q : Nat) : State :=
  let s := State.flushHeld f q ((s.queue f q).held.length + 1) s
  let b := s.queue f q
  if b.en && b.full && !b.held.isEmpty then
    let s' := s.onQueue f q (fun b => { b with ovf := true, episode := b.episode || decide (q ≠ 1) })
    if b.episode || decide (q = 1) then s' else s'.event f 6 (queueOff q)
  else s

/-- Entries held because their place could not be written are written once it can (R49). -/
def State.settleReports (s : State) : State :=
  s.fns.foldl (fun s e => [1, 2, 3].foldl (fun s q =>
    let b := s.queue e.1 q
    if b.en && !b.full && !b.held.isEmpty && s.entryReady e.1 q then s.flush e.1 q else s) s) s

/-- A CQ entry (Table 4-4): record index, queue, KIND, CTXID, status, completion-record VA. -/
def cqEntry (idx q kind ctx status crva : Nat) : List Byte :=
  toBytes 2 idx ++ toBytes 1 q ++ toBytes 1 kind ++ toBytes 2 ctx ++ toBytes 2 status ++ toBytes 8 crva ++ toBytes 16 0

/-! ## Faults (R53, R54) -/

/-- ACC of Table 4-7. -/
def AccKind.code : AccKind → Nat
  | .read => 0
  | .write => 1
  | .atomic => 2
  | .fetch => 3

/-- SRC, core within its die, and byte 23 of Table 4-7. A word of a stack agent reports SRC 7 (`stack` gives its die and
stack). DESIGN CHOICE (log 90): Table 4-7 names no agent for the save of a strand and the restore of a gang; they report
SRC 0, a restore with core 0 and the die of the walk. -/
def agentCodes (a : Agent) (stack : Option (Nat × Nat)) (place : Nat) : Nat × Nat × Nat :=
  match a, stack with
  | .ring c _, some (d, k) => (7, coreInDie c, d % 4 + 4 * k)
  | .strand c, _ => (0, coreInDie c, dieOf c)
  | .handle c _, _ => (0, coreInDie c, dieOf c)
  | .ring c r, none => (r + 1, coreInDie c, dieOf c)
  | .packet _, _ => (8, 0, place)
  | .slot _ _ _, _ => (8, 0, place)
  | .node _ _ _, _ => (9, 0, place)
  | .save c, _ => (0, coreInDie c, dieOf c)
  | .restore _, _ => (0, 0, place)
  | .parked _ _ u, _ => (u, 0, place)

/-- An FQ entry without P (Table 4-7). -/
def fqEntry (r : FaultRec) (src core b23 : Nat) : List Byte :=
  toBytes 8 (r.va % 2 ^ 57 + r.acc.code * 2 ^ 57 + (if r.stage2 then 2 ^ 60 else 0) + (if r.perm then 2 ^ 61 else 0))
    ++ toBytes 8 r.gpa ++ toBytes 2 r.fid ++ toBytes 2 r.ctx ++ toBytes 1 src ++ toBytes 1 core
    ++ toBytes 1 (if r.stage2 then r.fn else 0) ++ toBytes 1 b23 ++ toBytes 8 0

/-- Whose FQ a fault is posted to: the PF's for stage 2 (R53). -/
def FaultRec.owner (r : FaultRec) : Nat := if r.stage2 then 0 else r.fn

/-- The least FID that is not outstanding for a function's queue (R53, log 22). The FID of a discarded fault whose response
may still come is not given again (R55). -/
def State.freshFid (s : State) (f : Nat) : Nat :=
  let gone := (s.fn f).dropped
  ((upto (s.faults.length + gone.length + 1)).find? (fun i =>
    s.faults.all (fun r => decide (r.owner ≠ f ∨ r.fid ≠ i)) && !gone.contains i)).getD 0

/-- An agent waits on a translation failure: it joins the outstanding fault of the same context, page, access kind and
stage, or a new one is posted (R53). The FID is answered. -/
def State.fault (s : State) (a : Agent) (stack : Option (Nat × Nat)) (place fn ctx va : Nat) (acc : AccKind)
    (f : WalkFail) : State × Nat :=
  match s.faults.find? (fun r => decide (r.fn = fn ∧ r.ctx = ctx ∧ r.va / 4096 = va / 4096 ∧ r.acc = acc ∧
      r.stage2 = f.stage2)) with
  | some r =>
    ({ s with faults := s.faults.map (fun x =>
        if x.fid = r.fid ∧ x.owner = r.owner then { x with waiters := x.waiters ++ [a] } else x) }, r.fid)
  | none =>
    let dest := if f.stage2 then 0 else fn
    let r : FaultRec := { fn := fn, fid := s.freshFid dest, ctx := ctx, va := va, acc := acc, stage2 := f.stage2,
                          perm := f.perm, gpa := f.gpa, waiters := [a] }
    let c := agentCodes a stack place
    (({ s with faults := s.faults ++ [r] }).post dest 3 (fqEntry r c.1 c.2.1 c.2.2), r.fid)

/-- The TRAPCAUSE of a fault answered FAIL: 0x05 for permission or stage 2, else 0x04 (R54). -/
def failCode (stage2 perm : Bool) : Nat := if stage2 || perm then 5 else 4

/-! ## Error banks (R258 to R260) -/

/-- An error arrives at its bank (Table 14-5). -/
def Bank.record (b : Bank) (e : ErrorReport) (ue : Bool) : Bank :=
  let b := if ue then { b with uec := if b.uec = 0xFFFFFFFF then b.uec else b.uec + 1 }
    else { b with ce := if b.ce = 0xFFFFFFFF then b.ce else b.ce + 1 }
  let written : Bank := { b with valid := true, ue := ue, read := false, cause := if ue then e.cause else 0,
                                 kind := e.kind, unit := e.unit, fn := e.fn, addr := e.addr }
  if !b.valid then written
  else if !b.ue then (if ue || b.read then written else b)
  else if !ue then b
  else if b.read then written
  else { b with overflow := true }

/-- Record an error in bank `bk` of die `d`; an uncorrectable one posts event 8 to the PF (R258). -/
def State.bankError (s : State) (d bk : Nat) (e : ErrorReport) (ue : Bool) : State :=
  let k := 16 * d + bk
  let s := { s with banks := sset {} s.banks k ((sget {} s.banks k).record e ue) }
  if ue then s.event 0 8 k else s

/-! ## Flags of absent strands (R261) -/

/-- The VA of slot `i` of a context's save area (R262). -/
def Ctx.slotVa (x : Ctx) (i : Nat) : Nat := x.saveVa + 0x10000 + 0x400000 * i

/-- OR flags into the flag word at `va` of context `x`'s save area; where its page is not translated now, or a full log
holds the write, the device holds them as CTXFLAGS (R88, log 28). -/
def State.orFlagsAt (s : State) (x va : Nat) (f : NumFlags) : State :=
  let c := s.ctx x
  if f = 0 then s
  else
    let hold (s : State) : State := s.onCtx x (fun c => { c with flagsHeld := c.flagsHeld ||| f })
    match s.peek c.fn x va 8 with
    | .error e => hold (match e.mac with
      | some l => s.noteFail c.fn l
      | none => s)
    | .ok old =>
      match s.poke c.fn x va (toBytes 8 (ofBytes old ||| f.toNat)) with
      | .ok (some s) => s
      | .ok none => hold s
      | .error e => hold (match e.mac with
        | some l => s.noteFail c.fn l
        | none => s)

/-- OR flags into CTXFLAGS of context `x` (R261). -/
def State.orCtxFlags (s : State) (x : Nat) (f : NumFlags) : State := s.orFlagsAt x (s.ctx x).saveVa f

/-- The slot that holds the saved strand of core `c`. -/
def State.slotOfCore (s : State) (c : Nat) : Option Nat :=
  (s.gang (s.core c).gang).bind (fun g => (sfind g.slots (s.core c).rank).bind id)

/-- CTXFLAGS of context `x` as a strand that starts or is restored takes them, and the state with them clear. -/
def State.takeCtxFlags (s : State) (x : Nat) : State × NumFlags :=
  let c := s.ctx x
  let held := c.flagsHeld
  let s := s.onCtx x (fun c => { c with flagsHeld := 0 })
  match s.peek c.fn x c.saveVa 8 with
  | .ok bs =>
    let v := ofBytes bs
    if v % 64 = 0 then (s, held)
    else match s.poke c.fn x c.saveVa (toBytes 8 (v / 64 * 64)) with
      | .ok (some t) => (t, held ||| BitVec.ofNat 6 v)
      | .ok none => (s, held)
      | .error e => ((match e.mac with
        | some l => s.noteFail c.fn l
        | none => s), held)
  | .error e => ((match e.mac with
    | some l => s.noteFail c.fn l
    | none => s), held)

/-- ORs an engine word's flags into FLAGS of the strand of core `c`: into its slot where it is saved, into CTXFLAGS where
it has exited (R225, R261). -/
def State.wordFlags (s : State) (c : Nat) (f : NumFlags) : State :=
  let x := (s.core c).ctx
  if (s.core c).strand.status = .exited then s.orCtxFlags x f
  else if (s.core c).strand.status = .saved then
    (match s.slotOfCore c with
     | some i => s.orFlagsAt x ((s.ctx x).slotVa i + 16) f
     | none => s.orCtxFlags x f)
  else s.onStrandOf c (fun t => { t with flags := t.flags ||| f })

end Sys2Proof.Machine
end

