-- ==== Sys2Proof/Machine/Nodes.lean ====
section
/-! DEFINITION. Semaphores as state (R143, R144), captures of the virtual dies (R81 to R83), the end of gangs, and the
completion of nodes (R117, R118, R131 to R133). -/

namespace Sys2Proof.Machine

/-! ## The event latch (R386) -/

/-- Set a bit of the event latch of core `c`. -/
def State.latch (s : State) (c i : Nat) : State := s.onStrandOf c (fun t => { t with latch := bset t.latch i })

/-! ## Semaphores (R143, R144) -/

/-- A semaphore as a key: die × 65,536 + index. -/
def semKey (die idx : Nat) : Nat := die * 65536 + idx

/-- The value of a semaphore. -/
def State.sem (s : State) (k : Nat) : BitVec 32 := sget 0 s.sems k

/-- The core whose own block holds a semaphore (R143). -/
def semOwner (k : Nat) : Option Nat :=
  if k % 65536 < 6144 then some (k / 65536 * 64 + k % 65536 / 96) else none

/-- Write a semaphore: watchers of EQ see the value (R317), and the owner's event latch is set (R386). -/
def State.semWrite (s : State) (k : Nat) (v : BitVec 32) : State :=
  let s := { s with
    sems := sset 0 s.sems k v
    semWaiters := s.semWaiters.map (fun w =>
      if w.key = k && w.eq && decide (w.c = v) then { w with matched := true } else w) }
  match semOwner k with
  | some c => s.latch c 0
  | none => s

/-- Add a signed amount, saturating at 0 and 0xFFFF_FFFF (R144, Table 17-4). -/
def semAddVal (v : BitVec 32) (n : Int) : BitVec 32 :=
  BitVec.ofInt 32 (min (max ((v.toNat : Int) + n) 0) 0xFFFFFFFF)

/-- Add to a semaphore. -/
def State.semAdd (s : State) (k : Nat) (n : Int) : State := s.semWrite k (semAddVal (s.sem k) n)

/-- Whether a queued waiter is ahead on this semaphore (R144). -/
def State.semQueued (s : State) (k : Nat) : Bool := s.semWaiters.any (fun w => decide (w.key = k) && !w.eq)

/-- The semaphore that a 7-bit slot names for an engine word of core `c`: the core's own block, or a bound alias
(R144, R145). -/
def State.slotSem (s : State) (c slot : Nat) : Option Nat :=
  if slot < 96 then some (semKey (dieOf c) (96 * coreInDie c + slot))
  else
    let b := sget 0 (s.core c).aliases (slot - 96)
    if b.getLsbD 31 then some (semKey (field b 16 2) (field b 0 16)) else none

/-! ## Virtual dies (R81 to R84) -/

/-- The composed map of a context now: each virtual die's guest-die entry, where both tables are valid (R81, R82). -/
def guestDefault (e : Nat) : BitVec 32 := if e < 4 then BitVec.ofNat 32 (2 ^ 16 + e) else 0

/-- VDIEMAP entry `e` of a context; a new context names guest dies 0 to 3 (R81). -/
def vdieDefault (e : Nat) : Byte := if e < 4 then BitVec.ofNat 8 (0x80 + e) else 0

/-- VDIEMAP entry `e`. -/
def Ctx.vdie (x : Ctx) (e : Nat) : Byte := sget (vdieDefault e) x.vdiemap e

/-- Guest-die entry `e` of a function (R82). -/
def Fn.guest (f : Fn) (e : Nat) : BitVec 32 := sget (guestDefault e) f.guestDies e

/-- Virtual die `v` through both tables as they stand. -/
def State.composed (s : State) (x : Nat) (v : Nat) : Option (BitVec 32) :=
  let e := (s.ctx x).vdie v
  if v < 64 && e.getLsbD 7 then
    let g := (s.fn (s.ctx x).fn).guest (field e 0 6)
    if g.getLsbD 16 then some g else none
  else none

/-- The capture of a context's map (R83). -/
def State.captureOf (s : State) (x : Nat) : List (Option (BitVec 32)) := (upto 64).map (s.composed x)

/-- The guest-die entry of a virtual die in a node's capture. -/
def captured (cap : Option (List (Option (BitVec 32)))) (v : Nat) : Option (BitVec 32) :=
  match cap with
  | none => none
  | some l => l.getD v none

/-- Virtual die `v` in the capture of the node that runs on core `c`; before any capture, the map in force. -/
def State.vdie (s : State) (c v : Nat) : Option (BitVec 32) :=
  match s.nodeOf c with
  | none => s.composed (s.core c).ctx v
  | some n =>
    match n.capture with
    | none => s.composed (s.core c).ctx v
    | some l => l.getD v none

/-- The physical die of an entry of this package; none for a fabric peer (R82, R84). -/
def localDie (e : Option (BitVec 32)) : Option Nat :=
  match e with
  | some g => if g.getLsbD 15 then none else some (field g 0 2)
  | none => none

/-! ## The end of a gang -/

/-- An agent no longer waits on any fault. -/
def State.dropWaits (s : State) (p : Agent → Bool) : State :=
  { s with faults := s.faults.map (fun r => { r with waiters := r.waiters.filter (fun a => !p a) }) }

/-- Whether an agent acts for core `c`. -/
def Agent.onCore (c : Nat) : Agent → Bool
  | .strand d => decide (d = c)
  | .handle d _ => decide (d = c)
  | .ring d _ => decide (d = c)
  | .save d => decide (d = c)
  | _ => false

/-- Core `c` becomes free: its strand, engines, tables and waits are gone; a reset in progress goes on. -/
def State.clearCore (s : State) (c : Nat) : State :=
  let k := s.core c
  let s := s.dropWaits (Agent.onCore c)
  let s := { s with
    semWaiters := s.semWaiters.filter (fun w => decide (w.core ≠ c))
    hostsAtoms := s.hostsAtoms.filter (fun a => decide (a.core ≠ c))
    fabric := { s.fabric with transfers := s.fabric.transfers.filter (fun t => decide (t.core ≠ c)) } }
  s.setCore c { gen := k.gen, inReset := k.inReset }

/-- The key under which a saved strand's transfers wait (R155). -/
def parkKey (ctx slot : Nat) : Nat := 1024 + ctx * 4096 + slot

/-- A slot of a context becomes free, with what the device kept for it. -/
def State.releaseSlot (s : State) (x slot : Nat) : State :=
  let s := s.dropWaits (fun a => match a with | .parked x' i _ => decide (x' = x ∧ i = slot) | _ => false)
  let s := { s with
    parked := s.parked.filter (fun p => decide (p.ctx ≠ x ∨ p.slot ≠ slot))
    fabric := { s.fabric with transfers := s.fabric.transfers.filter (fun t => decide (t.core ≠ parkKey x slot)) } }
  s.onCtx x (fun c => { c with used := c.used.filter (fun i => decide (i ≠ slot)) })

/-- A gang is over: its cores are free and its slots too. -/
def State.endGang (s : State) (g : Gang) : State :=
  let s := g.cores.foldl State.clearCore s
  let s := g.slots.foldl (fun s e => match e.2 with | some i => s.releaseSlot g.ctx i | none => s) s
  let s := s.dropWaits (fun a => decide (a = .restore g.id))
  { s with gangs := s.gangs.filter (fun x => decide (x.id ≠ g.id)) }

/-- The gangs of a node. -/
def State.gangsOf (s : State) (n : TaskNode) : List Gang :=
  s.gangs.filter (fun g => decide (g.fn = n.fn ∧ g.q = n.q ∧ g.idx = n.idx))

/-- Cluster `k` (8 × die + cluster). -/
def State.cluster (s : State) (k : Nat) : Cluster := sget {} s.clusters k

/-- Change a cluster. -/
def State.onCluster (s : State) (k : Nat) (g : Cluster → Cluster) : State :=
  { s with clusters := sset {} s.clusters k (g (s.cluster k)) }

/-- Change every cluster that has run. -/
def State.onClusters (s : State) (g : Cluster → Cluster) : State := s.clusters.foldl (fun s e => s.onCluster e.1 g) s

/-- A node's slot is free for another: no cluster counts a gang of it as passed over (R125). -/
def State.forgetSkips (s : State) (n : TaskNode) : State :=
  s.onClusters (fun c => { c with
    skipped := c.skipped.filter (fun x => !decide (x.fn = n.fn ∧ x.q = n.q ∧ x.idx = n.idx)) })

/-- Every gang of a node stops. -/
def State.stopNode (s : State) (n : TaskNode) : State := (s.gangsOf n).foldl State.endGang s

/-! ## Counts (R117, R118, R132, R133) -/

/-- Whether some level in use has no iteration: the node places no gang (R133). -/
def Launch.barren (l : Launch) : Bool := (l.levels.take l.nlev).any (fun v => decide (v.1 = 0))

/-- COUNT of the level of a kind, if one is in use. -/
def Launch.countOf (l : Launch) (kind : Nat) : Option Nat :=
  ((l.levels.take l.nlev).find? (fun v => decide (v.2.1 = kind))).map Prod.fst

/-- The instances of a node: one per value of its SPATIAL_DIE level, else one (R119). -/
def Launch.instances (l : Launch) : List Nat := upto ((l.countOf 2).getD 1)

/-- A node whose remaining count has reached zero: it completes at once if it is doomed or barren, else it is ready. -/
def TaskNode.arrive (n : TaskNode) (order : Nat) : TaskNode :=
  if n.doomed then { n.fail 6 0 with phase := .completing }
  else if n.launch.barren then { n with phase := .completing }
  else { n with phase := .ready, order := order, toPlace := n.launch.instances }

/-- A decrement reaches a node (R117, R132). -/
def TaskNode.decrement (n : TaskNode) (failing : Bool) (order : Nat) : TaskNode :=
  let n := if failing && n.capture.isNone && decide (n.phase ≠ .completing) then { n with doomed := true } else n
  if n.remaining = 0 then
    (if n.doomed && decide (n.phase = .ready) then { n.fail 6 0 with phase := .completing, toPlace := [] } else n)
  else if n.remaining = 1 then { n with remaining := 0 }.arrive order
  else { n with remaining := n.remaining - 1 }

/-- Release one successor entry: a void one is skipped, a slot not fetched holds the decrement; none where the store of
held decrements is full (R118). -/
def State.releaseOne (s : State) (f : Nat) (e : BitVec 32) (failing : Bool) : Option State :=
  if field e 21 11 ≠ 0 then some s
  else
    let q := field e 0 5
    let idx := field e 5 16
    match s.node f q idx with
    | some _ => some ({ s with nextOrder := s.nextOrder + 1 }.onNode f q idx (fun n => n.decrement failing s.nextOrder))
    | none =>
      if (s.fn f).decs.length < 1024 then some (s.onFn f (fun x => { x with decs := x.decs ++ [(q, idx, failing)] }))
      else none

/-- Release successors in order; the entries left when the store is full. -/
def State.releaseAll (f : Nat) (failing : Bool) : List (BitVec 32) → State → State × List (BitVec 32)
  | [], s => (s, [])
  | e :: rest, s =>
    match s.releaseOne f e failing with
    | none => (s, e :: rest)
    | some s => State.releaseAll f failing rest s

/-! ## Completion (R131) -/

/-- Bytes of a context's memory for the node scheduler, page by page. -/
def State.nodeBytes (s : State) (f x : Nat) : Nat → Nat → Nat → Except (Nat × WalkFail) (List Byte)
  | 0, _, _ => .ok []
  | fuel + 1, va, n =>
    if n = 0 then .ok []
    else
      let k := min n (4096 - va % 4096)
      match s.peek f x (va % 2 ^ 57) k with
      | .error e => .error (va % 2 ^ 57, e)
      | .ok here =>
        match State.nodeBytes s f x fuel (va + k) (n - k) with
        | .error e => .error e
        | .ok bs => .ok (here ++ bs)

/-- 32-bit entries of a byte list; `fuel` bounds how many. -/
def entries32 : Nat → List Byte → List (BitVec 32)
  | 0, _ => []
  | fuel + 1, bs => if bs.isEmpty then [] else BitVec.ofNat 32 (ofBytes (bs.take 4)) :: entries32 fuel (bs.drop 4)

/-- The completion record (Table 8-6). -/
def TaskNode.record (n : TaskNode) (now : Nat) : List Byte :=
  toBytes 2 n.status ++ toBytes 1 n.requeues ++ toBytes 1 (min 255 n.discards) ++ toBytes 2 (min 65535 n.dlmiss)
    ++ toBytes 2 n.doneCount ++ toBytes 8 n.tstart ++ toBytes 8 now ++ toBytes 8 n.failInfo.toNat

/-- The node's completion waits on a translation failure (R53, SRC 9). Byte 23 is the die of the captured virtual die 0 (log
101). -/
def State.nodeWait (s : State) (n : TaskNode) (va : Nat) (acc : AccKind) (e : WalkFail) : State :=
  let r := s.fault (.node n.fn n.q n.idx) none ((localDie (captured n.capture 0)).getD 0) n.fn n.launch.ctx va acc e
  r.1.onNode n.fn n.q n.idx (fun n => { n with fid := some r.2 })

/-- The semaphore that CSEM resolves to in a capture (R403). -/
def TaskNode.csemKey (n : TaskNode) (cap : List (Option (BitVec 32))) : Option Nat :=
  match n.launch.csem with
  | none => none
  | some (idx, vd) =>
    match localDie (captured (some cap) vd) with
    | some d => some (semKey d idx)
    | none => none

/-- Step 1 of R131; none while a full log holds the write (R88). A record on a failing line is not written (R106). -/
def State.nodeRecord (s : State) (n : TaskNode) : Except (Nat × WalkFail) (Option State) :=
  if n.recorded || decide (n.launch.crVa = 0) then .ok (some s)
  else match s.poke n.fn n.launch.ctx n.launch.crVa (n.record s.cycle) with
    | .error e =>
      (match e.mac with
       | some l => .ok (some (s.noteFail n.fn l))
       | none => .error (n.launch.crVa, e))
    | .ok r => .ok r

/-- Steps 2 and 3 of R131. -/
def State.nodeSignal (s : State) (n : TaskNode) : State :=
  if n.signalled then s
  else
    let cap := n.capture.getD (s.captureOf n.launch.ctx)
    let s := match n.csemKey cap with
      | some k => s.semAdd k 1
      | none => s
    if n.status ≠ 0 then s.post n.fn 2 (cqEntry n.idx n.q 1 n.launch.ctx n.status n.launch.crVa) else s

/-- The last node of a context that is being destroyed has completed: CTX_DESTROY completes (R50). -/
def State.destroyDone (s : State) (x : Nat) : State :=
  match (s.ctx x).destroying with
  | some cid =>
    if s.nodes.any (fun n => decide (n.launch.ctx = x)) then s
    else
      let f := (s.ctx x).fn
      { s with ctxs := serase s.ctxs x }.postAdm f cid.toNat 0 0 0
  | none => s

/-- Step 4 of R131: the successors, as far as the store of held decrements allows; the node is over when none is left. -/
def State.nodeRelease (s : State) (n : TaskNode) (l : List (BitVec 32)) : State :=
  match State.releaseAll n.fn (decide (n.status ≠ 0)) l s with
  | (s, []) =>
    let s := { s with nodes := s.nodes.filter (fun m => !decide (m.fn = n.fn ∧ m.q = n.q ∧ m.idx = n.idx)) }
    (s.forgetSkips n).destroyDone n.launch.ctx
  | (s, rest) => s.onNode n.fn n.q n.idx (fun m => { m with succs := some rest })

/-- A node completes (R131): its gangs stop, the successor list is read, the record is written, CSEM is raised, a failure
is posted, the successors are released. A translation fault makes it wait and go on later; a successor list on a failing
line releases nothing (R106). -/
def State.finishNode (s : State) (f q idx : Nat) : State :=
  match s.node f q idx with
  | none => s
  | some n =>
    if n.fid.isSome then s
    else
      let s := s.stopNode n
      let list : Except (Nat × WalkFail) (List (BitVec 32)) :=
        match n.succs with
        | some l => .ok l
        | none => (s.nodeBytes f n.launch.ctx 3 n.launch.succVa (4 * n.launch.nsucc)).map (entries32 n.launch.nsucc)
      let go (s : State) (l : List (BitVec 32)) : State :=
        let s := s.onNode f q idx (fun n => { n with succs := some l })
        match s.nodeRecord n with
        | .error (va, e) => s.nodeWait n va .write e
        | .ok none => s
        | .ok (some s) =>
          let s := s.nodeSignal n
          let s := s.onNode f q idx (fun n => { n with recorded := true, signalled := true })
          s.nodeRelease n l
      match list with
      | .error (va, e) =>
        (match e.mac with
         | some l => go (s.noteFail f l) []
         | none => s.nodeWait n va .read e)
      | .ok l => go s l

/-- Every node that is completing goes as far as it can. -/
def State.settlePass (s : State) : State :=
  (s.nodes.filter (fun n => decide (n.phase = .completing))).foldl (fun s n => s.finishNode n.fn n.q n.idx) s

/-- Completions pass down the graph: `k` rounds reach every node that a completion dooms. -/
def State.settleRounds : Nat → State → State
  | 0, s => s
  | k + 1, s => State.settleRounds k s.settlePass

/-- All completions that can happen now. -/
def State.settleNodes (s : State) : State := State.settleRounds (s.nodes.length + 1) s

/-- The node of a function, queue and index completes with what it has, and what follows. -/
def State.completeNode (s : State) (f q idx : Nat) : State :=
  (s.onNode f q idx (fun n => { n with phase := .completing, toPlace := [] })).settleNodes

end Sys2Proof.Machine
end

