-- ==== Sys2Proof/Machine/Fail.lean ====
section
/-! DEFINITION. Failed contexts (R257), integrity failures (R106, R107), and what a strand does with an instruction that
stops. -/

namespace Sys2Proof.Machine

/-! ## Failed contexts (R257) -/

/-- The PC reported for a node of a failing context: the strand on the detecting core, else its resident strand of
lowest rank, else 0. -/
def State.stopPc (s : State) (n : TaskNode) (core : Option Nat) : Va :=
  let mine (c : Nat) : Bool := (s.core c).resident &&
    (match s.gang (s.core c).gang with
     | none => false
     | some g => decide (g.fn = n.fn ∧ g.q = n.q ∧ g.idx = n.idx))
  let cands := (s.gangs.filter (fun g => decide (g.fn = n.fn ∧ g.q = n.q ∧ g.idx = n.idx))).flatMap Gang.cores
  match core with
  | some c => if mine c then (s.core c).strand.pc
              else match cands.find? mine with
                | some c' => (s.core c').strand.pc
                | none => 0
  | none => match cands.find? mine with
    | some c' => (s.core c').strand.pc
    | none => 0

/-- Context `x` fails with a machine fault (R257): its strands end, its nodes are FAULTED, its queues stop. -/
def State.failContext (s : State) (x : Nat) (cause : Nat) (core : Option Nat) : State :=
  if (s.ctx x).failed then s
  else
    let f := (s.ctx x).fn
    let s := { s with nodes := s.nodes.map (fun (n : TaskNode) =>
      if n.launch.ctx = x then { n.fail 5 (failInfo cause (s.stopPc n core)) with phase := .completing, toPlace := [] } else n) }
    let s := (s.onCtx x (fun c => { c with failed := true })).settleNodes
    (upto 32).foldl (fun s n =>
      let q := s.queue f (4 + n)
      if q.en && decide (q.ctx.toNat = x) then s.post f 2 (cqEntry 0 n 3 x 0 0) else s) s

/-- Every context of a function fails (R106). -/
def State.failFunction (s : State) (f cause : Nat) (core : Option Nat) : State :=
  (s.ctxs.filter (fun e => e.2.live && decide (e.2.fn = f))).foldl (fun s e => s.failContext e.1 cause core) s

/-- The error bank and die of a DPA: banks 0 to 3 for the stacks, 14 for the second tier (R258). -/
def bankOfDpa (dpa : Nat) : Nat × Nat :=
  if secondTier dpa then (t2Port dpa % 4, 14) else (dpa / 2 ^ 36 / 4 % 4, dpa / 2 ^ 36 % 4)

/-- The number of an error bank's UNIT for a DPA: the pseudo-channel or the second-tier port (R10, R18, Table 14-4). That the
pseudo-channel counts within its stack, as 16 × group + channel, is the model's choice (log 96). -/
def unitOfDpa (dpa : Nat) : Nat :=
  if secondTier dpa then t2Port dpa else 16 * (groupOf (frameOf dpa) % 12) + channelOf dpa

/-- An access to a retired group (R90): an uncorrectable memory error of the context whose access it was, or of every
context of the function where no core's strand made it. -/
def State.lostAccess (s : State) (f dpa : Nat) (core : Option Nat) : State :=
  let b := bankOfDpa dpa
  let e : ErrorReport := { cause := 0x20, kind := 7, unit := BitVec.ofNat 16 (unitOfDpa dpa), fn := BitVec.ofNat 6 f, addr := BitVec.ofNat 64 dpa }
  let s := s.bankError b.1 b.2 e true
  match core with
  | some c => s.failContext (s.core c).ctx 0x20 core
  | none => s.failFunction f 0x20 none

/-- KIND of an integrity failure: the second tier, the protection metadata where a node fails, else the DRAM line
(Table 14-4). -/
def State.failKind (s : State) (dpa : Nat) : Byte :=
  if secondTier dpa then 12
  else match s.macFails (dpa / 64) with
    | some r => if r.1 + 1 < r.2 then 8 else 7
    | none => 7

/-- An integrity failure of an access by function `f` to the line at `dpa` (R106, R107): the line, or every line below the
failing node, is poisoned, the error recorded, every context of the function fails with 0x21. An access to a retired group
is R90's. -/
def State.integrityFail (s : State) (f dpa : Nat) (core : Option Nat) : State :=
  if s.lostGroup dpa then s.lostAccess f dpa core else
  let b := bankOfDpa dpa
  let e : ErrorReport := { cause := 0x21, kind := s.failKind dpa, unit := BitVec.ofNat 16 (unitOfDpa dpa),
                           fn := BitVec.ofNat 6 f, addr := BitVec.ofNat 64 dpa }
  ((s.poisonAll (s.failing (dpa / 64))).bankError b.1 b.2 e true).failFunction f 0x21 core

/-- The integrity failures that the device's own accesses found are reported (R106). -/
def State.settleBroken (s : State) : State :=
  s.broken.foldl (fun s e => s.integrityFail e.1 e.2 none) { s with broken := [] }

/-! ## What a strand does with an instruction that does not complete -/

/-- The strand of core `c` waits on a fault (R53); a table read that failed its checks is an integrity failure (R106). -/
def State.waitFault (s : State) (c va : Nat) (acc : AccKind) (f : WalkFail) : State :=
  let k := s.core c
  match f.mac with
  | some l => s.integrityFail k.fn (64 * l) (some c)
  | none =>
  let r := s.fault (.strand c) none 0 k.fn k.ctx va acc f
  r.1.onStrandOf c (fun t => { t with status := .waitFault r.2, record := t.queued, faultVa := va, stalled := true })

/-- What the moving strand's instruction does when a check stops it. -/
def State.stop (s : State) (e : Stop) : State :=
  match e with
  | .event code info => s.trap code info
  | .walk va acc f => s.waitFault s.actor.core va acc f
  | .stall => s.onStrand (fun t => { t with stalled := true })
  | .become st => s.onStrand (fun t => { t with status := st, record := t.queued, stalled := true })
  | .integrity dpa => s.integrityFail s.me.fn dpa (some s.actor.core)
  | .again t => t.onStrand (fun t => { t with stalled := true })

/-- Run a strand instruction: its next state, or what stops it. -/
def State.run (s : State) (body : Chk State) : State :=
  match body with
  | .ok t => t
  | .error e => s.stop e

end Sys2Proof.Machine
end

