-- ==== Sys2Proof/Machine/Rings.lean ====
section
/-! DEFINITION. What strands and engines share inside a core: scratch and accumulators (R120), rings with their retained
words and marks (R137 to R141, R157), semaphores (R143 to R147), the capture of virtual dies (R83, R84), and the
delivery of engine status exceptions (R256, R248). -/

namespace Sys2Proof.Machine

/-! ## Scratch and accumulators -/

/-- A byte of the scratchpad of core `c`; one that nothing has written is a free value (log 1). -/
def State.sbyte (s : State) (c a : Nat) : Byte :=
  match sfind (s.core c).scratch (a % 0x200000) with
  | some b => b
  | none => Config.undefScratch (s.core c).gen c (a % 0x200000)

/-- `n` scratch bytes from `a`, wrapping at the end of the scratchpad. -/
def State.sread (s : State) (c a n : Nat) : List Byte := (upto n).map (fun i => s.sbyte c (a + i))

/-- The little-endian value of `n` scratch bytes. -/
def State.sval (s : State) (c a n : Nat) : Nat := ofBytes (s.sread c a n)

/-- Write scratch bytes from `a`, wrapping at the end of the scratchpad. -/
def State.swrite (s : State) (c a : Nat) (bs : List Byte) : State :=
  s.onCore c (fun k =>
    if a % 0x200000 + bs.length ≤ 0x200000 then { k with scratch := uwrite k.scratch (a % 0x200000) bs }
    else
      let n := 0x200000 - a % 0x200000
      { k with scratch := uwrite (uwrite k.scratch (a % 0x200000) (bs.take n)) 0 (bs.drop n) })

/-- The name in `Core.stored` of the line of 64 scratch bytes at `a`. -/
def scratchLine (a : Nat) : Nat := 2 ^ 80 + a % 0x200000 / 64

/-- The moving strand has stored to a line (R202). -/
def State.noteStored (s : State) (l : Nat) : State :=
  s.onMe (fun k => if k.stored.contains l then k else { k with stored := l :: k.stored })

/-- Which undefined values bank `b`'s unwritten elements hold: its own, those of the bank that it was copied from (R157,
R158), or fresh ones. -/
def Core.accTag (k : Core) (b : Nat) : Nat := (sfind k.accFrom b).getD b

/-- Element `i` of accumulator bank `b`; one that nothing has written is a free value (log 1). -/
def State.accAt (s : State) (c b i : Nat) : BitVec 32 :=
  match sfind (s.core c).acc (b % 4 * 65536 + i % 65536) with
  | some v => v
  | none =>
    if bmem (s.core c).accZero (b % 4) then 0 else Config.undefAcc (s.core c).gen c ((s.core c).accTag (b % 4) * 65536 + i % 65536)

/-- An element as a word or access of the strand's own reads it: in a bank that the planner has used, an undefined value
(R238). -/
def State.ownAcc (s : State) (c b i : Nat) : BitVec 32 :=
  if bmem (s.core c).accLost (b % 4) then Config.undefAcc (2 ^ 33 + s.tick) c (b % 4 * 65536 + i % 65536) else s.accAt c b i

/-- A word of the strand's own that writes a bank which the planner has used finds undefined values in it (R238). -/
def State.ownBank (s : State) (c b : Nat) : State :=
  s.onCore c (fun k =>
    if bmem k.accLost (b % 4) then { k with
      acc := k.acc.filter (fun e => decide (e.1 / 65536 ≠ b % 4)), accZero := bclr k.accZero (b % 4),
      accLost := bclr k.accLost (b % 4), accGen := k.accGen + 1, accFrom := sput k.accFrom (b % 4) (4 + k.accGen) }
    else k)

/-- A word at sequence `n` of the M ring begins to use bank `b`: a planned one leaves every bank undefined to the strand,
one of the strand's own finds what it may (R238). -/
def State.takeBank (s : State) (c b : Nat) (n : BitVec 32) : State :=
  if (s.core c).thunks.words.any (fun w => decide (w.ring = 1 ∧ w.seq = n)) then
    if (s.core c).accLost = 15 then s else s.onCore c (fun k => { k with accLost := 15 })
  else if bmem (s.core c).accLost (b % 4) then s.ownBank c b else s

/-- Write an accumulator element. -/
def State.setAcc (s : State) (c b i : Nat) (v : BitVec 32) : State :=
  s.onCore c (fun k => { k with
    acc := if bmem k.accZero (b % 4) then sset 0 k.acc (b % 4 * 65536 + i % 65536) v
           else sput k.acc (b % 4 * 65536 + i % 65536) v })

/-! ## Rings -/

/-- The ring block at gang start (Table 9-4). -/
def ringStart (r : Nat) : Ring :=
  match r with
  | 0 => { baseG := 0xFA00, log2n := 8 }
  | 1 => { baseG := 0xFB00, log2n := 8 }
  | 2 => { baseG := 0xFC00, log2n := 7 }
  | 3 => { baseG := 0xFC80, log2n := 7 }
  | 4 => { baseG := 0xFD00, log2n := 7 }
  | _ => { baseG := 0xFD80, log2n := 7 }

/-- Ring `r` of a core: 0 V, 1 M, 2 to 5 C0 to C3. -/
def Core.ring (k : Core) (r : Nat) : Ring := sget (ringStart r) k.rings r

/-- Replace ring `r`. -/
def Core.setRing (k : Core) (r : Nat) (g : Ring) : Core := { k with rings := sset (ringStart r) k.rings r g }

/-- Change ring `r` of core `c`. -/
def State.onRing (s : State) (c r : Nat) (f : Ring → Ring) : State :=
  s.onCore c (fun k => k.setRing r (f (k.ring r)))

/-- The words from one sequence to another, modulo 2^32. -/
def seqDist (a b : BitVec 32) : Nat := (b - a).toNat

/-- The scratch address of the slot of a sequence (R137, R138). -/
def Ring.slotAddr (g : Ring) (n : BitVec 32) : Nat :=
  (g.baseG.toNat + n.toNat % 2 ^ g.log2n.toNat) % 65536 * 32

/-- Slots of a ring. -/
def Ring.slots (g : Ring) : Nat := 2 ^ g.log2n.toNat

/-- RTAIL − RKEEP. -/
def Ring.held (g : Ring) : Nat := seqDist g.rkeep g.rtail

/-- A ring is empty when RTAIL = RKEEP (R140). -/
def Ring.empty (g : Ring) : Bool := decide (g.rtail = g.rkeep)

/-- A ring is full when RTAIL − RKEEP = 2^LOG2N (R140). -/
def Ring.full (g : Ring) : Bool := decide (g.slots ≤ g.held)

/-- The engine stands at a word whose exception is pending: it starts no later word (R256). -/
def Ring.stopped (g : Ring) : Bool := g.pendx && decide (g.next = g.xseq)

/-- The wait of an engine whose fault is answered FAIL (R188, R116). -/
def EngWait.fail (w : EngWait) (perm : Bool) : EngWait :=
  match w with
  | .nodeFault _ => .nodeFailed perm
  | _ => .failed perm

/-- The fault that an engine waits on. -/
def EngWait.fid (w : EngWait) : Option Nat :=
  match w with
  | .fault f => some f
  | .nodeFault f => some f
  | _ => Option.none

/-- The flags of what the visible PROG of the word at sequence `n` covers (R225). -/
def Ring.flagsOf (g : Ring) (n : BitVec 32) : BitVec 6 := ((g.cflags.find? (fun e => decide (e.1 = n))).map Prod.snd).getD 0

/-- Those flags for every retained word once PROG of the word at `n` shows. -/
def Ring.markedFlags (g : Ring) (n : BitVec 32) (fl : BitVec 6) : List (BitVec 32 × BitVec 6) :=
  (n, fl) :: g.cflags.filter (fun e => decide (e.1 ≠ n ∧ seqDist g.rkeep e.1 < g.held))

/-! ## Words of a C ring in progress together (R371) -/

/-- The word at `next` as a job. -/
def Ring.job (g : Ring) : CopyJob :=
  { seq := g.next, wait := g.wait, begun := g.begun, chosen := g.chosen, spans := g.spans }

/-- A job is the word that moves. -/
def Ring.load (g : Ring) (j : CopyJob) : Ring :=
  { g with next := j.seq, wait := j.wait, begun := j.begun, chosen := j.chosen, spans := j.spans }

/-- The words of the ring that are in progress or next to start. -/
def Ring.allJobs (g : Ring) : List CopyJob := g.job :: g.jobs

/-- The word that has not begun: the newest of them, if it has not. -/
def Ring.newJob (g : Ring) : Option CopyJob := g.allJobs.find? (fun j => !j.begun)

/-- Whether some word of the ring stands in this wait. -/
def Ring.inWait (g : Ring) (w : EngWait) : Bool := g.allJobs.any (fun j => decide (j.wait = w))

/-- Change the words of a ring. -/
def Ring.onJobs (g : Ring) (f : CopyJob → CopyJob) : Ring := { g.load (f g.job) with jobs := g.jobs.map f }

/-- The sequence of the word that is queued for its await. -/
def Ring.awaitSeq (g : Ring) : BitVec 32 := ((g.allJobs.find? (fun j => decide (j.wait = .await))).map CopyJob.seq).getD g.next

/-- That word's await has been taken. -/
def Ring.awaited (g : Ring) : Ring := g.onJobs (fun j => if j.wait = .await then { j with wait := .none } else j)

/-- Change the wait of the words of a ring that wait on fault `fid`. -/
def Ring.onFault (g : Ring) (fid : Nat) (f : EngWait → EngWait) : Ring :=
  g.onJobs (fun j => if j.wait.fid = some fid then { j with wait := f j.wait } else j)

/-- The word of sequence `n` is the one that moves. -/
def Ring.focus (g : Ring) (n : BitVec 32) : Ring :=
  match g.jobs.find? (fun j => decide (j.seq = n)) with
  | some j => { g.load j with jobs := g.jobs.filter (fun x => decide (x.seq ≠ n)) ++ [g.job] }
  | none => g

/-- The word at `next` is over: the engine goes on to the following sequence, or to another of the words in progress. -/
def Ring.moveOn (g : Ring) : Ring :=
  match g.jobs with
  | j :: js =>
    if g.jobs.all (fun x => decide (seqDist g.rhead x.seq < seqDist g.rhead g.next)) then g.load { seq := g.next + 1 }
    else { g.load j with jobs := js }
  | [] => g.load { seq := g.next + 1 }

/-- A wait in which a copy word that has begun stands while its ring goes on. -/
def EngWait.parks (w : EngWait) : Bool :=
  match w with
  | .pipe | .held | .fabric | .fault _ | .nodeFault _ => true
  | _ => false

/-- The turn of a C ring passes to another of its words: behind words that wait in mid-word the following one starts, up to
four in progress; they move in turn (R141, R371). While an exception is pending the ring stays with its word (R256). -/
def Ring.turnOver (g : Ring) : Ring :=
  let last := g.jobs.foldl (fun m j => if seqDist g.rhead m < seqDist g.rhead j.seq then j.seq else m) g.next
  if g.pendx then g
  else if g.newJob.isNone && g.wait.parks && decide (g.jobs.length < 3 ∧ last + 1 ≠ g.rtail) then
    { g.load { seq := last + 1 } with jobs := g.jobs ++ [g.job] }
  else match g.jobs with
    | [] => g
    | j :: js => { g.load j with jobs := js ++ [g.job] }

/-- No word that cannot be replayed is in progress or unconfirmed (R160). -/
def Ring.replayable (g : Ring) : Bool := !g.flight.any Flight.overlap && !(g.begun && g.overlap)

/-- No ring of the core holds a word that cannot be replayed. -/
def Core.replayable (k : Core) : Bool := (upto 6).all (fun r => (k.ring r).replayable)

/-- The retained sequences, oldest first (R140). -/
def Ring.retained (g : Ring) : List (BitVec 32) := (upto g.held).map (fun i => g.rkeep + BitVec.ofNat 32 i)

/-- The word in the slot of a sequence: 192 bits (Table 9-2). -/
def State.slotWord (s : State) (c r : Nat) (n : BitVec 32) : BitVec 192 :=
  BitVec.ofNat 192 (s.sval c (((s.core c).ring r).slotAddr n) 24)

/-- The progress mark of a sequence (Table 9-2): [61:0] PROG, [62] AWT, [63] DONE. -/
def State.mark (s : State) (c r : Nat) (n : BitVec 32) : Nat := s.sval c (((s.core c).ring r).slotAddr n + 24) 8

/-- Write the mark of a sequence. -/
def State.setMark (s : State) (c r : Nat) (n : BitVec 32) (prog : Nat) (awt done : Bool) : State :=
  s.swrite c (((s.core c).ring r).slotAddr n + 24)
    (toBytes 8 (prog % 2 ^ 62 + (if awt then 2 ^ 62 else 0) + (if done then 2 ^ 63 else 0)))

/-- PROG, AWT and DONE of a mark. -/
def markProg (m : Nat) : Nat := m % 2 ^ 62
def markAwt (m : Nat) : Bool := nbit m 62
def markDone (m : Nat) : Bool := nbit m 63

/-- The retained words of a ring with their sequences. -/
def State.retainedWords (s : State) (c r : Nat) : List (BitVec 32 × BitVec 192) :=
  ((s.core c).ring r).retained.map (fun n => (n, s.slotWord c r n))

/-- Whether some retained word of ring `r` satisfies `p`. -/
def State.anyRetained (s : State) (c r : Nat) (p : BitVec 192 → Bool) : Bool :=
  (s.retainedWords c r).any (fun w => p w.2)

/-! ## Loop-nest slots (R152, R282) -/

/-- The active copy of an LNT slot: engine 0 V or 1 M. -/
def Core.lnt (k : Core) (eng slot : Nat) : BitVec 2176 := sget 0 k.lntActive (16 * eng + slot)

/-- The shadow copy of an LNT slot. -/
def Core.lntNext (k : Core) (eng slot : Nat) : BitVec 2176 := sget 0 k.lntShadow (16 * eng + slot)

/-- `n` bytes of an image from byte `b`, as a number. -/
def imgField (img : BitVec 2176) (b n : Nat) : Nat := field img (8 * b) (8 * n)

/-- Slot 0: one iteration with zero strides (R152). -/
def lntZero : BitVec 2176 :=
  (upto 6).foldl (fun v l => v ||| BitVec.ofNat 2176 (2 ^ (8 * (32 + 40 * l)))) 0

/-- The image that a word of engine `eng` reads. -/
def Core.lntImage (k : Core) (eng slot : Nat) : BitVec 2176 := if slot = 0 then lntZero else k.lnt eng slot

/-- The first 8 bytes of level `l`. -/
def levelWord (img : BitVec 2176) (l : Nat) : Nat := imgField img (32 + 40 * l) 8

/-- COUNT of level `l`. -/
def levelCount (img : BitVec 2176) (l : Nat) : Nat := nbits (levelWord img l) 0 32

/-- VL of level 5. -/
def vlOf (img : BitVec 2176) : Nat := nbits (levelWord img 5) 52 10

/-- CMTINT of level `l`. -/
def cmtInt (img : BitVec 2176) (l : Nat) : Nat := nbits (levelWord img l) 36 16

/-- BASEk. -/
def lntBase (img : BitVec 2176) (k : Nat) : Int := sint 32 (imgField img (4 * k) 4)

/-- STRIDEk of level `l`. -/
def lntStride (img : BitVec 2176) (l k : Nat) : Int := sint 32 (imgField img (40 + 40 * l + 4 * k) 4)

/-- The level flagged FMTSEL. -/
def fmtSel (img : BitVec 2176) : Option Nat := (upto 6).find? (fun l => nbit (levelWord img l) 34)

/-- Iterations of the nest. -/
def nestSize (img : BitVec 2176) : Nat := (upto 6).foldl (fun n l => n * levelCount img l) 1

/-- The counters of iteration `n` in row-major order, level 0 first. -/
def countersOf (img : BitVec 2176) (n : Nat) : List Nat :=
  ((upto 6).reverse.foldl (fun (acc : List Nat × Nat) l =>
    (acc.2 % levelCount img l :: acc.1, acc.2 / levelCount img l)) ([], n)).1

/-- BASEk + Σ counter × STRIDEk. -/
def streamOff (img : BitVec 2176) (cs : List Nat) (k : Nat) : Int :=
  (upto 6).foldl (fun a l => a + (cs.getD l 0 : Nat) * lntStride img l k) (lntBase img k)

/-- A slot that R282 refuses for a word of engine `eng`; VL against the lane count is checked apart. -/
def lntBad (eng : Nat) (img : BitVec 2176) : Bool :=
  (upto 6).any (fun l =>
    let w := levelWord img l
    decide (nbits w 32 2 ≠ 0) || nbit w 35 || decide (nbits w 62 2 ≠ 0)
      || (decide (eng = 0) && decide (nbits w 36 16 ≠ 0))
      || (decide (eng = 1 ∨ l ≠ 5) && decide (nbits w 52 10 ≠ 0)))
    || decide (1 < ((upto 6).filter (fun l => nbit (levelWord img l) 34)).length)

/-! ## Progress marks of the vector engine (R141, R154) -/

/-- Cycles from the execution of a vector or matrix step to its confirmation, and to the visibility of its mark (R141). -/
def confirmCycles : Nat := 2100

/-- A mark of ring `r` becomes visible: PROG is written, and RESETS of the word at RHEAD returns to 0 (R154, R162). -/
def State.showMark (s : State) (c r : Nat) (y : YoungMark) : State :=
  let m := s.mark c r y.seq
  (s.setMark c r y.seq y.prog (markAwt m) (markDone m)).onRing c r (fun g => { g with
    cflags := g.markedFlags y.seq y.flags, resets := if y.seq = g.rhead ∧ markProg m ≠ y.prog then 0 else g.resets })

/-- The marks of ring `r` that are 2,100 cycles old become visible (R141). -/
def State.ageMarks (s : State) (c r : Nat) : State :=
  let g := (s.core c).ring r
  let old (y : YoungMark) : Bool := decide (y.since + confirmCycles ≤ s.cycle)
  if g.young.any old then
    ((g.young.filter old).foldl (fun s y => s.showMark c r y) s).onRing c r (fun g => { g with
      young := g.young.filter (fun y => !old y) })
  else s

/-! ## Commits (R157) -/

/-- Sequence `n` lies before RCMT (R158). -/
def Ring.belowRcmt (g : Ring) (n : BitVec 32) : Bool := decide (n ≠ g.rcmt ∧ seqDist n g.rcmt < 2 ^ 31)

/-- Whether a bank belongs to an enabled pair (R156). -/
def Core.paired (k : Core) (b : Nat) : Bool := if b < 2 then k.pair01 else k.pair23

/-- The entries of one bank. -/
def bankOf (acc : Sparse (BitVec 32)) (b : Nat) : Sparse (BitVec 32) :=
  acc.filter (fun e => decide (e.1 / 65536 = b))

/-- Bank `dst` takes the contents of the bank below it. -/
def Core.copyBank (k : Core) (dst : Nat) : Core :=
  { k with
    acc := k.acc.filter (fun e => decide (e.1 / 65536 < dst))
      ++ (bankOf k.acc (dst - 1)).map (fun e => (e.1 + 65536, e.2))
      ++ k.acc.filter (fun e => decide (dst < e.1 / 65536))
    accZero := if bmem k.accZero (dst - 1) then bset k.accZero dst else bclr k.accZero dst
    accLost := if bmem k.accLost (dst - 1) then bset k.accLost dst else bclr k.accLost dst
    accFrom := sput k.accFrom dst (k.accTag (dst - 1)) }

/-- The snapshot banks of enabled pairs are written at a commit: acc1 := acc0 and acc3 := acc2 (R157 step 2). -/
def Core.copyPairs (k : Core) : Core :=
  let k := if k.pair01 then k.copyBank 1 else k
  if k.pair23 then k.copyBank 3 else k

/-- A commit that sets RCMT to `n` (R157 steps 2 and 4). -/
def Core.commit (k : Core) (n : BitVec 32) : Core :=
  let k := k.copyPairs
  let k := k.setRing 1 { k.ring 1 with rcmt := n, atCommit := true }
  { k with uncommitted := false }

/-- RKEEP of the M ring after its terms (R157): RHEAD, lowered to RCMT while uncommitted and to MZSEQ of each unsettled
bank; it never decreases. -/
def Core.keepM (k : Core) : Core :=
  let g := k.ring 1
  let terms := (if k.uncommitted then [g.rcmt] else []) ++ k.unsettled.map (fun b => sget 0 k.mzseq b)
  -- a term that lies below RKEEP keeps it where it is
  let above (x : BitVec 32) : Nat := if 2 ^ 31 ≤ seqDist g.rkeep x then 0 else seqDist g.rkeep x
  let least := (g.rhead :: terms).foldl (fun m x => min m (above x)) (above g.rhead)
  k.setRing 1 { g with rkeep := g.rkeep + BitVec.ofNat 32 least }

/-- The opcode of a matrix word is MMA, MMAS or MSPM. -/
def stepWord (w : BitVec 192) : Bool := decide (1 ≤ field w 184 8 ∧ field w 184 8 ≤ 3)

/-- PROG of a tile-step word that is wholly done: 1 in slot 0, else the nest's iterations (Table 9-6). -/
def Core.fullProg (k : Core) (w : BitVec 192) : Nat := nestSize (k.lntImage 1 (field w 139 4))

/-- The tile-step words below `n` have their PROG written by the commit that covers them (Tables 9-6, 20-3). -/
def State.commitMarks (s : State) (c : Nat) (n : BitVec 32) : State :=
  let g := (s.core c).ring 1
  (g.retained.take (seqDist g.rkeep n)).foldl (fun s q =>
    let w := s.slotWord c 1 q
    let m := s.mark c 1 q
    if stepWord w then s.setMark c 1 q ((s.core c).fullProg w) (markAwt m) (markDone m) else s) s

/-- A commit at the end of a word: RCMT is the sequence after it (R157). -/
def State.commitAt (s : State) (c : Nat) (n : BitVec 32) : State :=
  (s.onCore c (fun k => k.commit n)).commitMarks c n

/-- A demand on RKEEP of core `c` while every retained word is confirmed: the engine commits and every unprotected bank
settles, so the ring becomes empty (R157). -/
def State.demandKeep (s : State) (c : Nat) : State :=
  let k := s.core c
  let g := k.ring 1
  if g.rhead = g.rtail && g.flight.isEmpty && !g.empty then
    let s := if k.uncommitted then s.commitAt c g.rhead else s
    s.onCore c (fun k => Core.keepM { k with unsettled := [] })
  else s

/-- The demand on RKEEP of something that waits on a retained word (R157). -/
def State.demandIf (s : State) (c : Nat) (waits : Bool) : State := if waits then s.demandKeep c else s

/-- Every ring of the core is empty. -/
def Core.ringsEmpty (k : Core) : Bool := (upto 6).all (fun r => (k.ring r).empty)

/-! ## What a strand may name (R111, R143) -/

/-- The live window whose semaphore has this key (R111). -/
def State.windowSem (s : State) (k : Nat) : Option Window :=
  (s.windows.find? (fun w => decide (semKey w.2.home w.2.sem = k))).map Prod.snd

/-- Whether the strand of core `c` may name semaphore `k` (R111, R143). -/
def State.semAllowed (s : State) (c k : Nat) : Bool :=
  let f := (s.core c).fn
  match semOwner k with
  | some owner => (s.gangCores c).contains owner
  | none =>
    match s.windowSem k with
    | some w => w.participant f
    | none =>
      let r := sget (0, 0) (s.fn f).semRange (k / 65536)
      decide (r.1 ≤ k % 65536 ∧ k % 65536 < r.1 + r.2)

/-- A full semaphore ID: the key it names, or 0x02 (R84, R111, R143, R316). -/
def State.semId (s : State) (c : Nat) (v : Word) : Chk Nat :=
  let id := field v 0 18
  match localDie (s.vdie c (id / 65536)) with
  | none => .error (.event 2 id)
  | some d => if s.semAllowed c (semKey d (id % 65536)) then .ok (semKey d (id % 65536)) else .error (.event 2 id)

/-- A planner-reserved slot 80 to 95 of some core (R147). -/
def plannerSlot (k : Nat) : Bool := (semOwner k).isSome && decide (80 ≤ k % 65536 % 96)

/-! ## Engine words as fields -/

/-- AWAIT and RAISE of a word in ring `r` (Tables 15-8 to 15-10). -/
def awaitOf (r : Nat) (w : BitVec 192) : BitVec 10 :=
  if r = 0 then w.extractLsb' 66 10 else if r = 1 then w.extractLsb' 158 10 else w.extractLsb' 76 10

def raiseOf (r : Nat) (w : BitVec 192) : BitVec 10 :=
  if r = 0 then w.extractLsb' 56 10 else if r = 1 then w.extractLsb' 148 10 else w.extractLsb' 66 10

/-- Slot and count of an AWAIT or RAISE field (R144). -/
def semSlot (f : BitVec 10) : Nat := field f 3 7
def semCount (f : BitVec 10) : Nat := field f 0 3

/-- Whether a word names a slot in AWAIT or RAISE (R145). -/
def namesSlot (r slot : Nat) (w : BitVec 192) : Bool :=
  decide (semSlot (awaitOf r w) = slot) || decide (semSlot (raiseOf r w) = slot)

/-- Whether a vector word uses mode SR: a VCVT or VQNT whose MOD is 4, or a VDRN with a CVT step in mode 4
(Tables 19-2, 19-6, R219). -/
def usesSr (k : Core) (w : BitVec 192) : Bool :=
  let vop := (w.extractLsb' 89 7).toNat
  if vop = 0x18 ∨ vop = 0x19 then decide (w.extractLsb' 86 3 = 4#3)
  else if vop = 0x21 then
    let img := k.lnt 0 (w.extractLsb' 76 4).toNat
    (upto 4).any (fun i => decide (imgField img (52 + 40 * i) 1 = 0x0F ∧ imgField img (55 + 40 * i) 1 = 4))
  else false

/-! ## Delivery of engine status exceptions (R256) -/

/-- The planned word with this ring and sequence (R248). -/
def Thunks.plannedWord (t : Thunks) (r : Nat) (n : BitVec 32) : Option PlannedWord :=
  t.words.find? (fun w => decide (w.ring = r ∧ w.seq = n))

/-- TRAPINFO of an engine word's exception (Table 13-3). -/
def engineInfo (node ring : Nat) (seq : BitVec 32) (xcode : Byte) : Nat :=
  node + ring * 2 ^ 8 + seq.toNat * 2 ^ 11 + xcode.toNat * 2 ^ 43

/-- The TRAPCAUSE that delivery carries: 0x04 or 0x05 for a failed translation, 0x14 for TSR invalid, else 0x0E
(R188, R252). -/
def engineCause (xcode : Byte) : Nat :=
  if xcode = 0x20 then 4 else if xcode = 0x21 then 5 else if xcode = 0 then 0x14 else 0x0E

/-- RHEAD of ring `r` passes a word that is DONE: the next sequence, RKEEP and the event latch follow (R141, R157). -/
def State.advanceHead (s : State) (c r : Nat) : State :=
  let s := s.onCore c (fun k =>
    let g := k.ring r
    let h := g.rhead + 1
    -- a replay on the M ring that has not come so far goes on (R158)
    let k := k.setRing r { g with rhead := h, next := if r = 1 ∨ seqDist h g.next ≤ 2 ^ 31 then g.next else h, resets := 0 }
    if r = 1 then k.keepM else k.setRing r { k.ring r with rkeep := h })
  s.latch c 1

/-- Deliver the exception pending on ring `r` at the strand of core `c`: the word is DONE without its raise, PENDX
clears, the ring continues, and the strand takes the event (R256, R248). -/
def State.deliver (s : State) (c r : Nat) : State :=
  let k := s.core c
  let g := k.ring r
  let planned := k.thunks.plannedWord r g.xseq
  let mark := s.mark c r g.xseq
  let s := s.setMark c r g.xseq (markProg mark) (markAwt mark) true
  let s := s.onRing c r (fun g => { (if g.stopped then g.moveOn else g) with
    pendx := false, flight := g.flight.filter (fun f => decide (f.seq ≠ g.xseq)) })
  let s := if g.xseq = g.rhead then s.advanceHead c r else s
  let s := s.onStrandOf c (fun t => { t with
    demandPc := planned.map PlannedWord.demandPc
    creatorPc := planned.map PlannedWord.creatorPc })
  s.trapOf c (engineCause g.xcode)
    (engineInfo ((planned.map PlannedWord.node).getD 0) r g.xseq g.xcode)

/-- The alias slot or own slot of the semaphore of the demand whose word is at sequence `n` of ring `r` (R248). -/
def Thunks.demandSlot (t : Thunks) (r : Nat) (n : BitVec 32) : Option Nat :=
  match t.plannedWord r n with
  | none => none
  | some w => (t.plans.find? (fun p => decide (p.id = w.plan))).bind Plan.slot

/-- The lowest ring with an exception pending whose word, or the demand that planned it, raises semaphore `k` (R256,
R248). -/
def State.pendingOn (s : State) (c k : Nat) : Option Nat :=
  (upto 6).find? (fun r =>
    let g := (s.core c).ring r
    let f := raiseOf r (s.slotWord c r g.xseq)
    g.pendx && ((decide (semCount f ≠ 0) && decide (s.slotSem c (semSlot f) = some k))
      || decide (((s.core c).thunks.demandSlot r g.xseq).bind (s.slotSem c) = some k)))

end Sys2Proof.Machine
end

