-- ==== Sys2Proof/Machine/Thunk.lean ====
section
/-! DEFINITION. The thunk table (R230, R231), the alias CAM (R245), the arena's persistent blocks (R243) and what a
node depends on (R244, R247). -/

namespace Sys2Proof.Machine

/-! ## Nodes (R230, R231) -/

/-- Node `i`. -/
def Thunks.node (t : Thunks) (i : Nat) : Node := sget {} t.nodes i

/-- Replace node `i`. -/
def Thunks.setNode (t : Thunks) (i : Nat) (n : Node) : Thunks := { t with nodes := sset {} t.nodes i n }

/-- Change node `i`. -/
def Thunks.onNode (t : Thunks) (i : Nat) (f : Node → Node) : Thunks := t.setNode i (f (t.node i))

/-- A node is live while KIND ≠ 0 (R231). -/
def Node.live (n : Node) : Bool := decide (n.kind ≠ .free)

/-- The live nodes. -/
def Thunks.liveNodes (t : Thunks) : List Nat := (upto 256).filter (fun i => (t.node i).live)

/-- The lowest free node (R328). -/
def Thunks.freeNode (t : Thunks) : Option Nat := (upto 256).find? (fun i => !(t.node i).live)

/-- The blocks of persistent arena space that a node holds: its MAT block and its latest FORCE block (R243, R342). -/
def Node.blocks (n : Node) : List Nat :=
  (match n.body with | .mat g => [g] | _ => []) ++ (match n.arena with | some g => [g] | none => [])

/-- Give back persistent blocks by their first granules. -/
def Thunks.freeBlocks (t : Thunks) (gs : List Nat) : Thunks :=
  { t with persist := t.persist.filter (fun b => !gs.contains b.1) }

/-- A leaf leaves the CAM; an entry goes with its last leaf (R245). -/
def Thunks.unleaf (t : Thunks) (i : Nat) : Thunks :=
  let cam := t.cam.map (fun e => { e with leaves := e.leaves.filter (fun x => decide (x ≠ i)) })
  { t with cam := cam.filter (fun e => !e.leaves.isEmpty) }

/-- Free every node of the list that has neither a name nor a use; each freed node's operands lose one USE and follow
(R231). `fuel` bounds the cascade: at most 256 nodes are freed and each lists at most three operands. -/
def Thunks.releaseList : Nat → List Nat → Thunks → Thunks
  | 0, _, t => t
  | _, [], t => t
  | fuel + 1, i :: rest, t =>
    let n := t.node i
    if n.live && decide (n.names = 0) && decide (n.uses = 0) then
      let t := ((t.setNode i {}).freeBlocks n.blocks).unleaf i
      let t := n.opnd.foldl (fun t o => t.onNode o (fun x => { x with uses := x.uses - 1 })) t
      Thunks.releaseList fuel (n.opnd ++ rest) t
    else Thunks.releaseList fuel rest t

/-- Free the nodes of a list, and what follows, under R231. -/
def Thunks.release (t : Thunks) (is : List Nat) : Thunks := Thunks.releaseList (is.length + 1024) is t

/-- Each node of the list loses one USE; then R231. -/
def Thunks.dropUses (t : Thunks) (is : List Nat) : Thunks :=
  (is.foldl (fun t o => t.onNode o (fun x => { x with uses := x.uses - 1 })) t).release is

/-- Each node of the list gains one USE. -/
def Thunks.addUses (t : Thunks) (is : List Nat) : Thunks :=
  is.foldl (fun t o => t.onNode o (fun x => { x with uses := x.uses + 1 })) t

/-- A node loses one name; then R231. -/
def Thunks.dropName (t : Thunks) (i : Nat) : Thunks :=
  (t.onNode i (fun x => { x with names := x.names - 1 })).release [i]

/-- Nodes of leaf kind. -/
def Node.isLeaf (n : Node) : Bool := decide (n.kind = .tld ∨ n.kind = .tlds)

/-- A root is a live node that is the operand of no live node (R231). -/
def Thunks.root (t : Thunks) (i : Nat) : Bool :=
  (t.node i).live && t.liveNodes.all (fun j => !(t.node j).opnd.contains i)

/-- Add to `acc` the live nodes that have an operand in it, `fuel` times. -/
def Thunks.closure (t : Thunks) : Nat → List Nat → List Nat
  | 0, acc => acc
  | fuel + 1, acc =>
    let more := t.liveNodes.filter (fun i => !acc.contains i && (t.node i).opnd.any acc.contains)
    if more.isEmpty then acc else t.closure fuel (acc ++ more)

/-- How long ago a node was created, in appends: the older, the greater (R230). -/
def Thunks.age (t : Thunks) (i : Nat) : Nat := (t.cseq - (t.node i).cseq).toNat

/-- Insert by age, oldest first. -/
def Thunks.insertOld (t : Thunks) (i : Nat) : List Nat → List Nat
  | [] => [i]
  | j :: l => if t.age j < t.age i then i :: j :: l else j :: t.insertOld i l

/-- Nodes in CSEQ order, oldest first. -/
def Thunks.byAge (t : Thunks) (l : List Nat) : List Nat := l.foldr t.insertOld []

/-- The nodes that R247 forces for these leaves: live, dependent on one of them, and named or a root. -/
def Thunks.dependents (t : Thunks) (leaves : List Nat) : List Nat :=
  t.byAge ((t.closure 256 leaves).filter (fun i =>
    (t.node i).live && decide ((t.node i).kind ≠ .mat) && (decide ((t.node i).names ≠ 0) || t.root i)))

/-- Whether forcing root `i` frees at least one node (R244): its operands lose their uses. -/
def Thunks.forcingFrees (t : Thunks) (i : Nat) : Bool :=
  let n := t.node i
  decide (((t.setNode i { n with kind := .mat, opnd := [] }).dropUses n.opnd).liveNodes.length < t.liveNodes.length)

/-- The root that R244 chooses: the oldest that is neither a leaf nor MAT and whose forcing frees a node. -/
def Thunks.victim (t : Thunks) : Option Nat :=
  (t.byAge (t.liveNodes.filter (fun i => t.root i && !(t.node i).isLeaf && decide ((t.node i).kind ≠ .mat) &&
    decide ((t.node i).kind ≠ .tfill)))).find? t.forcingFrees

/-! ## The alias CAM (R245) -/

/-- The hull of two intervals, as an entry covering the leaves of both. -/
def CamEntry.hull (a b : CamEntry) : CamEntry :=
  { a with lo := min a.lo b.lo, hi := max a.hi b.hi, leaves := a.leaves ++ b.leaves }

/-- The position in `l` whose hull with `e` is shortest, the lowest on a tie. -/
def nearest (e : CamEntry) (l : List CamEntry) : Option Nat :=
  let len (i : Nat) : Nat := match l[i]? with
    | some x => (x.hull e).hi - (x.hull e).lo
    | none => 0
  (upto l.length).foldl (fun best i =>
    if ((l[i]?).map CamEntry.scratch) ≠ some e.scratch then best
    else match best with
      | none => some i
      | some j => if len i < len j then some i else some j) none

/-- The two positions whose hull is shortest. -/
def closestPair (l : List CamEntry) : Option (Nat × Nat) :=
  let len (i j : Nat) : Nat := match l[i]?, l[j]? with
    | some x, some y => (x.hull y).hi - (x.hull y).lo
    | _, _ => 0
  ((upto l.length).flatMap (fun i => ((upto l.length).filter (fun j => decide (i < j))).map (fun j => (i, j)))).foldl
    (fun best p => match best with
      | none => some p
      | some q => if len p.1 p.2 < len q.1 q.2 then some p else some q) none

/-- A leaf's interval enters the CAM; a 65th entry merges (R245). -/
def camInsert (cam : List CamEntry) (e : CamEntry) : List CamEntry :=
  if cam.length < 64 then cam ++ [e]
  else match nearest e cam with
    | some i => cam.modify i (fun x => x.hull e)
    | none =>
      match closestPair cam with
      | none => cam ++ [e]
      | some (i, j) =>
        let y := cam.getD j e
        ((cam.modify i (fun x => x.hull y)).eraseIdx j) ++ [e]

/-- The entries of a space that a written interval [lo, hi) overlaps. -/
def Thunks.overlapped (t : Thunks) (scratch : Bool) (lo hi : Nat) : List CamEntry :=
  t.cam.filter (fun e => decide (e.scratch = scratch ∧ ((e.lo < hi ∧ lo < e.hi) ∨ (scratch = true ∧ e.lo + 0x200000 < hi))))

/-- The lowest byte address that a write of [lo, hi) shares with an overlapped entry (R247). -/
def sharedLow (es : List CamEntry) (lo hi : Nat) : Nat :=
  match es.map (fun e => if e.scratch && decide (e.lo + 0x200000 < hi) then e.lo else max lo e.lo) with
  | [] => lo
  | a :: l => l.foldl min a

/-! ## The arena (R243) -/

/-- Whether a plan in flight holds temporaries. -/
def Thunks.tempTop (t : Thunks) : Nat :=
  t.plans.foldl (fun m p => if p.temps then max m p.top else m) t.arenaFirst

/-- The lowest persistent granule, or the arena's end. -/
def Thunks.persistLow (t : Thunks) : Nat :=
  t.persist.foldl (fun m b => min m b.1) (t.arenaFirst + t.arenaCount)

/-- Whether [g, g + n) is free of persistent blocks. -/
def Thunks.gapAt (t : Thunks) (g n : Nat) : Bool :=
  t.persist.all (fun b => decide (g + n ≤ b.1 ∨ b.1 + b.2 ≤ g))

/-- Where a persistent block of `n` granules is placed: the highest granules where it fits, ending at the arena's end or
at the start of another block. -/
def Thunks.placePersist (t : Thunks) (n : Nat) : Option Nat :=
  let ends := (t.arenaFirst + t.arenaCount) :: t.persist.map Prod.fst
  let fits := ends.filter (fun e => decide (t.tempTop + n ≤ e) && t.gapAt (e - n) n)
  match fits with
  | [] => none
  | e :: l => some (l.foldl max e - n)

/-- TQRY selector 7: granules between the two ends of the arena (Table 18-7). -/
def Thunks.between (t : Thunks) : Nat := t.persistLow - t.tempTop

end Sys2Proof.Machine
end

