-- ==== Sys2Proof/Machine/Planner.lean ====
section
/-! DEFINITION. The demand planner, from a demanded box to the words of a plan: pulling boxes back (R232 to R235),
classes and chains (R236, R237), matmul tiles (R238, R399, R401), map nodes (R405), the edges of R239 and the join of
R240. A place is counted in nibbles, so that 4-bit elements have one. -/

namespace Sys2Proof.Machine

/-! ## Boxes (R232 to R235) -/

/-- A box: [lo, hi) for dimensions 0 to 3. -/
abbrev Box := List (Nat × Nat)

/-- EXT0 to EXT3. -/
def Node.extents (n : Node) : List Nat := (n.ext ++ [1, 1, 1, 1]).take 4

/-- The whole extent of a node as a box. -/
def Node.whole (n : Node) : Box := n.extents.map (fun e => (0, e))

/-- Whether some range is empty (R235). -/
def Box.none? (b : Box) : Bool := b.any (fun r => decide (r.2 ≤ r.1))

/-- The extents of a box. -/
def Box.sizes (b : Box) : List Nat := b.map (fun r => r.2 - r.1)

/-- The first index of a box. -/
def Box.first (b : Box) : List Int := b.map (fun r => (r.1 : Int))

/-- The smallest box that covers two (R234). -/
def Box.hull (a b : Box) : Box := a.zipWith (fun x y => (min x.1 y.1, max x.2 y.2)) b

/-- Ranges cut to [0, extent) (R234, R235). -/
def cutBox (b : List (Int × Int)) (ext : List Nat) : Box :=
  b.zipWith (fun r e => ((max r.1 0).toNat, (min r.2 e).toNat)) ext

/-- The sum of products of two lists. -/
def dot (a b : List Int) : Int := (a.zipWith (fun x y => x * y) b).foldl (fun s x => s + x) 0

/-- M[r][c] of a map (R232). -/
def mapAt (m : List Int) (r c : Nat) : Int := m.getD (5 * r + c) 0

/-- The interval hull of row `r` of a map over a box: least and greatest input index (Table 13-2). -/
def rowHull (m : List Int) (b : Box) (r : Nat) : Int × Int :=
  (upto 4).foldl (fun acc c =>
    let k := mapAt m r c
    let rg := b.getD c (0, 1)
    let lo := k * (rg.1 : Int)
    let hi := k * ((rg.2 : Int) - 1)
    (acc.1 + min lo hi, acc.2 + max lo hi)) (mapAt m r 4, mapAt m r 4)

/-- The box of a map's operand before it is cut; rows beyond the operand's rank take no part (R232, R234). -/
def mapHull (m : List Int) (rank : Nat) (b : Box) : List (Int × Int) :=
  (upto 4).map (fun r => if rank ≤ r then (0, 1) else ((rowHull m b r).1, (rowHull m b r).2 + 1))

/-- The map that a node holds. -/
def Node.map (n : Node) : List Int :=
  match n.body with
  | .map m => m
  | _ => []

/-- A box as integer ranges. -/
def Box.ints (b : Box) : List (Int × Int) := b.map (fun r => ((r.1 : Int), (r.2 : Int)))

/-- The unit box, which a scalar stands for (R335). -/
def unitBox : Box := [(0, 1), (0, 1), (0, 1), (0, 1)]

/-- A TFILL node: a scalar (R335). -/
def Node.scalar (n : Node) : Bool := decide (n.kind = .tfill)

/-- The boxes demanded of a node's operands (Table 13-2), cut to their extents. -/
def Thunks.pull (t : Thunks) (i : Nat) (b : Box) : List (Nat × Box) :=
  let n := t.node i
  let raw : List (Nat × List (Int × Int)) :=
    match n.kind with
    | .tew | .tun | .tcvt | .tsel => n.opnd.map (fun o => (o, b.ints))
    | .tmm | .tmms =>
      match n.opnd with
      | [p, q] =>
        let k : Int := ((t.node p).extents.getD 0 1 : Nat)
        let bi := b.ints
        [(p, [(0, k), bi.getD 1 (0, 1), (0, 1), (0, 1)]), (q, [bi.getD 0 (0, 1), (0, k), (0, 1), (0, 1)])]
      | _ => []
    | .tred =>
      let axis := n.sub % 4
      n.opnd.map (fun o => (o, b.ints.set axis (0, ((t.node o).extents.getD axis 1 : Nat))))
    | .tmap => n.opnd.map (fun o => (o, mapHull n.map (t.node o).rank b))
    | _ => []
  raw.map (fun p => (p.1, if (t.node p.1).scalar then unitBox else cutBox p.2 (t.node p.1).extents))

/-- Nodes in the order R236 visits them: operands first, each once. -/
def Thunks.visit (t : Thunks) : Nat → Nat → List Nat → List Nat
  | 0, _, out => out
  | fuel + 1, i, out =>
    if out.contains i then out
    else ((t.node i).opnd.foldl (fun o j => Thunks.visit t fuel j o) out) ++ [i]

/-- What a planner map holds for a key. -/
def lookupNat {α : Type} (l : List (Nat × α)) (i : Nat) : Option α := (l.find? (fun p => decide (p.1 = i))).map Prod.snd

/-- The box of every node that takes part, from the demanded node down: the hull over its consumers (R234). `order` has
every consumer before its operands. -/
def Thunks.boxes (t : Thunks) (order : List Nat) (d : Nat) (b : Box) : List (Nat × Box) :=
  order.foldl (fun acc i =>
    match lookupNat acc i with
    | none => acc
    | some bi => (t.pull i bi).foldl (fun acc p =>
        if p.2.none? then acc
        else match lookupNat acc p.1 with
          | none => acc ++ [p]
          | some old => acc.map (fun q => if q.1 = p.1 then (q.1, old.hull p.2) else q)) acc) [(d, b)]

/-! ## Places -/

/-- Where a node's elements lie: element (0, 0, 0, 0) at nibble `base` (of scratch or of the VA space), strides in
nibbles; the result it is, the ring that writes it, and whether it was staged (R239). -/
structure Loc where
  sp : Bool := true
  base : Int := 0
  str : List Int := [0, 0, 0, 0]
  fmt : BitVec 6 := 0
  sym : Option Nat := none
  ring : Nat := 0
  stage : Bool := false
  /-- it is awaited on its own ring too (R400) -/
  chain : Bool := false
  deriving DecidableEq, Repr

/-- The nibble of an element. -/
def Loc.at (l : Loc) (i : List Int) : Int := l.base + dot i l.str

/-- Nibbles per element of a format code. -/
def nibs (f : BitVec 6) : Nat :=
  match fmtOf f with
  | some x => x.bits / 4
  | none => 8

/-- Granules of a row of `n` elements (R404). -/
def rowGranules (f : BitVec 6) (n : Nat) : Nat := (n * nibs f + 63) / 64

/-- Granules of a block that holds a box (R404). -/
def blockGranules (f : BitVec 6) (sizes : List Nat) : Nat :=
  rowGranules f (sizes.getD 0 1) * sizes.getD 1 1 * sizes.getD 2 1 * sizes.getD 3 1

/-- The strides of a block in nibbles (R404). -/
def blockStrides (f : BitVec 6) (sizes : List Nat) : List Int :=
  let p : Int := (64 * rowGranules f (sizes.getD 0 1) : Nat)
  [(nibs f : Nat), p, p * (sizes.getD 1 1 : Nat), p * (sizes.getD 1 1 : Nat) * (sizes.getD 2 1 : Nat)]

/-- The block at granule `g` that holds a box of a node. -/
def blockLoc (f : BitVec 6) (b : Box) (g : Nat) : Loc :=
  let s := blockStrides f b.sizes
  { base := (64 * g : Nat) - dot b.first s, str := s, fmt := f }

/-- Where a leaf or a MAT node lies. -/
def Node.loc (n : Node) : Loc :=
  match n.body with
  | .leaf _ _ base str _ =>
    { sp := decide (n.kind = .tlds), base := (2 * base : Nat), fmt := n.fmt,
      str := ((nibs n.fmt : Nat) : Int) :: (str.drop 1).map (fun s => 2 * s) }
  | .mat g => blockLoc n.fmt n.whole g
  | _ => { fmt := n.fmt }

/-- Whether every row of a box begins on a granule of scratch. -/
def Loc.rows (l : Loc) (b : Box) : Bool :=
  l.sp && decide (l.at b.first % 64 = 0) &&
    (upto 3).all (fun d => decide (b.sizes.getD (d + 1) 1 ≤ 1) || decide (l.str.getD (d + 1) 0 % 64 = 0))

/-! ## Constants (R223, R335) -/

/-- The value of a TFILL node: round(BF16 constant, FMT, RNE). -/
def Node.constVal (n : Node) : Val :=
  match fmtOf n.fmt, n.body with
  | some f, .fill bits => f.val (roundRne f (Fmt.f32.val bits.toNat)).1
  | _, _ => .zero false

/-- The value of a TFILL node as FP32 bits, which hold it exactly. -/
def Node.valueBits (n : Node) : BitVec 32 := BitVec.ofNat 32 (roundRne .f32 n.constVal).1

/-- The FP32 bits of a TFILL node's constant. -/
def Node.constBits (n : Node) : BitVec 32 :=
  match n.body with
  | .fill bits => bits
  | _ => 0

/-- Whether a value selects x in a TSEL (Table 18-5). -/
def Val.truth : Val → Bool
  | .nan => false
  | .zero _ => false
  | _ => true

/-- Formats of the integer family (Table 12-1). -/
def intFmt (w : BitVec 6) : Bool := decide (w = 3 ∨ w = 4)

/-- The kind-11 immediate that a word of format `w` reads as this constant; none where 16 bits cannot carry it
(R223, R236). A condition is carried as 1 or 0. -/
def Node.immediate (n : Node) (w : BitVec 6) (cond : Bool) : Option (BitVec 16) :=
  if cond then
    if intFmt w then some (if n.constVal.truth then 1 else 0)
    else if n.constVal.truth then some 0x3F80
    else if w = 5 ∨ w = 6 then none
    else some 0
  else if intFmt w then
    let v := sint 32 (roundRne .i32 n.constVal).1
    if -32768 ≤ v ∧ v ≤ 32767 then some (BitVec.ofInt 16 v) else if w = 3 then some (if v < 0 then 0x8000 else 0x7FFF) else none
  else if w = 7 then some (BitVec.ofNat 16 (roundRne .e8s n.constVal).1)
  else some (BitVec.ofNat 16 (roundRne .bf16 n.constVal).1)

/-- Whether a format holds a TFILL's value as it is, so that a word of that format computes on the value itself (R337). -/
def Node.holds (n : Node) (w : BitVec 6) : Bool :=
  match fmtOf w with
  | some f => decide ((roundRne f n.constVal).2 = 0)
  | none => false

/-! ## The plan under construction -/

/-- What a planned word waits for (R239). -/
inductive PlanWait where
  /-- one staging or constant word: slot 80 -/
  | stage
  /-- a tile's last MCMT: slot 81 -/
  | tile
  /-- the result `sym` -/
  | val (sym : Nat)
  deriving DecidableEq, Repr

/-- What a planned word raises before the edges are known. -/
inductive PlanRaise where
  | none
  | slot (n : Nat)
  /-- it completes the result `sym` -/
  | val (sym : Nat)
  deriving DecidableEq, Repr

/-- A word of the plan. -/
structure PlanOp where
  ring : Nat
  node : Nat
  word : BitVec 192
  await : SemRef := .none
  raise : PlanRaise := .none
  lnt : Option (Nat × BitVec 2176) := Option.none
  deriving DecidableEq, Repr

/-- What the planner writes into the arena: bytes at a granule, or an I32 index array (R405) of the elements of `box`
through `map` into the operand at `loc`, with the pad or scalar element `pad` in the granule after it. -/
inductive PlanData where
  | bytes (granule : Nat) (bs : List Byte)
  | index (granule : Nat) (box : Box) (map : List Int) (rank : Nat) (ext : List Nat) (loc : Option Loc)
      (fmt : BitVec 6) (pad : Option Nat)
  deriving DecidableEq, Repr

/-- The planner's place within one plan. -/
structure PlanState where
  ops : List PlanOp := []
  data : List PlanData := []
  top : Nat := 0
  used : Bool := false
  lim : Nat := 0
  need : Nat := 0
  fail : Bool := false
  sym : Nat := 0
  vals : List (Nat × Loc) := []
  /-- blocks staged: the node, the box and the ring that reads -/
  staged : List ((Nat × Box × Nat) × Loc) := []
  /-- the granules of the scratch leaves that the plan reads -/
  leaves : List (Nat × Nat) := []
  /-- readers that await: result, ring -/
  waits : List (Nat × Nat) := []
  /-- results that some planned word reads -/
  reads : List Nat := []
  tiles : Nat := 0
  /-- the box of every node of the plan (R234) -/
  boxes : List (Nat × Box) := []
  /-- the demanded node is computed into a block and written out by a copy (R241) -/
  viaBlock : Bool := false
  deriving DecidableEq, Repr

/-- Planning. -/
abbrev Planning := StateM PlanState

/-- The first granule from `g` on, a multiple of `al`, at which `n` granules meet none of the granule ranges; each range passed
moves on by one. -/
def clearOf (al n : Nat) (l : List (Nat × Nat)) : Nat → Nat → Nat
  | 0, g => g
  | k + 1, g =>
    let g := (g + al - 1) / al * al
    match l.find? (fun r => decide (r.1 < g + n ∧ g < r.1 + r.2)) with
    | some r => clearOf al n l k (r.1 + r.2)
    | none => g

/-- A temporary block of `n` granules at a multiple of `al` (R243), clear of the scratch leaves that the plan reads, since no
planned word may write what it reads (R241). -/
def allocTemp (n al : Nat) : Planning Nat := do
  let p ← get
  let g := clearOf al n p.leaves (p.leaves.length + 1) p.top
  let top := g + n
  set { p with top := top, used := true, need := p.need + (top - p.top), fail := p.fail || decide (p.lim < top) }
  return g

/-- A new result. -/
def freshSym : Planning Nat := do
  let p ← get
  set { p with sym := p.sym + 1 }
  return p.sym

/-- A temporary block for a box, written by a word of `ring` (R404). -/
def allocBlock (f : BitVec 6) (b : Box) (ring : Nat) (stage : Bool) : Planning Loc := do
  let g ← allocTemp (blockGranules f b.sizes) 1
  let s ← freshSym
  return { blockLoc f b g with sym := some s, ring := ring, stage := stage }

/-- What a word of `ring` waits for before it reads a place (R239): the first reader on each ring awaits; a producer on
the reader's own ring needs none, unless it drains a chain (R400). -/
def readFrom (l : Loc) (ring : Nat) : Planning (List PlanWait) := do
  match l.sym with
  | none => return []
  | some s =>
    let p ← get
    let p := { p with reads := if p.reads.contains s then p.reads else s :: p.reads }
    if (l.ring = ring ∧ !l.chain) ∨ p.waits.contains (s, ring) then
      set p
      return []
    else
      set { p with waits := (s, ring) :: p.waits }
      return [if l.stage then .stage else .val s]

/-- The no-operation word of ring V or M (R239). -/
def nopWord (ring : Nat) : BitVec 192 :=
  if ring = 1 then mxform 0x06 {} else if ring = 0 then (vform 0x23 {}).setWidth 192
  else (cform 0x0D { ch := 3 }).setWidth 192

/-- The semaphore fields of a list of waits, slot 80 with its count. -/
def awaitsOf (ws : List PlanWait) : List SemRef :=
  let n := (ws.filter (fun w => decide (w = .stage))).length
  (if n = 0 then [] else [SemRef.slot 80 n]) ++ ws.filterMap (fun w =>
    match w with
    | .stage => Option.none
    | .tile => some (.slot 81 1)
    | .val s => some (.sym s 1))

/-- A word joins the plan; each wait but the last is taken by a no-operation before it (R239). -/
def emit (ring node : Nat) (word : BitVec 192) (ws : List PlanWait) (raise : PlanRaise)
    (lnt : Option (Nat × BitVec 2176)) : Planning Unit := do
  let p ← get
  if p.fail then return ()
  let aws := awaitsOf ws
  let nops := aws.dropLast.map (fun a => ({ ring := ring, node := node, word := nopWord ring, await := a } : PlanOp))
  let op : PlanOp := { ring := ring, node := node, word := word, await := aws.getLastD .none, raise := raise, lnt := lnt }
  set { p with ops := op :: (nops.reverse ++ p.ops) }

/-- The planner writes something into the arena. -/
def addData (d : PlanData) : Planning Unit := modify (fun p => { p with data := d :: p.data })

/-! ## LNT images (Table 15-14) -/

/-- A level: COUNT, VL, the strides of streams 0 to 7 in bytes, and a VDRN step in place of strides 3 to 7. -/
structure Level where
  count : Nat := 1
  vl : Nat := 0
  str : List Int := []
  step : List Byte := []
  deriving DecidableEq, Repr

/-- A signed 32-bit field. -/
def i32 (v : Int) : List Byte := toBytes 4 (low 32 v)

/-- The 40 bytes of a level. -/
def Level.bytes (l : Level) : List Byte :=
  toBytes 4 l.count ++ toBytes 4 (l.vl % 1024 * 2 ^ 20) ++
    (if l.step.isEmpty then (upto 8).flatMap (fun k => i32 (l.str.getD k 0))
     else (upto 3).flatMap (fun k => i32 (l.str.getD k 0)) ++ l.step)

/-- An image from its bases and its levels 0 to 5. -/
def lntImage (bases : List Int) (levels : List Level) : BitVec 2176 :=
  BitVec.ofNat 2176 (ofBytes ((upto 8).flatMap (fun k => i32 (bases.getD k 0)) ++
    (upto 6).flatMap (fun l => (levels.getD l {}).bytes)))

/-! ## Operand fields (R275) -/

/-- A scratch stream at a nibble place. -/
def opStream (nib : Int) : BitVec 18 := BitVec.ofNat 18 ((nib / 64).toNat % 65536)
/-- An accumulator row. -/
def opAcc (bank row : Nat) : BitVec 18 := BitVec.ofNat 18 (0x20000 + bank * 128 + row)
/-- An immediate. -/
def opImm (v : BitVec 16) : BitVec 18 := BitVec.ofNat 18 (0x30000 + v.toNat)

/-! ## Copies on ring C3 (R236, R238) -/

/-- A TSR image: source and destination byte addresses, formats, flags, the index array's address, and the dimensions
(extent, source stride, destination stride). -/
def tsrBytes (src dst : Int) (sf df : BitVec 6) (flags : Nat) (delta : Nat) (dims : List (Nat × Int × Int)) : List Byte :=
  toBytes 8 (low 57 src) ++ toBytes 8 (low 57 dst) ++ toBytes 4 0 ++ toBytes 1 sf.toNat ++ toBytes 1 df.toNat ++
    toBytes 1 dims.length ++ toBytes 1 0 ++ toBytes 4 flags ++ toBytes 4 0 ++ toBytes 4 delta ++ toBytes 28 0 ++
    (upto 16).flatMap (fun i => match dims[i]? with
      | some (e, s, d) => toBytes 4 e ++ toBytes 6 (low 48 s) ++ toBytes 6 (low 48 d)
      | none => toBytes 16 0)

/-- A stride in the units of a TSR: bytes, or elements of a 4-bit format (R280). -/
def tsrStride (f : BitVec 6) (nib : Int) : Int := if nibs f = 1 then nib else nib / 2

/-- The block of a copy's TSR, with a granule for an index array where an odd 4-bit element needs one. -/
def tsrBlock (odd : Bool) : Planning Nat := allocTemp (if odd then 11 else 10) 2

/-- A copy on C3 of a box from a place or constant to a place, its TSR at granule `g`. A 4-bit run that starts at an odd
nibble is reached through an index array of one entry, 1 (log 60). -/
def copyWord (node g : Nat) (src : Loc ⊕ BitVec 32) (dst : Loc) (b : Box) (raise : PlanRaise) : Planning Unit := do
  let ws ← match src with
    | .inl l => readFrom l 5
    | .inr _ => pure []
  let dodd := decide (dst.at b.first % 2 = 1)
  match src with
  | .inl l =>
    let sodd := decide (l.at b.first % 2 = 1)
    let odd := sodd || dodd
    let dims := (b.sizes.zip (l.str.zip dst.str)).map (fun p => (p.1, tsrStride l.fmt p.2.1, tsrStride dst.fmt p.2.2))
    let extra : List (Nat × Int × Int) := if odd then [(1, if sodd then 1 else 0, if dodd then 1 else 0)] else []
    if odd then addData (.bytes (g + 10) (toBytes 4 1))
    addData (.bytes g (tsrBytes (l.at b.first / 2) (dst.at b.first / 2) l.fmt dst.fmt (l.sp.toNat + 2 * dst.sp.toNat)
      (if odd then (g + 10) * 32 else 0) (dims ++ extra)))
    emit 5 node ((cform (if sodd then 0x03 else if dodd then 0x04 else 0x01)
      { ch := 3, tsrsp := true, tsra := BitVec.ofNat 51 (g / 2) }).setWidth 192) ws raise none
  | .inr bits =>
    let dims := (b.sizes.zip dst.str).map (fun p => (p.1, (0 : Int), tsrStride dst.fmt p.2))
    addData (.bytes g (tsrBytes (bits.toNat : Nat) (dst.at b.first / 2) 0 dst.fmt (2 * dst.sp.toNat) 0 dims))
    emit 5 node ((cform 0x05 { ch := 3, tsrsp := true, tsra := BitVec.ofNat 51 (g / 2) }).setWidth 192) ws raise none

/-- Whether a copy of this box starts at an odd nibble on either side. -/
def oddCopy (src dst : Loc) (b : Box) : Bool :=
  decide (src.at b.first % 2 = 1) || decide (dst.at b.first % 2 = 1)

/-- A box is copied into a temporary block whose rows begin on granules (R236). -/
def stageFresh (node : Nat) (l : Loc) (b : Box) (viaSlot80 : Bool) : Planning Loc := do
  let g ← tsrBlock (decide (l.at b.first % 2 = 1))
  let t ← allocBlock l.fmt b 5 viaSlot80
  copyWord node g (.inl l) t b (if viaSlot80 then .slot 80 else .val (t.sym.getD 0))
  return t

/-- A box of a node is staged for the words of a ring, once in a plan: the raise of slot 80 goes to one reader (R236, R239;
log 17). -/
def stageBox (node : Nat) (l : Loc) (b : Box) (ring : Nat) : Planning Loc := do
  let p ← get
  match p.staged.find? (fun e => decide (e.1 = (node, b, ring))) with
  | some e => return e.2
  | none =>
    let t ← stageFresh node l b (decide (ring < 2))
    modify (fun p => { p with staged := p.staged ++ [((node, b, ring), t)] })
    return t

/-- A constant that no immediate carries: one row of `lanes` elements by a CFILL on C3, read with zero strides (R236). -/
def constRow (node : Nat) (bits : BitVec 32) (f : BitVec 6) (lanes : Nat) : Planning Loc := do
  let key : Box := [(0, lanes), (0, f.toNat + 1), (0, 0), (0, 0)]
  let p ← get
  match p.staged.find? (fun e => decide (e.1 = (node, key, 0))) with
  | some e => return e.2
  | none =>
    let b : Box := [(0, lanes), (0, 1), (0, 1), (0, 1)]
    let g ← tsrBlock false
    let t ← allocBlock f b 5 true
    copyWord node g (.inr bits) t b (.slot 80)
    let t := { t with str := [0, 0, 0, 0] }
    modify (fun p => { p with staged := p.staged ++ [((node, key, 0), t)] })
    return t

/-! ## Who reads a node -/

/-- The planned readers of a node. -/
def readersIn (t : Thunks) (bs : List (Nat × Box)) (i : Nat) : List Nat :=
  (bs.filter (fun p => (t.pull p.1 p.2).any (fun q => decide (q.1 = i) && !q.2.none?))).map Prod.fst

/-- Matrix-product nodes. -/
def Node.product (n : Node) : Bool := decide (n.kind = .tmm ∨ n.kind = .tmms)

/-- Whether a TMAP node is folded into a matrix word's transposed flag (R236 class 2). -/
def foldedLeaf (t : Thunks) (i : Nat) : Option Nat :=
  let n := t.node i
  let o := n.opnd.headD 0
  let m := n.map
  let on := t.node o
  let unit (r : Nat) : Nat := if r = 0 then 1 else if r = 1 then 0 else r
  if decide (n.kind = .tmap) && on.isLeaf &&
      (upto on.rank).all (fun r => (upto 5).all (fun c => decide (mapAt m r c = if c = unit r then 1 else 0))) &&
      decide (2 ≤ on.rank) && decide (n.extents = [on.extents.getD 1 1, on.extents.getD 0 1, on.extents.getD 2 1, on.extents.getD 3 1])
  then some o else none

/-- A matrix word reads node `o` of the plan, itself or through a folded TMAP. -/
def matrixReads (t : Thunks) (bs : List (Nat × Box)) (o : Nat) : Bool :=
  bs.any (fun p => (t.node p.1).product && (t.node p.1).opnd.any (fun i => decide (i = o ∨ foldedLeaf t i = some o)))

/-- Only words that gather read node `o` of the plan: those of TMAP and TRED nodes (R236 class 1). -/
def onlyGathered (t : Thunks) (bs : List (Nat × Box)) (o : Nat) : Bool :=
  (readersIn t bs o).all (fun r => decide ((t.node r).kind = .tmap ∨ (t.node r).kind = .tred)) && !matrixReads t bs o

/-- The whole box that the plan demands of a node. -/
def planBox (o : Nat) (b : Box) : Planning Box := do return (lookupNat (← get).boxes o).getD b

/-- A TLDS leaf that is staged because its rows do not each begin on a granule (R236 class 1). -/
def crooked (t : Thunks) (o : Nat) (l : Loc) : Bool := decide ((t.node o).kind = .tlds) && !l.rows (t.node o).whole

/-! ## Operands of vector words -/

/-- The lanes of the widest of some formats (R346): 4,096 bits of elements of at least one byte. -/
def lanesOf (fs : List (BitVec 6)) : Nat := 512 / (fs.foldl (fun m f => max m (nibs f)) 2 / 2)

/-- A vector operand: an immediate or a place. -/
inductive VArg where
  | imm (v : BitVec 16)
  | loc (l : Loc)
  deriving DecidableEq, Repr

/-- Where a node lies: a leaf or MAT node as it stands, or the block that this plan wrote. -/
def valueOf (t : Thunks) (o : Nat) : Planning Loc := do
  let n := t.node o
  if n.isLeaf || decide (n.kind = .mat) then return n.loc
  else
    let p ← get
    return (lookupNat p.vals o).getD { fmt := n.fmt }

/-- What a vector word of format `w` reads for operand `o` over a box (R236): an immediate; a constant row; a place
whose rows begin on granules; or such a place staged. -/
def vectorArg (t : Thunks) (o : Nat) (w : BitVec 6) (b : Box) (lanes : Nat) : Planning VArg := do
  let n := t.node o
  if n.scalar then
    match n.immediate w false with
    | some v => return .imm v
    | none => return .loc (← constRow o n.valueBits w lanes)
  else
    let l0 ← valueOf t o
    let whole ← planBox o b
    -- a leaf is staged once, over its whole box; a box that starts within a row is staged apart (log 17)
    let l ← if (decide (n.kind = .tld) || crooked t o l0) then stageBox o l0 whole 0 else pure l0
    if l.rows b then return .loc l else return .loc (← stageBox o l b 0)

/-- Waits of a vector word for an operand. -/
def argWaits (a : VArg) : Planning (List PlanWait) :=
  match a with
  | .imm _ => return []
  | .loc l => readFrom l 0

/-- The operand field of an argument at an element. -/
def VArg.field (a : VArg) (i : List Int) : BitVec 18 :=
  match a with
  | .imm v => opImm v
  | .loc l => opStream (l.at i)

/-- Its byte stride along dimension `d`, and per vector of `lanes` elements. -/
def VArg.stride (a : VArg) (d : Nat) : Int :=
  match a with
  | .imm _ => 0
  | .loc l => l.str.getD d 0 / 2

def VArg.vector (a : VArg) (lanes : Nat) : Int :=
  match a with
  | .imm _ => 0
  | .loc l => l.str.getD 0 0 * (lanes : Nat) / 2

/-- How a row of `n` elements is cut: offset, vectors, VL (R404). VL 0 stands for a whole vector. -/
def pieces (n lanes : Nat) : List (Nat × Nat × Nat) :=
  if n < lanes then [(0, 1, n)]
  else (0, n / lanes, 0) :: (if n % lanes = 0 then [] else [(n / lanes * lanes, 1, n % lanes)])

/-- The words of an elementwise vector operation over a box, one iteration per vector (R404), under LNT slot 15 (R238).
`s3` is stream 3. Only the last word raises. -/
def vectorWords (node vop : Nat) (md : BitVec 3) (fmt : BitVec 6) (b : Box) (lanes : Nat) (dst : Loc)
    (a : VArg) (bArg : Option VArg) (bRaw : BitVec 18) (s3 : Option Loc) (raise : PlanRaise) : Planning Unit := do
  let w1 ← argWaits a
  let w2 ← match bArg with
    | some x => argWaits x
    | none => pure []
  let w3 ← match s3 with
    | some l => readFrom l 0
    | none => pure []
  let ps := pieces (b.sizes.getD 0 1) lanes
  let third (d : Nat) : Int := match s3 with
    | some l => l.str.getD d 0 / 2
    | none => 0
  let second (d : Nat) : Int := match bArg with
    | some x => x.stride d
    | none => 0
  for (off, cnt, vl) in ps do
    let i : List Int := b.first.modify 0 (fun x => x + (off : Nat))
    let lvl (d : Nat) : Level :=
      { count := b.sizes.getD d 1, str := [dst.str.getD d 0 / 2, a.stride d, second d, third d] }
    let inner : Level :=
      { count := cnt, vl := vl,
        str := [dst.str.getD 0 0 * (lanes : Nat) / 2, a.vector lanes, (bArg.map (fun x => x.vector lanes)).getD 0,
                match s3 with
                | some l => l.str.getD 0 0 * (lanes : Nat) / 2
                | none => 0] }
    let img := lntImage [0, 0, 0, match s3 with | some l => l.at i / 2 | none => 0] [{}, {}, lvl 3, lvl 2, lvl 1, inner]
    let v : VWord := { mod := md, fmt := fmt, lnt := 15, dst := opStream (dst.at i), a := a.field i,
                       b := match bArg with | some x => x.field i | none => bRaw }
    emit 0 node ((vform (BitVec.ofNat 7 vop) v).setWidth 192) (if off = 0 then w1 ++ w2 ++ w3 else [])
      (if off + (if vl = 0 then cnt * lanes else vl) = b.sizes.getD 0 1 then raise else .none) (some (15, img))

/-- What a word that completes a place raises. -/
def Loc.raises (l : Loc) : PlanRaise :=
  match l.sym with
  | some s => .val s
  | none => .slot 95

/-! ## Gathered nodes (R405, and R338) -/

/-- Whether some element of a box reads outside the operand's extents (R233). -/
def mapPads (m : List Int) (rank : Nat) (ext : List Nat) (b : Box) : Bool :=
  (upto rank).any (fun r => decide ((rowHull m b r).1 < 0 ∨ ((ext.getD r 1 : Nat) : Int) ≤ (rowHull m b r).2))

/-- One VGATH over a box: element i reads the operand element that the map gives, or the pad element (R405). The operand
lies at `src`; none for a scalar or an operand of which nothing is read. `padBits` is the pad or the scalar. -/
def gatherWords (node : Nat) (fmt : BitVec 6) (b : Box) (m : List Int) (rank : Nat) (ext : List Nat)
    (src : Option Loc) (padBits : Nat) (dst : Option Loc) : Planning Loc := do
  let pads := src.isNone || mapPads m rank ext b
  let n := blockGranules 4 b.sizes
  let g ← allocTemp (n + pads.toNat) 1
  addData (.index g b m rank ext src fmt (if pads then some padBits else none))
  let out ← match dst with
    | some l => pure l
    | none => allocBlock fmt b 0 false
  let ws ← match src with
    | some l => readFrom l 0
    | none => pure []
  let ix := blockStrides 4 b.sizes
  for (off, cnt, vl) in pieces (b.sizes.getD 0 1) 128 do
    let i : List Int := b.first.modify 0 (fun x => x + (off : Nat))
    let lvl (d : Nat) : Level :=
      { count := b.sizes.getD d 1, str := [out.str.getD d 0 / 2, 0, 0, ix.getD d 0 / 2] }
    let inner : Level := { count := cnt, vl := vl, str := [out.str.getD 0 0 * 64, 0, 0, 512] }
    let img := lntImage [0, 0, 0, ((32 * g + 4 * off : Nat) : Int)] [{}, {}, lvl 3, lvl 2, lvl 1, inner]
    emit 0 node ((vform 0x1D { fmt := fmt, lnt := 15, dst := opStream (out.at i) }).setWidth 192)
      (if off = 0 then ws else []) (if off + (if vl = 0 then cnt * 128 else vl) = b.sizes.getD 0 1 then out.raises else .none)
      (some (15, img))
  return out

/-- The operand of a gathered node in scratch: a leaf that R236 stages, or anything else where it lies (R405). -/
def gatherSource (t : Thunks) (o : Nat) (b : Option Box) : Planning (Option Loc) := do
  let n := t.node o
  if n.scalar then return none
  match b with
  | none => return none
  | some ob =>
    let l ← valueOf t o
    let whole ← planBox o ob
    if decide (n.kind = .tld) || (crooked t o l && !onlyGathered t (← get).boxes o) then return some (← stageBox o l whole 0)
    else return some l

/-- A TMAP node (R405). -/
def planMap (t : Thunks) (i : Nat) (b : Box) (ob : Option Box) (dst : Option Loc) : Planning Loc := do
  let n := t.node i
  let o := n.opnd.headD 0
  let src ← gatherSource t o ob
  let pad := if (t.node o).scalar then
      match fmtOf n.fmt with
      | some f => (roundRne f (t.node o).constVal).1
      | none => 0
    else 0
  gatherWords i n.fmt b n.map (t.node o).rank (t.node o).extents src pad dst

/-! ## Reductions (R338; the words are the model's own, log 61) -/

/-- The element that leaves a sum or a maximum unchanged. -/
def neutral (fmt : BitVec 6) (isMax : Bool) : Nat :=
  match fmtOf fmt with
  | none => 0
  | some f =>
    if isMax then (match infCode f true with
      | some c => (match f with | .b8 _ false _ => 0 | _ => c)
      | none => (match f with | .b8 _ false _ => 0 | _ => rangeEnd f true))
    else zeroCode f true

/-- A row of an affine map. -/
def mapRowOf (cs : List Int) : List Int := (upto 5).map (fun c => cs.getD c 0)

/-- A TRED node: the runs are gathered into rows of whole vectors, padded with the neutral element, each row is reduced
by one VRSUM or VRMAX into a granule, and the granules are gathered into the node's block. -/
def planRed (t : Thunks) (i : Nat) (b : Box) (ob : Option Box) (dst : Option Loc) : Planning Loc := do
  let n := t.node i
  let o := n.opnd.headD 0
  let axis := n.sub % 4
  let isMax := nbit n.sub 2
  let run := (t.node o).extents.getD axis 1
  let box := ob.getD unitBox
  let half := decide (n.fmt = 5 ∨ n.fmt = 6)
  let wide := half && !isMax && decide (lanesOf [n.fmt] < run)
  let fmt : BitVec 6 := if wide then 0 else n.fmt
  let lanes := lanesOf [fmt]
  let src ← if wide then do
      let a ← vectorArg t o n.fmt box (lanesOf [n.fmt, 0])
      let tmp ← allocBlock 0 box 0 false
      vectorWords i 0x18 0 0 box (lanesOf [n.fmt, 0]) tmp a none (opImm (n.fmt.setWidth 16)) none tmp.raises
      pure (some tmp)
    else gatherSource t o ob
  let padded := if run ≤ lanes then run else (run + lanes - 1) / lanes * lanes
  -- the arranged rows: index 0 is the axis, then the other dimensions in order
  let others := (upto 4).filter (fun d => decide (d ≠ axis))
  let abox : Box := (0, padded) :: others.map (fun d => b.getD d (0, 1))
  let amap : List Int := (upto 4).flatMap (fun r =>
    if r = axis then mapRowOf [1]
    else mapRowOf ((upto 4).map (fun c => if c ≠ 0 ∧ others.getD (c - 1) 4 = r then 1 else 0)))
  let rows ← gatherWords i fmt abox amap 4 (t.node o).extents src (neutral fmt isMax) none
  let gbox : Box := (0, 1) :: others.map (fun d => b.getD d (0, 1))
  let red ← allocBlock fmt gbox 0 false
  let ws ← readFrom rows 0
  let lvl (d : Nat) : Level :=
    { count := gbox.sizes.getD d 1, str := [red.str.getD d 0 / 2, rows.str.getD d 0 / 2] }
  let inner : Level :=
    { count := (padded + lanes - 1) / lanes, vl := if run ≤ lanes then run % lanes else 0,
      str := [0, ((nibs fmt * lanes / 2 : Nat) : Int)] }
  emit 0 i ((vform (if isMax then 0x1B else 0x1A)
    { fmt := fmt, lnt := 15, dst := opStream (red.at gbox.first), a := opStream (rows.at abox.first) }).setWidth 192)
    ws red.raises (some (15, lntImage [] [{}, {}, lvl 3, lvl 2, lvl 1, inner]))
  -- the granules in the node's own coordinates
  let back : Loc := { red with str := (upto 4).map (fun d =>
      if d = axis then 0 else red.str.getD (1 + (others.findIdx (fun x => decide (x = d)))) 0) }
  let ident : List Int := (upto 4).flatMap (fun r => mapRowOf ((upto 4).map (fun c => if c = r then 1 else 0)))
  if wide then
    let nb ← gatherWords i 0 b ident 4 n.extents (some back) 0 none
    let out ← match dst with
      | some l => pure l
      | none => allocBlock n.fmt b 0 false
    vectorWords i 0x18 0 n.fmt b (lanesOf [n.fmt, 0]) out (.loc nb) none (opImm 0) none out.raises
    return out
  else gatherWords i n.fmt b ident 4 n.extents (some back) 0 dst

/-! ## Elementwise nodes (R236 classes 4 and 5) -/

/-- The VOP of a TEW member. -/
def tewVop (sub : Nat) : Nat := [2, 3, 4, 6, 8, 7].getD sub 2

/-- The VOP of a TUN member. -/
def tunVop (sub : Nat) : Nat := [0x0B, 0x0C, 0x0D, 0x0E, 0x0F, 0x10, 0x0A, 0x09].getD sub 0x0B

/-- The I8 condition of a TSEL over a box (log 62): c ≠ 0 and c not NaN. -/
def planCond (t : Thunks) (i o : Nat) (b : Box) : Planning Loc := do
  let c := t.node o
  if c.scalar then constRow o (if c.constVal.truth then 0x3F800000 else 0) 3 512
  else
    let lanes := lanesOf [c.fmt]
    let a ← vectorArg t o c.fmt b lanes
    let cmp (pred : BitVec 3) (z : VArg) : Planning Loc := do
      let tmp ← allocBlock 3 b 0 false
      vectorWords i 0x11 pred c.fmt b lanes tmp a (some z) 0 none tmp.raises
      return tmp
    if c.fmt = 5 ∨ c.fmt = 6 then cmp 6 a
    else if intFmt c.fmt then cmp 1 (.imm 0)
    else
      let ne ← cmp 1 (.imm 0)
      let od ← cmp 6 a
      let both ← allocBlock 3 b 0 false
      vectorWords i 0x13 0 3 b (lanesOf [3]) both (.loc ne) (some (.loc od)) 0 none both.raises
      return both

/-- A TEW, TUN, TCVT or TSEL node computed by vector words into a block or its destination. -/
def planElem (t : Thunks) (i : Nat) (b : Box) (dst : Option Loc) : Planning Loc := do
  let n := t.node i
  let place : Planning Loc := match dst with
    | some l => pure l
    | none => allocBlock n.fmt b 0 false
  match n.kind, n.opnd with
  | .tew, [p, q] =>
    let apart (o : Nat) : Bool := (t.node o).scalar && !(t.node o).holds n.fmt
    if decide (n.sub < 4) && (apart p || apart q) then
      -- FP32 holds the constant, so the result is rounded to the node's format from it (R337; log 107)
      let lanes := lanesOf [0, n.fmt]
      let wide (o : Nat) : Planning VArg := do
        if (t.node o).scalar then vectorArg t o 0 b lanes
        else
          let a ← vectorArg t o n.fmt b lanes
          let tmp ← allocBlock 0 b 0 false
          vectorWords i 0x18 0 0 b lanes tmp a none (opImm (n.fmt.setWidth 16)) none tmp.raises
          return .loc tmp
      let x ← wide p
      let y ← wide q
      let sum ← allocBlock 0 b 0 false
      vectorWords i (tewVop n.sub) 0 0 b (lanesOf [0]) sum x (some y) 0 none sum.raises
      let out ← place
      vectorWords i 0x18 0 n.fmt b lanes out (.loc sum) none (opImm 0) none out.raises
      return out
    let lanes := lanesOf [n.fmt]
    let x ← vectorArg t p n.fmt b lanes
    let y ← vectorArg t q n.fmt b lanes
    let out ← place
    vectorWords i (tewVop n.sub) 0 n.fmt b lanes out x (some y) 0 none out.raises
    return out
  | .tun, [p] =>
    let lanes := lanesOf [n.fmt]
    let x ← vectorArg t p n.fmt b lanes
    let out ← place
    vectorWords i (tunVop n.sub) 0 n.fmt b lanes out x none 0 none out.raises
    return out
  | .tcvt, [p] =>
    let sf := (t.node p).fmt
    let lanes := lanesOf [n.fmt, sf]
    let x ← vectorArg t p sf b lanes
    let out ← place
    vectorWords i 0x18 (BitVec.ofNat 3 n.sub) n.fmt b lanes out x none (opImm (sf.setWidth 16)) none out.raises
    return out
  | .tsel, [c, p, q] =>
    let lanes := lanesOf [n.fmt]
    let cond ← planCond t i c b
    let x ← vectorArg t p n.fmt b lanes
    let y ← vectorArg t q n.fmt b lanes
    let out ← place
    vectorWords i 0x12 0 n.fmt b lanes out x (some y) 0 (some cond) out.raises
    return out
  | _, _ => place

/-! ## Chains (R237) -/

/-- A chain on a matmul node: its nodes in order, and the one tile its other operands name. -/
structure Chain where
  mm : Nat
  nodes : List Nat := []
  side : Option Nat := none
  deriving DecidableEq, Repr

/-- Node kinds that a chain may hold. -/
def Node.elementwise (n : Node) : Bool := decide (n.kind = .tew ∨ n.kind = .tun ∨ n.kind = .tcvt ∨ n.kind = .tsel)

/-- The other operands of a chain node with their positions. -/
def otherOperands (n : Node) (cur : Nat) : List (Nat × Nat) :=
  ((upto n.opnd.length).zip n.opnd).filter (fun p => decide (p.2 ≠ cur))

/-- Whether the operand at position `pos` of chain node `n` is carried as an immediate. -/
def carried (t : Thunks) (n : Node) (pos o : Nat) : Bool :=
  let cond := decide (n.kind = .tsel) && decide (pos = 0)
  (t.node o).scalar && ((t.node o).immediate n.fmt cond).isSome && (cond || (t.node o).holds n.fmt)

/-- The side tile after node `e` joins a chain on `cur`; none where it may not join. -/
def joinChain (t : Thunks) (cur e : Nat) (side : Option Nat) : Option (Option Nat) :=
  let n := t.node e
  let tiles := ((otherOperands n cur).filter (fun p => !carried t n p.1 p.2)).map Prod.snd
  let cond := decide (n.kind = .tsel) && (otherOperands n cur).any (fun p => decide (p.1 = 0) && (t.node p.2).scalar
    && !carried t n p.1 p.2)
  if !n.elementwise || decide (n.opnd.count cur ≠ 1) || cond then none
  else match tiles.eraseDups, side with
    | [], s => some s
    | [o], none => some (some o)
    | [o], some s => if o = s then some side else none
    | _, _ => none

/-- Extend a chain as far as R237 allows: up to 4 nodes, each the only reader of the one before it. -/
def growChain (t : Thunks) (readers : Nat → List Nat) (used : List Nat) : Nat → Nat → Chain → Chain
  | 0, _, c => c
  | fuel + 1, cur, c =>
    match readers cur with
    | [e] =>
      if used.contains e then c
      else match joinChain t cur e c.side with
        | none => c
        | some side => growChain t readers used fuel e { c with nodes := c.nodes ++ [e], side := side }
    | _ => c

/-- The side tile of a chain of nodes on `cur`. -/
def sideOf (t : Thunks) : Nat → List Nat → Option Nat → Option Nat
  | _, [], side => side
  | cur, e :: rest, side => sideOf t e rest ((joinChain t cur e side).getD side)

/-- A VDRN has no format I32 (Table 19-2), so a chain ends before its trailing I32 nodes. -/
def Chain.trim (t : Thunks) (c : Chain) : Chain :=
  let ns := (c.nodes.reverse.dropWhile (fun i => decide ((t.node i).fmt = 4))).reverse
  { c with nodes := ns, side := sideOf t c.mm ns none }

/-- The chains of a plan, the matmuls in the order visited. -/
def chainsOf (t : Thunks) (order : List Nat) (bs : List (Nat × Box)) : List Chain :=
  (order.filter (fun i => (t.node i).product && (lookupNat bs i).isSome)).foldl (fun cs i =>
    cs ++ [(growChain t (readersIn t bs) (cs.flatMap Chain.nodes) 4 i { mm := i }).trim t]) []

/-- The 20 bytes of a VDRN step (Table 19-6) for chain node `e` on `cur`. -/
def stepBytes (t : Thunks) (cur e : Nat) : List Byte :=
  let n := t.node e
  let others := otherOperands n cur
  let isImm (p : Nat × Nat) : Bool := carried t n p.1 p.2
  let imms := (others.filter isImm).map (fun p =>
    ((t.node p.2).immediate n.fmt (decide (n.kind = .tsel) && decide (p.1 = 0))).getD 0)
  let pos := n.opnd.findIdx (fun x => decide (x = cur))
  let op := match n.kind with
    | .tew => n.sub + 1
    | .tun => 7 + n.sub
    | .tcvt => 0x0F
    | _ => 0x10
  let role := match n.kind with
    | .tew => (others.any isImm).toNat + (if pos = 1 then 2 else 0)
    | .tsel => pos + (match others with
        | [p, q] => (if isImm p then 4 else 0) + (if isImm q then 8 else 0)
        | _ => 0)
    | _ => 0
  toBytes 1 op ++ toBytes 1 role ++ toBytes 1 n.fmt.toNat ++ toBytes 1 (if n.kind = .tcvt then n.sub else 0) ++
    toBytes 2 (imms.getD 0 0).toNat ++ toBytes 2 (imms.getD 1 0).toNat ++ toBytes 12 0

/-- The steps of a chain. -/
def chainSteps (t : Thunks) (c : Chain) : List (List Byte) :=
  ((c.mm :: c.nodes).zip c.nodes).map (fun p => stepBytes t p.1 p.2)

/-! ## Matrix products (R238, R399, R401) -/

/-- A matrix operand: its place, whether it is transposed, and its row stride in nibbles. -/
structure MatArg where
  loc : Loc
  trans : Bool
  deriving DecidableEq, Repr

/-- A signed 32-bit number. -/
def fits32 (v : Int) : Bool := decide (-(2 ^ 31 : Nat) ≤ v ∧ v < (2 ^ 31 : Nat))

/-- Whether the matrix engine can read a box of a place as an operand (R363, R401): its row stride fits the slot's field, so
does a step of 64 rows where the K steps go along the rows, a stride of zero is not needed over several rows, and the box
begins on a byte. -/
def matReadable (l : Loc) (b : Box) (dense : Int) (byRows : Bool) : Bool :=
  let r := l.str.getD 1 0
  fits32 (r / 2) && (!byRows || fits32 (32 * r)) && (decide (r ≠ 0) || decide (b.sizes.getD 1 1 ≤ 1) || decide (dense = 0))
    && decide (l.at b.first % 2 = 0)

/-- An operand of a matrix product over its box (R236 classes 1 and 2); `isA`: the first one. -/
def matArg (t : Thunks) (o : Nat) (b : Box) (dense : Int) (isA : Bool) : Planning MatArg := do
  let p := match foldedLeaf t o with
    | some x => (x, true)
    | none => (o, false)
  let l0 ← valueOf t p.1
  let b' : Box := if p.2 then [b.getD 1 (0, 1), b.getD 0 (0, 1), b.getD 2 (0, 1), b.getD 3 (0, 1)] else b
  let whole ← planBox p.1 b'
  let l ← if crooked t p.1 l0 then stageBox p.1 l0 whole 1 else pure l0
  if matReadable l b' dense (isA == p.2) then return { loc := l, trans := p.2 }
  else return { loc := ← stageBox p.1 l b' 1, trans := p.2 }

/-- Where the scales of a TMMS operand lie (R333): dimension 0 is the block for A and the column for B. -/
def scaleLoc (n : Node) : Loc :=
  match n.body with
  | .leaf _ _ _ _ (some (base, s)) =>
    { sp := decide (n.kind = .tlds), base := (2 * base : Nat), str := [2, 2 * s, 0, 0], fmt := 7 }
  | _ => { fmt := 7 }

/-- Whether the offsets of scales from their operand fit a slot's fields for every tile and group (Table 20-2). Each corner gives the
scale's and the operand's nibble. -/
def scaleReadable (sl : Loc) (rows : Nat) (corners : List (Int × Int)) : Bool :=
  let r := sl.str.getD 1 0
  fits32 r && (decide (r ≠ 0) || decide (rows ≤ 1)) && corners.all (fun p => fits32 (p.1 / 2 - p.2 / 2))

/-- A TMMS operand with its scales: where the slot's fields cannot reach the scales, both are staged into scratch
(log 63). `b` is the operand's box, `sb` the scales'. -/
def scaledArg (o : Nat) (a : MatArg) (sl : Loc) (b sb : Box) : Planning (MatArg × Loc) := do
  let corner (x y : Nat → Nat × Nat → Nat) : Int × Int :=
    (sl.at ((upto 2).map (fun d => ((x d (sb.getD d (0, 1)) : Nat) : Int))),
     a.loc.at ((upto 2).map (fun d => ((y d (b.getD d (0, 1)) : Nat) : Int))))
  let lo : Nat → Nat × Nat → Nat := fun _ r => r.1
  let hi : Nat → Nat × Nat → Nat := fun _ r => r.2
  let first (d : Nat) : Nat → Nat × Nat → Nat := fun e r => if e = d then r.2 else r.1
  if scaleReadable sl (sb.sizes.getD 1 1) [corner lo lo, corner hi hi, corner (first 0) (first 0), corner (first 1) (first 1)]
  then return (a, sl)
  else
    let t ← stageFresh o a.loc b true
    let u ← stageFresh o sl sb true
    return ({ a with loc := t }, u)

/-- A matrix product and its chain, drained to a block or its destination. -/
def planProduct (t : Thunks) (c : Chain) (b : Box) (dst : Option Loc) : Planning Loc := do
  let i := c.mm
  let n := t.node i
  let last := c.nodes.getLastD i
  let ln := t.node last
  let (pa, pb) := match n.opnd with
    | [p, q] => (p, q)
    | _ => (0, 0)
  let scaled := decide (n.kind = .tmms)
  let k := (t.node pa).extents.getD 0 1
  let (c0, c1) := b.getD 0 (0, 1)
  let (r0, r1) := b.getD 1 (0, 1)
  let za : Int := (nibs (t.node pa).fmt : Nat)
  let zb : Int := (nibs (t.node pb).fmt : Nat)
  let foldA := (foldedLeaf t pa).isSome
  let foldB := (foldedLeaf t pb).isSome
  let cols := c1 - c0
  let n0 := min 512 ((cols + 15) / 16 * 16)
  let a ← matArg t pa [(0, k), (r0, r1), (0, 1), (0, 1)] (if foldA then 128 * za else 64 * za) true
  let bm ← matArg t pb [(c0, c1), (0, k), (0, 1), (0, 1)] (if foldB then 64 * zb else (n0 : Nat) * zb) false
  let nb := (k + 31) / 32
  let boxA : Box := [(0, k), (r0, r1), (0, 1), (0, 1)]
  let boxB : Box := [(c0, c1), (0, k), (0, 1), (0, 1)]
  let (a, ascale) ←
    if scaled then scaledArg pa a (scaleLoc (t.node pa)) boxA [(0, nb), (r0, r1), (0, 1), (0, 1)] else pure (a, {})
  let (bm, bscale) ←
    if scaled then scaledArg pb bm (scaleLoc (t.node pb)) boxB [(c0, c1), (0, nb), (0, 1), (0, 1)] else pure (bm, {})
  let sas := ascale.str.getD 1 0 / 2
  let sbs := bscale.str.getD 1 0 / 2
  let firstA (r : Nat) : List Int := if a.trans then [(r : Nat), 0, 0, 0] else [0, (r : Nat), 0, 0]
  let firstB (j : Nat) : List Int := if bm.trans then [0, (j : Nat), 0, 0] else [(j : Nat), 0, 0, 0]
  let lanes := 128
  let sideTile : Planning (Option Loc) := match c.side with
    | some o =>
      if (t.node o).scalar then do
        let w : BitVec 6 := if (t.node o).fmt = 4 then 4 else 0
        return some (← constRow o (t.node o).valueBits w lanes)
      else do
        match ← vectorArg t o (t.node o).fmt b lanes with
        | .loc l => return some l
        | .imm _ => return none
    | none => return none
  let out ← match dst with
    | some l => pure l
    | none => do
      let l ← allocBlock ln.fmt b 0 false
      pure { l with chain := !c.nodes.isEmpty }
  if (← get).fail then return out
  let ra := a.loc.str.getD 1 0
  let rb := bm.loc.str.getD 1 0
  let sa := if a.trans then 64 * ra else 64 * za
  let sb := if bm.trans then 64 * zb else 64 * rb
  let base3 := if ra = (if a.trans then 128 * za else 64 * za) then 0 else ra / 2
  let base4 := if rb = (if bm.trans then 64 * zb else (n0 : Nat) * zb) then 0 else rb / 2
  let flags := a.trans.toNat + 2 * bm.trans.toNat + 4 * a.loc.sp.toNat + 8 * bm.loc.sp.toNat
  let steps := (k + 63) / 64
  let groups := (steps + 15) / 16
  let words := chainSteps t c
  for rt in (upto ((r1 - r0 + 127) / 128)).map (fun x => r0 + 128 * x) do
    for ct in (upto ((cols + n0 - 1) / n0)).map (fun x => c0 + n0 * x) do
      let p ← get
      let bank := 2 * (p.tiles % 2)
      set { p with tiles := p.tiles + 1 }
      let tr := min 128 (r1 - rt)
      let tc := min n0 (c1 - ct)
      let a0 := a.loc.at (firstA rt)
      let b0 := bm.loc.at (firstB ct)
      emit 1 i (mxform 0x04 { bank := BitVec.ofNat 2 bank }) [] .none none
      emit 1 i (mxform 0x05 {}) [] .none none
      for g in upto groups do
        let cnt := min 16 (steps - 16 * g)
        let isLast := decide (g + 1 = groups)
        let slot := if cnt = 16 then 12 else 13
        let ava := a0 + 16 * (g : Nat) * sa
        let bva := b0 + 16 * (g : Nat) * sb
        let b7 : Int := ((tr % 128 + tc % n0 * 256 : Nat) : Int)
        let s5 : Int := if scaled then ascale.at [32 * (g : Nat), (rt : Nat)] / 2 - ava / 2 else 0
        let s6 : Int := if scaled then bscale.at [(ct : Nat), 32 * (g : Nat)] / 2 - bva / 2 else 0
        let img := lntImage [0, 0, 0, base3, base4, s5, s6, b7]
          [{ str := [0, 0, 0, 0, 0, 0, 0, if scaled then sas else 0] },
           { str := [0, 0, 0, 0, 0, 0, 0, if scaled then sbs else 0] }, {}, {}, {},
           { count := cnt, str := [sa / 2, sb / 2, 0, 0, 0, if scaled then 2 else 0, if scaled then 2 * sbs else 0] }]
        let w1 ← readFrom a.loc 1
        let w2 ← readFrom bm.loc 1
        let w3 ← readFrom ascale 1
        let w4 ← readFrom bscale 1
        let mw : MWord :=
          { fmtA := (t.node pa).fmt, fmtB := (t.node pb).fmt, bank := BitVec.ofNat 2 bank,
            n16 := BitVec.ofNat 5 (n0 / 16), lnt := BitVec.ofNat 4 slot, scale := if scaled then 3 else 0,
            ava := BitVec.ofInt 57 (ava / 2), aux := BitVec.ofNat 7 (if isLast then k % 64 else 0),
            bva := BitVec.ofInt 57 (bva / 2), flags := BitVec.ofNat 14 flags }
        emit 1 i (mxform (if scaled then 0x02 else 0x01) mw) (w1 ++ w2 ++ w3 ++ w4) .none (some (slot, img))
        emit 1 i (mxform 0x05 {}) [] (if isLast then .slot 81 else .none) none
      -- the side tile comes after the matrix words, so that what they await of slot 80 is theirs
      let side ← sideTile
      let chain3 : Int := (n.fmt.toNat + (match side with | some l => l.fmt.toNat * 64 | none => 0) : Nat)
      let ws ← match side with
        | some l => readFrom l 0
        | none => pure []
      for (off, cnt, vl) in pieces tc lanes do
        let e : List Int := [((ct + off : Nat) : Int), (rt : Nat), 0, 0]
        let outer (l : Nat) : Level := { step := words.getD l (toBytes 20 0) }
        let l4 : Level := { count := tr, str := [out.str.getD 1 0 / 2, 2048, match side with | some l => l.str.getD 1 0 / 2 | none => 0] }
        let l5 : Level :=
          { count := cnt, vl := vl,
            str := [out.str.getD 0 0 * 64, 512, match side with | some l => l.str.getD 0 0 * 64 | none => 0] }
        let img := lntImage [0, ((4 * off : Nat) : Int), 0, chain3] [outer 0, outer 1, outer 2, outer 3, l4, l5]
        emit 0 last ((vform 0x21 { fmt := ln.fmt, lnt := if off = 0 then 14 else 15, dst := opStream (out.at e),
                                   a := opAcc bank 0,
                                   b := match side with | some l => opStream (l.at e) | none => 0 }).setWidth 192)
          (if off = 0 then ws ++ [.tile] else []) (if off + (if vl = 0 then cnt * lanes else vl) = tc then out.raises else .none)
          (some (if off = 0 then 14 else 15, img))
  return out

/-! ## The whole plan (R236, R238, R240) -/

/-- Where a demand goes: a persistent block, or a place in the VA space or scratch (R342). -/
structure Dest where
  loc : Loc
  /-- a persistent arena block -/
  arena : Bool
  deriving DecidableEq, Repr

/-- Whether a node's words are written when it is visited: not a leaf, a constant or a MAT node, not inside a chain, and
not a TMAP whose every reader folds it (R236). -/
def planned (t : Thunks) (bs : List (Nat × Box)) (cs : List Chain) (i : Nat) : Bool :=
  let n := t.node i
  let inner := cs.any (fun c => (c.mm :: c.nodes.dropLast).contains i && !c.nodes.isEmpty)
  let folded := (foldedLeaf t i).isSome && (readersIn t bs i).all (fun r => (t.node r).product)
  (lookupNat bs i).isSome && !n.isLeaf && !n.scalar && decide (n.kind ≠ .mat) && !inner && !folded

/-- Write the words of a node into a block or its destination. -/
def planNode (t : Thunks) (bs : List (Nat × Box)) (cs : List Chain) (i : Nat) (b : Box) (dst : Option Loc) :
    Planning Loc :=
  let n := t.node i
  match cs.find? (fun c => decide (c.nodes.getLastD c.mm = i)) with
  | some c => planProduct t c b dst
  | none =>
    match n.kind with
    | .tmap => planMap t i b (lookupNat bs (n.opnd.headD 0)) dst
    | .tred => planRed t i b (lookupNat bs (n.opnd.headD 0)) dst
    | _ => planElem t i b dst

/-- The bytes from the lowest to the last of a box at a place: [lo, hi). -/
def Loc.bytes (l : Loc) (b : Box) : Int × Int :=
  let ends := (b.zip l.str).foldl (fun acc p =>
    let v := ((p.1.2 - 1 : Nat) : Int) * p.2
    let u := (p.1.1 : Int) * p.2
    (acc.1 + min u v, acc.2 + max u v)) (l.base, l.base)
  (ends.1 / 2, (ends.2 + (nibs l.fmt : Nat) + 1) / 2)

/-- Whether two byte intervals meet. -/
def meets (a b : Int × Int) : Bool := decide (a.1 < b.2 ∧ b.1 < a.2)

/-- Whether a scratch destination shares a byte with a scratch leaf or a MAT block that the plan reads (R241). -/
def overlapsSource (t : Thunks) (bs : List (Nat × Box)) (l : Loc) (b : Box) : Bool :=
  bs.any (fun p =>
    let n := t.node p.1
    match n.body with
    | .leaf lo hi _ _ _ => decide (n.kind = .tlds) && meets (l.bytes b) ((lo : Int), (hi : Int))
    | .mat g => meets (l.bytes b) (((32 * g : Nat) : Int), ((32 * (g + blockGranules n.fmt n.extents) : Nat) : Int))
    | _ => false)

/-- The demanded node to its destination (R236 class 4, R238, R342). -/
def planDemanded (t : Thunks) (bs : List (Nat × Box)) (cs : List Chain) (d : Nat) (b : Box) (dest : Dest) :
    Planning Unit := do
  let n := t.node d
  if n.scalar then
    let g ← tsrBlock false
    copyWord d g (.inr n.constBits) dest.loc b (.slot 95)
  else if n.isLeaf || decide (n.kind = .mat) then
    let l := n.loc
    if decide (l.at b.first % 2 = 1) && decide (dest.loc.at b.first % 2 = 1) then
      let t' ← stageBox d l b 5
      let g ← tsrBlock true
      copyWord d g (.inl t') dest.loc b (.slot 95)
    else
      let g ← tsrBlock (oddCopy l dest.loc b)
      copyWord d g (.inl l) dest.loc b (.slot 95)
  else if dest.loc.rows b && (dest.arena || !((← get).viaBlock || overlapsSource t bs dest.loc b)) then
    let _ ← planNode t bs cs d b (some dest.loc)
  else
    let blk ← planNode t bs cs d b none
    let g ← tsrBlock (oddCopy blk dest.loc b)
    copyWord d g (.inl blk) dest.loc b (.slot 95)

/-- Every word of a demand but its joins. -/
def planAll (t : Thunks) (d : Nat) (b : Box) (dest : Dest) : Planning (List Nat) := do
  let order := t.visit 257 d []
  let bs := t.boxes order.reverse d b
  let cs := chainsOf t order bs
  modify (fun p => { p with boxes := bs })
  for i in order do
    match lookupNat bs i with
    | none => pure ()
    | some bi =>
      if i = d then planDemanded t bs cs d b dest
      else if planned t bs cs i then
        let l ← planNode t bs cs i bi none
        modify (fun p => { p with vals := p.vals ++ [(i, l)] })
      else pure ()
  return bs.map Prod.fst

/-- The granules of the scratch leaves that a demand of node `d` may read: the first and the count. -/
def Thunks.scratchLeaves (t : Thunks) (d : Nat) : List (Nat × Nat) :=
  (t.visit 257 d []).filterMap (fun i =>
    match (t.node i).kind, (t.node i).body with
    | .tlds, .leaf lo hi _ _ _ => some (lo / 32, (hi + 31) / 32 - lo / 32)
    | _, _ => none)

/-- A finished plan. -/
structure Planned where
  words : List QueuedWord := []
  data : List PlanData := []
  nodes : List Nat := []
  top : Nat := 0
  used : Bool := false
  need : Nat := 0
  fail : Bool := false
  syms : Nat := 0
  deriving DecidableEq, Repr

/-- The RAISE of each word (R239, R240): a result is raised by the word that completes it, by the number of rings that
await it; a word whose writes no planned word reads raises slot 95. `later` says whether a later word completes the same
result. -/
def resolveRaise (p : PlanState) (r : PlanRaise) (later : Bool) : SemRef :=
  match r with
  | .none => .none
  | .slot n => .slot n 1
  | .val s =>
    if p.reads.contains s then
      let n := (p.waits.filter (fun w => decide (w.1 = s))).length
      if later || decide (n = 0) then .none else .sym s n
    else .slot 95 1

/-- The words with their edges, oldest first. -/
def resolveAll (p : PlanState) : List PlanOp → List QueuedWord
  | [] => []
  | op :: rest =>
    let r := resolveRaise p op.raise (rest.any (fun o => decide (o.raise = op.raise)))
    { ring := op.ring, word := op.word, lnt := op.lnt, node := op.node, await := op.await, raise := r,
      readers := match r with | .sym _ n => n | _ => 0 } :: resolveAll p rest

/-- The joins: each awaits at most 7 raises of slot 95 and all but the last raise it (R240). -/
def joinWords (d : Nat) (slot : Option Nat) : Nat → Nat → List QueuedWord
  | 0, _ => []
  | fuel + 1, n =>
    if 7 < n then
      { ring := 0, word := nopWord 0, node := d, await := .slot 95 7, raise := .slot 95 1 } :: joinWords d slot fuel (n - 6)
    else
      [{ ring := 0, word := nopWord 0, node := d, join := true, await := if n = 0 then .none else .slot 95 n,
         raise := match slot with | some s => .slot s 1 | none => .none }]

/-- Plan a demand of the cut box `b` of node `d` (R236 to R240): temporaries from granule `top` up to `lim`, clear of the granules `leaves`. -/
def planDemand (t : Thunks) (d : Nat) (b : Box) (dest : Dest) (slot : Option Nat) (top lim : Nat) (leaves : List (Nat × Nat)) :
    Planned :=
  if b.none? then { words := joinWords d slot 1 0, nodes := [], top := top, syms := t.nextSym }
  else
    let start : PlanState := { top := top, lim := lim, sym := t.nextSym, leaves := leaves }
    let first := (planAll t d b dest).run start
    -- a destination among the plan's own blocks is written out by a copy, as no vector word may write it (R241)
    let clash := dest.loc.sp && !dest.arena && meets (dest.loc.bytes b) (((32 * top : Nat) : Int), ((32 * first.2.top : Nat) : Int))
    let r := if clash then (planAll t d b dest).run { start with viaBlock := true } else first
    let p := r.2
    let ws := resolveAll p p.ops.reverse
    let n := (ws.filter (fun w => decide (w.raise = .slot 95 1))).length
    { words := ws ++ joinWords d slot (n + 1) n, data := p.data.reverse, nodes := r.1, top := p.top, used := p.used,
      need := p.need, fail := p.fail, syms := p.sym }

end Sys2Proof.Machine
end

