-- ==== Sys2Proof/Machine/Operands.lean ====
section
/-! DEFINITION. Operand forms that reach memory: the on-chip map behind h15 (R168, R169, Table 9-1), handles and the
checks of an access through one (R307, R183, R184), and scratch operands (R312). -/

namespace Sys2Proof.Machine

/-! ## The on-chip map (Table 10-1) -/

/-- A place in one core's regions. -/
inductive Place where
  | scratch (off : Nat)
  | acc (bank elem : Nat)
  | cfg (off : Nat)
  | reg (n : Nat)
  | hva (n : Nat)
  deriving DecidableEq, Repr

/-- The place of an offset within a core; none for one that Table 10-1 does not list. -/
def placeOf (off : Nat) : Option Place :=
  if off < 0x200000 then some (.scratch off)
  else if 0x01000000 ≤ off ∧ off < 0x01100000 then
    some (.acc ((off - 0x01000000) / 0x40000) ((off - 0x01000000) % 0x40000 / 4))
  else if 0x02000000 ≤ off ∧ off < 0x02020000 then some (.cfg (off - 0x02000000))
  else if 0x03000000 ≤ off ∧ off < 0x03000200 then some (.reg ((off - 0x03000000) / 8))
  else if 0x03000400 ≤ off ∧ off < 0x03000478 then some (.hva ((off - 0x03000400) / 8))
  else none

/-- Whether function `f` owns the cluster of core `c` (R75). -/
def State.ownsCore (s : State) (f c : Nat) : Bool := bmem (s.fn f).part.clusters (c / 8)

/-- Whether an h15 access by a function and context is admitted at core `c` (R169); a strand that has begun its
save admits none (R170). -/
def State.admits (s : State) (f x c : Nat) : Bool :=
  let k := s.core c
  decide (c < 256) && s.ownsCore f c && k.resident && decide (k.fn = f ∧ k.ctx = x) &&
    decide (k.strand.status ≠ .saved ∧ k.strand.status ≠ .saving) && !k.saveBegun

/-! ## The engine configuration region (Table 9-1) -/

/-- +0x20 of a ring block (Table 9-3), with BUSY. -/
def Ring.status (g : Ring) (busy : Bool) : Nat :=
  busy.toNat + g.resets % 4 * 2 + (if g.cfgerr then 8 else 0)
    + (if g.pendx then 16 else 0) + g.xcode.toNat * 2 ^ 8 + field g.xseq 0 16 * 2 ^ 16

/-- BUSY: a word of the ring is in progress: it is unconfirmed, it waits, it has begun, or its mark shows that it has taken
its await or made progress. An engine in a reset has the word in progress that its ring holds. -/
def State.busy (s : State) (c r : Nat) : Bool :=
  let g := (s.core c).ring r
  let m := s.mark c r g.next
  !g.flight.isEmpty || !g.jobs.isEmpty || (decide (g.next ≠ g.rtail) &&
    (g.begun || decide (g.wait ≠ .none ∧ g.wait ≠ .reset) || markAwt m || decide (markProg m ≠ 0) || decide (g.next ≠ g.rhead)))

/-- The status word of ring `r` of core `c`. -/
def State.ringStatus (s : State) (c r : Nat) : Nat := ((s.core c).ring r).status (s.busy c r)

/-- CWP of a C ring: PROG of the word at RHEAD, 0 when the ring is empty (R155). -/
def State.cwp (s : State) (c r : Nat) : Nat :=
  let g := (s.core c).ring r
  if r < 2 || g.empty then 0 else markProg (s.mark c r g.rhead)

/-- Pipe `q` of a core. -/
def Core.pipe (k : Core) (q : Nat) : Pipe := sget {} k.pipes q

/-- Replace pipe `q`. -/
def Core.setPipe (k : Core) (q : Nat) (p : Pipe) : Core := { k with pipes := sset {} k.pipes q p }

/-- Slots of pipe `q`: the latch q31 is one slot, whatever its NSLOTM1 (R150, Table 9-5). -/
def Pipe.nslots (p : Pipe) (q : Nat) : Nat := if q = 31 then 1 else p.nslotM1.toNat + 1

/-- PCFG (Table 9-5, +0x00). -/
def Pipe.cfg (p : Pipe) : Nat :=
  p.baseG.toNat + p.slotG.toNat * 2 ^ 16 + p.nslotM1.toNat * 2 ^ 28 + p.prod.toNat * 2 ^ 36 + p.cons.toNat * 2 ^ 40

/-- +0x08 of a pipe. -/
def Pipe.state (p : Pipe) : Nat :=
  p.fill % 512 + p.head % 256 * 2 ^ 9 + p.tail % 256 * 2 ^ 17 + (if p.slotG = 0 then 0 else 2 ^ 25)

/-- A pipe's configuration fields from a 64-bit value. -/
def Pipe.setCfg (p : Pipe) (v : Nat) : Pipe :=
  { p with baseG := BitVec.ofNat 16 v, slotG := BitVec.ofNat 12 (v / 2 ^ 16), nslotM1 := BitVec.ofNat 8 (v / 2 ^ 28),
           prod := BitVec.ofNat 4 (v / 2 ^ 36), cons := BitVec.ofNat 4 (v / 2 ^ 40) }

/-- MCFG (Table 9-7). -/
def Core.mcfg (k : Core) : Nat := k.pair01.toNat + 2 * k.pair23.toNat

/-- An LNT register: engine, slot, shadow or active, and the doubleword within the image. -/
def lntPlace (off : Nat) : Option (Nat × Nat × Bool × Nat) :=
  if 0x10000 ≤ off ∧ off < 0x18000 then
    let o := off - 0x10000
    let eng := o / 0x4000
    let w := o % 0x400
    if w < 272 then some (eng, o % 0x4000 / 0x400, false, w / 8)
    else if 0x200 ≤ w ∧ w < 0x200 + 272 then some (eng, o % 0x4000 / 0x400, true, (w - 0x200) / 8)
    else none
  else none

/-- One ring-block register (Table 9-3). -/
def State.ringReg (s : State) (c r o : Nat) : Nat :=
  let g := (s.core c).ring r
  if o = 0 then g.baseG.toNat + g.log2n.toNat * 2 ^ 16
  else if o = 0x08 then g.rhead.toNat
  else if o = 0x10 then g.rtail.toNat
  else if o = 0x18 then g.rkeep.toNat
  else if o = 0x20 then s.ringStatus c r
  else if o = 0x28 then s.cwp c r
  else if o = 0x30 then (if r = 1 then g.rcmt.toNat else 0)
  else 0

/-- Read an 8-byte register of the engine configuration region; offsets that Table 9-1 does not list read as zero. -/
def State.cfgRead (s : State) (c off : Nat) : Nat :=
  let k := s.core c
  if off < 0x180 then s.ringReg c (off / 0x40) (off % 0x40)
  else if off = 0x400 then k.mcfg
  else if 0x408 ≤ off ∧ off < 0x428 then (sget 0 k.mzseq ((off - 0x408) / 8)).toNat
  else if off = 0x428 then k.rowprog
  else if 0x1000 ≤ off ∧ off < 0x1200 then
    let p := k.pipe ((off - 0x1000) / 0x10)
    if off % 0x10 = 0 then p.cfg else p.state
  else if 0x2000 ≤ off ∧ off < 0x2200 then (sget 0 k.fmtTab ((off - 0x2000) / 8)).toNat
  else if 0x3000 ≤ off ∧ off < 0x3100 then (sget 0 k.aliases ((off - 0x3000) / 8)).toNat
  else match lntPlace off with
    | some (e, n, sh, w) => imgField (if sh then k.lntNext e n else k.lnt e n) (8 * w) 8
    | none => 0

/-- Whether a ring's engine is idle and the ring empty: BASEG and LOG2N may be written (Table 9-3). -/
def Ring.idle (g : Ring) : Bool := g.empty && g.flight.isEmpty && !g.pendx

/-- A write to BASEG and LOG2N (R138): placed, or refused with CFGERR. -/
def State.ringConfig (s : State) (c r v : Nat) : State :=
  s.onRing c r (fun g =>
    let n := nbits v 16 4
    if g.idle && decide (4 ≤ n ∧ n ≤ 14) then { g with baseG := BitVec.ofNat 16 v, log2n := BitVec.ofNat 4 n }
    else { g with cfgerr := true })

/-- Replace one doubleword of an image. -/
def imgSet (img : BitVec 2176) (w v : Nat) : BitVec 2176 :=
  BitVec.ofNat 2176 (img.toNat - imgField img (8 * w) 8 * 2 ^ (64 * w) + v % 2 ^ 64 * 2 ^ (64 * w))

/-- What a write of an 8-byte register of the region does: the new state, and the event that a strand's write takes in
addition (R136, R147). -/
def State.cfgWrite (s : State) (c off v : Nat) : State × Option Nat :=
  let k := s.core c
  if off < 0x180 then
    if off % 0x40 = 0 then (s.ringConfig c (off / 0x40) v, if (k.ring (off / 0x40)).idle then none else some 2)
    else if off % 0x40 ≤ 0x30 then (s, some 2) else (s, none)
  else if off = 0x400 then
    if (k.ring 1).empty then (s.onCore c (fun k => { k with pair01 := nbit v 0, pair23 := nbit v 1 }), none) else (s, some 2)
  else if 0x408 ≤ off ∧ off ≤ 0x428 then (s, some 2)
  else if 0x1000 ≤ off ∧ off < 0x1200 then
    let q := (off - 0x1000) / 0x10
    if off % 0x10 = 0 ∧ (k.pipe q).fill = 0 then (s.onCore c (fun k => k.setPipe q ((k.pipe q).setCfg v)), none)
    else (s, some 2)
  else if 0x2000 ≤ off ∧ off < 0x2200 then
    (s.onCore c (fun k => { k with fmtTab := sset 0 k.fmtTab ((off - 0x2000) / 8) (BitVec.ofNat 6 v) }), none)
  else if 0x3000 ≤ off ∧ off < 0x3100 then (s, some 2)
  else match lntPlace off with
    | some (e, n, true, w) =>
      if 12 ≤ n then (s, some 1)
      else (s.onCore c (fun k => { k with lntShadow := sset 0 k.lntShadow (16 * e + n) (imgSet (k.lntNext e n) w v) }), none)
    | some (_, _, false, _) => (s, some 2)
    | none => (s, none)

/-- The place that an h15 access reaches, after the checks of R169: the refused cases in R255's order, the width, the
alignment. -/
def State.onChip (s : State) (f x ea n : Nat) (wr : Bool) : Chk (Nat × Place) :=
  if 2 ^ 40 ≤ ea then .error (.event 7 ea)
  else if !s.admits f x (ea / 2 ^ 32) then .error (.event 2 ea)
  else match placeOf (ea % 2 ^ 32) with
    | none => .error (.event 2 ea)
    | some p =>
      let refused : Bool := wr && (match p with
        | .acc b _ => (s.core (ea / 2 ^ 32)).paired b
        | .cfg off => decide ((s.cfgWrite (ea / 2 ^ 32) (off / 8 * 8) 0).2 = some 2)
        | .reg _ | .hva _ => true
        | _ => false)
      let width : Bool := match p with
        | .scratch _ => true
        | .acc _ _ => decide (n = 4 ∨ n = 8)
        | _ => decide (n = 8)
      if refused then .error (.event 2 ea)
      else if !width || decide (ea % n ≠ 0) then .error (.event 3 ea)
      else .ok (ea / 2 ^ 32, p)

/-- The ring whose BASEG and LOG2N an admitted h15 access at `ea` names: its core and number (Table 9-3). -/
def State.ringAt (s : State) (f x ea : Nat) : Option (Nat × Nat) :=
  match placeOf (ea % 2 ^ 32) with
  | some (.cfg off) =>
    if s.admits f x (ea / 2 ^ 32) && decide (ea < 2 ^ 40 ∧ off < 0x180 ∧ off % 0x40 < 8) then some (ea / 2 ^ 32, off / 0x40) else none
  | _ => none

/-- Read `n` bytes at a place; reading the ring status word clears CFGERR (Table 9-3, RC). -/
def State.placeRead (s : State) (c : Nat) (p : Place) (n : Nat) : Nat × State :=
  match p with
  | .scratch off => (s.sval c off n, s)
  | .acc b i => ((s.ownAcc c b i).toNat + (if n = 8 then (s.ownAcc c b (i + 1)).toNat * 2 ^ 32 else 0), s)
  | .cfg off =>
    (s.cfgRead c off, if off < 0x180 ∧ off % 0x40 = 0x20 then s.onRing c (off / 0x40) (fun g => { g with cfgerr := false }) else s)
  | .reg r => (((s.core c).strand.get (BitVec.ofNat 6 r)).toNat, s)
  | .hva h => ((sget {} (s.core c).strand.handles h).va.toNat, s)

/-- Write `n` bytes at a place. -/
def State.placeWrite (s : State) (c : Nat) (p : Place) (n v : Nat) : State × Option Nat :=
  match p with
  | .scratch off =>
    let s := s.swrite c off (toBytes n v)
    (if c = s.actor.core then s.noteStored (scratchLine off) else s, none)
  | .acc b i =>
    let s := (s.ownBank c b).setAcc c b i (BitVec.ofNat 32 v)
    (if n = 8 then s.setAcc c b (i + 1) (BitVec.ofNat 32 (v / 2 ^ 32)) else s, none)
  | .cfg off => s.cfgWrite c off v
  | .reg _ | .hva _ => (s, some 2)

/-! ## Handles (Table 10-7) -/

/-- Handle `h` of a strand. -/
def Strand.handle (t : Strand) (h : Nat) : Handle := sget {} t.handles h

/-- Replace handle `h`. -/
def Strand.setHandle (t : Strand) (h : Nat) (v : Handle) : Strand := { t with handles := sset {} t.handles h v }

/-- The effective address of a handle access: handle VA + s[a] + displacement, modulo 2^57; h15's base is 0 (R168,
R310, R313). -/
def Strand.ea (t : Strand) (h : Nat) (off : Word) (disp : Int) : Nat :=
  let base := if h = 15 then 0 else (t.handle h).va.toNat
  ((((base + off.toNat : Nat) : Int) + disp) % (2 ^ 57 : Int)).toNat

/-- The page that an access through handle h0 to h14 uses, after the state, range and rights checks (R307 steps 2 to 4); a
page that no longer grants the access is walked again (R87, R98).
The handle as it then stands is answered too. -/
def State.handlePage (s : State) (h ea : Nat) (acc : AccKind) : Chk (Trans × Handle) :=
  let c := s.actor.core
  let k := s.me
  let v := k.strand.handle h
  let tryUse (tr : Trans) (v : Handle) : Chk (Trans × Handle) :=
    if ea < tr.base ∨ tr.base + tr.size ≤ ea then .error (.event 7 ea)
    else if (acc.writes && !tr.wr) || !s.grants k.fn tr ea acc then
      match walk s k.fn k.ctx (if acc.writes && !tr.wr then v.va.toNat else ea) acc with
      | .error f => .error (stopWalk ea acc f)
      | .ok tr' =>
        if ea < tr'.base ∨ tr'.base + tr'.size ≤ ea then .error (.event 7 ea)
        else .ok (tr', { v with tr := tr' })
    else .ok (tr, v)
  match v.st with
  | .invalid => .error (.event 6 ea)
  | .pending => .error .stall
  | .failed => .error (.event (if v.failPerm then 5 else 4) ea)
  | .valid => tryUse v.tr v
  | .revoked =>
    if k.strand.revoke then .error (.event 6 ea)
    else match s.transOn c v.va.toNat .read with
      | .error f => .error (stopWalk v.va.toNat .read f)
      | .ok tr => tryUse tr { v with st := .valid, tr := tr, shot := false }

/-- Whether the pending granules of core `c` include a byte of [lo, hi): a word that writes it is in progress or
unconfirmed (R166). -/
def State.pendingBytes (s : State) (c lo hi : Nat) : Bool :=
  let meets (w : Nat × Nat) : Bool :=
    decide (c * 2 ^ 32 + lo / 32 * 32 < (w.2 + 31) / 32 * 32 ∧ w.1 / 32 * 32 < c * 2 ^ 32 + (hi + 31) / 32 * 32)
  s.cores.any (fun e => e.2.rings.any (fun g =>
    g.2.allJobs.any (fun j => j.spans.any meets) || g.2.flight.any (fun f => f.writes.any meets)))

/-- The scratch address of LDS and STS: s[a] + (imm11 << w), exact; 0x07 past the scratchpad, then 0x03 (R312). -/
def scratchEa (base : Word) (imm w : Nat) : Chk Nat :=
  let ea := base.toNat + imm * 2 ^ w
  if 0x200000 ≤ ea then .error (.event 7 ea)
  else if ea % 2 ^ w ≠ 0 then .error (.event 3 ea)
  else .ok ea

/-- A record of `n` bytes in the strand's own scratch at s[a], aligned to `al`: 0x03, then 0x07 (R326, R334, R389). -/
def recordAt (v : Word) (al n : Nat) : Chk Nat :=
  if v.toNat % al ≠ 0 then .error (.event 3 v.toNat)
  else if 0x200000 < v.toNat + n then .error (.event 7 v.toNat)
  else .ok v.toNat

/-- Sign- or zero-extend a loaded value of 2^w bytes (R310). -/
def extend (x : Bool) (w v : Nat) : Word :=
  if x then BitVec.ofInt 64 (sint (8 * 2 ^ w) v) else BitVec.ofNat 64 (v % 2 ^ (8 * 2 ^ w))

end Sys2Proof.Machine
end

