-- ==== Sys2Proof/Machine/Record.lean ====
section
/-! DEFINITION. Tensor shape records (R280, R281), where a copy word finds its own (R371), how a channel's record cache
holds them (R202, R392, R393), and the bounding interval of a copy's destination (R322). -/

namespace Sys2Proof.Machine

/-- A TSR as its 320 bytes, bit 0 the least significant bit of byte 0. -/
abbrev Tsr := BitVec 2560

/-- `n` bytes of a TSR from byte `b`, as a number. -/
def Tsr.at (r : Tsr) (b n : Nat) : Nat := field r (8 * b) (8 * n)

/-- A dimension: extent and the signed source and destination strides. -/
structure Dim where
  ext : Nat
  sstr : Int
  dstr : Int
  deriving DecidableEq, Repr

/-- Dimension `i` (Table 15-13). -/
def Tsr.dim (r : Tsr) (i : Nat) : Dim :=
  { ext := r.at (64 + 16 * i) 4, sstr := sint 48 (r.at (68 + 16 * i) 6), dstr := sint 48 (r.at (74 + 16 * i) 6) }

def Tsr.src (r : Tsr) : Nat := r.at 0 8
def Tsr.dst (r : Tsr) : Nat := r.at 8 8
def Tsr.peer (r : Tsr) : Nat := r.at 16 2
def Tsr.region (r : Tsr) : Nat := r.at 18 1
def Tsr.sfmt (r : Tsr) : Nat := r.at 20 1
def Tsr.dfmt (r : Tsr) : Nat := r.at 21 1
def Tsr.ndim (r : Tsr) : Nat := r.at 22 1
def Tsr.flags (r : Tsr) : Nat := r.at 24 4
def Tsr.semid (r : Tsr) : Nat := r.at 28 4
def Tsr.delta (r : Tsr) : Nat := r.at 32 4
def Tsr.slot (r : Tsr) : Nat := r.at 36 2
def Tsr.ncontrib (r : Tsr) : Nat := r.at 38 1
def Tsr.cindex (r : Tsr) : Nat := r.at 39 1
/-- Source in scratch, destination in scratch, fabric destination, SIG. -/
def Tsr.ssp (r : Tsr) : Bool := nbit r.flags 0
def Tsr.dsp (r : Tsr) : Bool := nbit r.flags 1
def Tsr.dfab (r : Tsr) : Bool := nbit r.flags 2
def Tsr.vc (r : Tsr) : Nat := nbits r.flags 3 2
def Tsr.sig (r : Tsr) : Bool := nbit r.flags 5
def Tsr.mode (r : Tsr) : Nat := nbits r.flags 6 3

/-- The dimensions in use, innermost first. -/
def Tsr.dims (r : Tsr) : List Dim := (upto (min r.ndim 16)).map r.dim

/-- Elements of the record. -/
def Tsr.count (r : Tsr) : Nat := r.dims.foldl (fun n d => n * d.ext) 1

/-! ## Where a word's record lies (R371) -/

/-- COP, TSRA, CH and TSRSP of a copy word. -/
def copOf (w : BitVec 192) : Nat := (w.extractLsb' 89 7).toNat
def tsraOf (w : BitVec 192) : Nat := (w.extractLsb' 15 51).toNat
def chOf (w : BitVec 192) : Nat := (w.extractLsb' 10 5).toNat
def tsrspOf (w : BitVec 192) : Bool := w.getLsbD 9

/-- The record's key in a cache: its VA, or 2^57 + its scratch byte address. -/
def recordKey (w : BitVec 192) : Nat :=
  if tsrspOf w then 2 ^ 57 + 64 * (tsraOf w % 2 ^ 15) else 64 * tsraOf w

/-- Bytes of a record in the VA space, one 64-byte line at a time, as the context's agent reads them. -/
def State.recordBytes (s : State) (f x : Nat) (va : Nat) : Nat → Except (Nat × WalkFail) (List Byte)
  | 0 => .ok []
  | n + 1 =>
    match s.peek f x va 64 with
    | .error e => .error (va, e)
    | .ok here =>
      match State.recordBytes s f x ((va + 64) % 2 ^ 57) n with
      | .error e => .error e
      | .ok rest => .ok (here ++ rest)

/-- The record of a word of core `c` as memory holds it now. -/
def State.readRecord (s : State) (c : Nat) (w : BitVec 192) : Except (Nat × WalkFail) Tsr :=
  let k := s.core c
  if tsrspOf w then .ok (BitVec.ofNat 2560 (ofBytes (s.sread c (64 * (tsraOf w % 2 ^ 15)) 320)))
  else match s.recordBytes k.fn k.ctx (64 * tsraOf w) 5 with
    | .error e => .error e
    | .ok bs => .ok (BitVec.ofNat 2560 (ofBytes bs))

/-- RCFENCE: words enqueued from here on may use no record cached before; those enqueued already keep their choices
(R202, R315). -/
def State.dropRecords (s : State) (c : Nat) : State :=
  ((upto 4).foldl (fun s i => s.onRing c (2 + i) (fun g => { g with fence := s.tick })) s).onCore c (fun k => { k with stored := [] })

/-- One record's cached copies on ring C3 become stale (R238). -/
def State.dropRecord (s : State) (c key : Nat) : State :=
  s.onRing c 5 (fun g => { g with cache := g.cache.filter (fun e => decide (e.key ≠ key)) })

/-- The lines of a word's record as `Core.stored` names them; a line whose translation fails is none. -/
def State.recordLines (s : State) (c : Nat) (w : BitVec 192) : List Nat :=
  (upto 5).filterMap (fun i =>
    if tsrspOf w then some (scratchLine (64 * (tsraOf w % 2 ^ 15 + i)))
    else
      let va := (64 * tsraOf w + 64 * i) % 2 ^ 57
      match walk s (s.core c).fn (s.core c).ctx va .read with
      | .ok t => some (t.line va)
      | .error _ => none)


/-- What the ENQ of sequence `n` noted of its record. -/
def Ring.enqRec (g : Ring) (n : BitVec 32) : Option EnqRec := g.snaps.find? (fun e => decide (e.seq = n))

/-- The versions of its record that a word enqueued with `e` may take from the cache (R202): those cached since the strand's
last RCFENCE before the ENQ; where the strand has written the record since that RCFENCE, those older than the ENQ, else those
not older than the RCFENCE. -/
def Ring.cached (g : Ring) (e : EnqRec) (key : Nat) : List CachedRec :=
  g.cache.filter (fun v => decide (v.key = key ∧ e.fence ≤ v.at' ∧ (if e.fenced then e.fence ≤ v.ver else v.ver ≤ e.tick)))

/-- The version of its record that a word uses when it reaches its sequence (R202), with the tick of which it is the record's
content: one that the channel has cached, the record as it stood at the ENQ, or, where the strand has not written it since
its RCFENCE, the record as it is now. A record that could not be read at the ENQ is read now (log 83). -/
def State.recordFor (s : State) (c r : Nat) (n : BitVec 32) (w : BitVec 192) : Chk (Tsr × Nat) :=
  let g := (s.core c).ring r
  let here : Chk (Tsr × Nat) := match s.readRecord c w with
    | .error (va, f) => .error (stopWalk va .read f)
    | .ok now => .ok (now, s.tick)
  match g.enqRec n with
  | none => here
  | some e =>
    match here with
    | .error x => .error x
    | .ok now =>
      let all := (g.cached e (recordKey w)).map (fun v => (v.tsr, v.ver)) ++ (if e.fenced then [now] else [])
      .ok (all.getD (Config.staleRecord s.tick % (all.length + 1)) (e.tsr, e.tick))

/-! ## Enqueueing (R140) -/

/-- Write a word into slot RTAIL with its mark zero, then RTAIL + 1; the version of a copy word's record is noted. -/
def State.enqueue (s : State) (c r : Nat) (w : BitVec 192) : State :=
  let g := (s.core c).ring r
  let snap : List EnqRec :=
    if r < 2 ∨ copOf w = 0x0D then []
    else match s.readRecord c w with
      | .ok v => [{ seq := g.rtail, tick := s.tick, fence := g.fence, tsr := v
                    fenced := (s.recordLines c w).all (fun l => !(s.core c).stored.contains l) }]
      | .error _ => []
  let bytes := toBytes 24 (if r = 1 then w.toNat else w.toNat % 2 ^ 96) ++ toBytes 8 0
  (s.swrite c (g.slotAddr g.rtail) bytes).onRing c r (fun g =>
    { g with rtail := g.rtail + 1, snaps := g.snaps.filter (fun e => decide (seqDist g.rkeep e.seq < g.held)) ++ snap })

/-! ## The destination's hull (R322) -/

/-- Bytes per element of a format code, 1 for a 4-bit format. -/
def codeBytes (f : Nat) : Nat :=
  match fmtOf (BitVec.ofNat 6 f) with
  | some x => x.bytes
  | none => 1

/-- Whether a format code is a 4-bit one. -/
def nibbleFmt (f : Nat) : Bool := decide (f = 5 ∨ f = 6)

/-- The hull of Σ index × stride over a list of dimensions. -/
def hullOf (ds : List (Nat × Int)) : Int × Int :=
  ds.foldl (fun acc p =>
    let v := ((p.1 : Int) - 1) * p.2
    (acc.1 + min 0 v, acc.2 + max 0 v)) (0, 0)

/-- Index `o` of the index array of a gather or scatter (R373). -/
def State.indexAt (s : State) (c : Nat) (r : Tsr) (o : Nat) : Int := sint 32 (s.sval c (r.delta % 0x200000 + 4 * o) 4)

/-- The index array of a gather or scatter, as far as it lies within the scratchpad (R372, R373). -/
def State.indices (s : State) (c cop : Nat) (r : Tsr) : List Int :=
  if cop = 3 ∨ cop = 4 ∨ cop = 0x0A then
    (upto (min (r.dims.getLastD ⟨1, 0, 0⟩).ext ((0x200000 - r.delta % 0x200000) / 4))).map (s.indexAt c r)
  else []

/-- The bounding interval of a copy's destination elements in bytes: lowest byte and the byte after the highest. -/
def State.destHull (s : State) (c : Nat) (cop : Nat) (r : Tsr) : Int × Int :=
  let ds := r.dims.map (fun d => (d.ext, d.dstr))
  let (lo, hi) :=
    if cop = 0x04 then
      let inner := hullOf ds.dropLast
      let st := (r.dims.getLastD ⟨1, 0, 0⟩).dstr
      let ix := (s.indices c cop r).map (fun o => o * st)
      match ix with
      | [] => inner
      | a :: l => (inner.1 + l.foldl min a, inner.2 + l.foldl max a)
    else hullOf ds
  let base : Int := (r.dst : Nat)
  if nibbleFmt r.dfmt then (base + lo / 2, base + hi / 2 + 1)
  else (base + lo, base + hi + (codeBytes r.dfmt : Nat))

end Sys2Proof.Machine
end

