-- ==== Sys2Proof/Machine/Demand.lean ====
section
/-! DEFINITION. Demands as they act on a core: deciding a plan (R241, R242), writing its words into the rings (R239),
its end at the join (R242, R249), implicit forces and the alias check (R244 to R247). -/

namespace Sys2Proof.Machine

/-- Change the thunk table of core `c`. -/
def State.onThunks (s : State) (c : Nat) (f : Thunks → Thunks) : State :=
  s.onCore c (fun k => { k with thunks := f k.thunks })

/-- The thunk table of core `c`. -/
def State.thunks (s : State) (c : Nat) : Thunks := (s.core c).thunks

/-! ## What the planner writes into the arena -/

/-- The elements of a box in order, dimension 0 innermost. -/
def boxIndices (b : Box) : List (List Nat) :=
  b.reverse.foldl (fun acc r =>
    acc.flatMap (fun i => (upto (r.2 - r.1)).map (fun k => (r.1 + k) :: i))) [[]]

/-- The scratch element index of the operand element that output element `i` reads; none for a pad (R405). -/
def indexEntry (m : List Int) (rank : Nat) (ext : List Nat) (loc : Option Loc) (fmt : BitVec 6) (i : List Nat) :
    Option Nat :=
  let j : List Int := (upto 4).map (fun r =>
    if rank ≤ r then 0 else dot ((upto 4).map (fun c => mapAt m r c)) (i.map (fun (x : Nat) => (x : Int))) + mapAt m r 4)
  match loc with
  | none => none
  | some l =>
    if (upto rank).all (fun r => decide (0 ≤ j.getD r 0 ∧ j.getD r 0 < ((ext.getD r 1 : Nat) : Int)))
    then some ((l.at j).toNat / nibs fmt) else none

/-- Write one thing the planner places in the arena of core `c`. -/
def State.writePlanData (s : State) (c : Nat) (d : PlanData) : State :=
  match d with
  | .bytes g bs => (s.swrite c (32 * g) bs).dropRecord c (2 ^ 57 + 32 * g)
  | .index g b m rank ext loc fmt pad =>
    let n := blockGranules 4 b.sizes
    let str := blockStrides 4 b.sizes
    let padIndex := 64 * (g + n) / nibs fmt
    let s := (boxIndices b).foldl (fun s i =>
      let off := dot ((i.zip b).map (fun p => ((p.1 - p.2.1 : Nat) : Int))) str / 2
      s.swrite c (32 * g + off.toNat) (toBytes 4 ((indexEntry m rank ext loc fmt i).getD padIndex))) s
    match pad with
    | some v => s.swrite c (32 * (g + n)) (toBytes (max 1 (nibs fmt / 2)) v)
    | none => s

/-! ## Deciding a plan (R241, R242) -/

/-- Where a demand goes (R342). -/
inductive DemandDest where
  /-- a new persistent arena block -/
  | arena
  /-- a tile descriptor's place -/
  | place (l : Loc)
  deriving DecidableEq, Repr

/-- A demand: its node, its cut box, its destination, its semaphore slot, whether it is a force under R244 or R247. -/
structure Demand where
  node : Nat
  box : Box
  dest : DemandDest
  slot : Option Nat := none
  implicit : Bool := false
  pc : Va := 0
  deriving DecidableEq, Repr

/-- A node becomes the MAT node of a block; its operands' uses are given back apart. -/
def Node.materialise (n : Node) (g : Nat) : Node :=
  { n with kind := .mat, sub := 0, opnd := [], arena := some g, body := .mat g }

/-- The nodes that a plan leaves changed: USES for the plan, the new block in ARENA, or a MAT node (R242, R342, R247). -/
def Thunks.planNodes (t : Thunks) (d : Demand) (p : Planned) (g : Option Nat) : Thunks :=
  let t := t.addUses p.nodes
  match g with
  | none => t
  | some g =>
    let n := t.node d.node
    if d.implicit then (t.setNode d.node (n.materialise g)).dropUses n.opnd
    else t.onNode d.node (fun n => { n with arena := some g })

/-- A plan joins the table: its record, its queue of words. -/
def Thunks.addPlan (t : Thunks) (d : Demand) (p : Planned) (g : Option Nat) : Thunks :=
  let n := t.node d.node
  let old := match g with
    | none => []
    | some _ => (match n.arena with | some a => (if n.body = .mat a then [] else [a]) | none => [])
  let block := match g with
    | none => []
    | some g => [(g, blockGranules n.fmt d.box.sizes)]
  let plan : Plan := { id := t.nextPlan, nodes := p.nodes, top := p.top, temps := p.used, frees := old,
                       unleaf := if d.implicit && n.isLeaf then [d.node] else [], implicit := d.implicit, slot := d.slot }
  let words := p.words.map (fun w =>
    { w with demandPc := d.pc, creatorPc := (t.node w.node).creatorPc, plan := t.nextPlan })
  let t := { t with persist := t.persist ++ block, plans := t.plans ++ [plan], queue := t.queue ++ words,
                    nextPlan := t.nextPlan + 1, nextSym := p.syms }
  t.planNodes d p g

/-- Decide a demand whole: the plan's identifier and the state in which its words wait to be written, or arena exhausted
0x0C with the granules needed (R241, R243). -/
def State.demand (s : State) (c : Nat) (d : Demand) : Chk (State × Nat) :=
  let t := s.thunks c
  let n := t.node d.node
  let size := blockGranules n.fmt d.box.sizes
  let persists := decide (d.dest = .arena) && !d.box.none?
  -- no block is placed over a scratch leaf that the plan reads (R241; log 17)
  let leaves := t.scratchLeaves d.node
  let g := if persists then ({ t with persist := t.persist ++ leaves } : Thunks).placePersist size else none
  let lim := match g with
    | some g => min t.persistLow g
    | none => t.persistLow
  let dest : Dest := match d.dest with
    | .arena => { loc := blockLoc n.fmt d.box (g.getD 0), arena := true }
    | .place l => { loc := l, arena := false }
  let p := planDemand t d.node d.box dest d.slot t.tempTop lim leaves
  let need := p.need + (if persists then size else 0)
  if p.fail || (persists && g.isNone) then .error (.event 0x0C need)
  else
    let s := p.data.foldl (fun s x => s.writePlanData c x) s
    .ok (s.onThunks c (fun t => t.addPlan d p g), t.nextPlan)

/-! ## Writing planned words (R239, R241) -/

/-- A word with its AWAIT and RAISE fields. -/
def withSems (r : Nat) (w : BitVec 192) (aw rs : Nat) : BitVec 192 :=
  let lo := if r = 0 then (66, 56) else if r = 1 then (158, 148) else (76, 66)
  BitVec.ofNat 192 (w.toNat + aw * 2 ^ lo.1 + rs * 2 ^ lo.2)

/-- The slot that holds a result. -/
def Thunks.slotOf (t : Thunks) (sym : Nat) : Nat :=
  match t.held.find? (fun h => decide (h.sym = sym)) with
  | some h => h.slot
  | none => 0

/-- A resolved semaphore field. -/
def Thunks.semField (t : Thunks) (r : SemRef) : Nat :=
  match r with
  | .none => 0
  | .slot n c => 8 * n + c
  | .sym id c => 8 * t.slotOf id + c

/-- The lowest free slot of 82–94 (R239). -/
def Thunks.freeSlot (t : Thunks) : Option Nat :=
  (upto 13).find? (fun i => t.held.all (fun h => decide (h.slot ≠ 82 + i))) |>.map (fun i => 82 + i)

/-- Whether an MZERO must wait: an earlier planned VDRN of its bank is not confirmed yet (log 64). -/
def State.bankBusy (s : State) (c : Nat) (w : BitVec 192) : Bool :=
  decide (w.extractLsb' 184 8 = 4#8) &&
    (s.thunks c).words.any (fun p => decide (p.ring = 0) &&
      (let v := s.slotWord c 0 p.seq
       decide (v.extractLsb' 89 7 = 0x21#7 ∧ v.extractLsb' 27 2 = w.extractLsb' 168 2)))

/-- Whether a staging word must wait: a planned word of another ring than its reader's still awaits slot 80, and would take
its raise (R239: no raise is taken by another; log 64). -/
def State.stageBusy (s : State) (c : Nat) (q : QueuedWord) : Bool :=
  let staged (r : SemRef) : Bool := match r with
    | .slot n _ => decide (n = 80)
    | _ => false
  staged q.raise && (match (s.thunks c).queue.find? (fun x => staged x.await) with
    | some reader => (s.thunks c).words.any (fun p => decide (p.ring ≠ reader.ring ∧ p.ring < 2)
        && decide (nbits (s.slotWord c p.ring p.seq).toNat (if p.ring = 0 then 69 else 161) 7 = 80))
    | none => false)

/-- Write the first queued word of core `c`; none while something it needs is not ready. -/
def State.pumpOne (s : State) (c : Nat) (q : QueuedWord) : Option State :=
  let s := if q.ring = 1 ∧ ((s.core c).ring 1).full then s.demandKeep c else s
  let k := s.core c
  if (k.ring q.ring).full || (decide (q.ring = 1) && s.bankBusy c q.word) || s.stageBusy c q then none
  else
    let ready : Option State := match q.lnt with
      | none => some s
      | some (slot, img) =>
        if k.lnt q.ring slot = img then some s
        else
          let names (w : BitVec 192) : Bool :=
            decide ((if q.ring = 0 then w.extractLsb' 76 4 else w.extractLsb' 139 4) = BitVec.ofNat 4 slot)
          let s := s.demandIf c (s.anyRetained c q.ring names)
          if s.anyRetained c q.ring names then none
          else some (s.onCore c (fun k => { k with
            lntShadow := sset 0 k.lntShadow (16 * q.ring + slot) img
            lntActive := sset 0 k.lntActive (16 * q.ring + slot) img }))
    match ready with
    | none => none
    | some s =>
      let t := s.thunks c
      let held : Option (List HeldSlot) := match q.raise with
        | .sym id _ => t.freeSlot.map (fun n => t.held ++ [{ slot := n, sym := id, left := q.readers }])
        | _ => some t.held
      match held with
      | none => none
      | some held =>
        let t := { t with held := held }
        let w := withSems q.ring q.word (t.semField q.await) (t.semField q.raise)
        let rec' : PlannedWord :=
          { ring := q.ring, seq := (k.ring q.ring).rtail, node := q.node, demandPc := q.demandPc,
            creatorPc := q.creatorPc, plan := q.plan, join := q.join,
            sym := match q.await with | .sym id _ => some id | _ => none }
        some ((s.onThunks c (fun _ => { t with words := t.words ++ [rec'], queue := t.queue.drop 1 })).enqueue c q.ring w)

/-- Write queued words while they are ready; `n` bounds how many. -/
def State.pumpLoop (c : Nat) : Nat → State → State
  | 0, s => s
  | n + 1, s =>
    match (s.thunks c).queue with
    | [] => s
    | q :: _ =>
      match s.pumpOne c q with
      | none => s
      | some s => State.pumpLoop c n s

/-- Write what can be written of the planner's queue of core `c`. -/
def State.pump (s : State) (c : Nat) : State := State.pumpLoop c ((s.thunks c).queue.length) s

/-! ## The end of a planned word and of a plan -/

/-- A plan ends at its last join (R242, R249): its nodes lose their use, their NFLAGS reach FLAGS, its temporaries and
the block it replaces are freed. -/
def Thunks.finish (t : Thunks) (p : Plan) : Thunks :=
  let t := { t with plans := t.plans.filter (fun x => decide (x.id ≠ p.id)) }
  ((p.unleaf.foldl Thunks.unleaf (t.freeBlocks p.frees))).dropUses p.nodes

/-- The numeric flags of a plan's nodes. -/
def Thunks.planFlags (t : Thunks) (p : Plan) : NumFlags := p.nodes.foldl (fun f i => f ||| (t.node i).nflags) 0

/-- The planned word of ring `r` with sequence `n` is over, confirmed with `flags` or not: its node's NFLAGS, the slots
it held, and its plan's end if it is the join: the flags of the planned nodes reach FLAGS, or CTXFLAGS after EXIT (R249,
R261). -/
def State.endPlanned (s : State) (c r : Nat) (n : BitVec 32) (flags : NumFlags) (confirmed : Bool) : State :=
  let t := s.thunks c
  match t.plannedWord r n with
  | none => s
  | some w =>
    let t := { t with words := t.words.filter (fun x => decide ((x.ring, x.seq) ≠ (r, n))) }
    let t := t.onNode w.node (fun x => if x.live then { x with nflags := x.nflags ||| flags } else x)
    let held := t.held.map (fun h => if some h.sym = w.sym then { h with left := h.left - 1 } else h)
    let t := { t with held := held.filter (fun h => decide (h.left ≠ 0)) }
    match t.plans.find? (fun p => decide (p.id = w.plan)) with
    | some p =>
      if w.join && confirmed then
        (s.onThunks c (fun _ => t.finish p)).wordFlags c (t.planFlags p)
      else s.onThunks c (fun _ => t)
    | none => s.onThunks c (fun _ => t)

/-- Deliver the exception pending on ring `r` at the strand of core `c` (R256, R248); a planned word is over with it. -/
def State.deliverAt (s : State) (c r : Nat) : State :=
  let n := ((s.core c).ring r).xseq
  ((s.deliver c r).endPlanned c r n 0 false).pump c

/-! ## Implicit forces (R244, R247) -/

/-- Whether a force under R244 or R247 is in flight. -/
def Thunks.forcing (t : Thunks) : Bool := t.plans.any Plan.implicit

/-- The instruction at PC is issued again after the planner has written what it can. -/
def State.again (s : State) (c : Nat) : Stop := .again (s.pump c)

/-- Force a node's whole extent into a persistent block and turn it into a MAT node. -/
def State.forceNode (s : State) (c i : Nat) : Chk State :=
  match s.demand c { node := i, box := ((s.thunks c).node i).whole, dest := .arena, implicit := true,
                     pc := (s.core c).strand.pc } with
  | .error e => .error e
  | .ok p => .ok p.1

/-- Force node `i`, with the nodes of `rest` to follow. -/
def State.forceNext (s : State) (c i : Nat) (rest : List Nat) : Stop :=
  match s.forceNode c i with
  | .error e => e
  | .ok s => (s.onStrandOf c (fun t => { t with toForce := rest })).again c

/-- The forces that the strand's write still waits for (R247): each dependent in CSEQ order, once the force before it is
over. -/
def State.forceGate (s : State) (c : Nat) : Chk Unit :=
  let t := s.thunks c
  if t.forcing then .error (s.again c)
  else match (s.core c).strand.toForce.filter (fun i => (t.node i).live && decide ((t.node i).kind ≠ .mat)) with
  | i :: rest => .error (s.forceNext c i rest)
  | [] => .ok ()

/-- The alias check of a write to [lo, hi) (R246, R247): what must happen before it is performed. -/
def State.aliasGate (s : State) (c : Nat) (scratch : Bool) (lo hi : Nat) : Chk Unit :=
  let t := s.thunks c
  match s.forceGate c with
  | .error e => .error e
  | .ok _ =>
    let es := t.overlapped scratch lo hi
    if es.isEmpty then .ok ()
    else if (s.core c).strand.aliasOn then .error (.event 0x0D (sharedLow es lo hi))
    else match t.dependents (es.flatMap CamEntry.leaves) with
      | i :: rest => .error (s.forceNext c i rest)
      | [] => if t.plans.isEmpty then .ok () else .error (s.again c)

/-- A free node for an append (R244): 0x0B, or a force of the chosen root; where no root qualifies, a wait for the joins of
all plans in flight, and then the choice. -/
def State.nodeGate (s : State) (c : Nat) : Chk Nat :=
  let t := s.thunks c
  if t.forcing then .error (s.again c)
  else match t.freeNode with
    | some n => .ok n
    | none =>
      if (s.core c).strand.full then .error (.event 0x0B 0)
      else if t.joinAll && !t.plans.isEmpty then .error (s.again c)
      else match t.victim with
        | some i =>
          match s.forceNode c i with
          | .error e => .error e
          | .ok s => .error ((s.onThunks c (fun t => { t with joinAll := false })).again c)
        | none => .error ((s.onThunks c (fun t => { t with joinAll := true })).again c)

end Sys2Proof.Machine
end

