-- ==== Sys2Proof/Machine/MemInstr.lean ====
section
/-! DEFINITION. Handle instructions (R308, R309), loads, stores, prefetch (R310, R311) and scratch accesses (R312). -/

namespace Sys2Proof.Machine

/-! ## Handle instructions (R183, R308, R309) -/

/-- Abandon the pending walk of handle `h` of core `c`: it no longer waits on a fault (R183). -/
def State.abandonWalk (s : State) (c h : Nat) : State :=
  { s with faults := s.faults.map (fun r => { r with waiters := r.waiters.filter (fun a => decide (a ≠ .handle c h)) }) }

/-- TRANS: the VA, and VALID on a hit of the core TLB or PENDING with a walk started (R183). -/
def execTrans (h a : Reg) (s : State) : Out :=
  let c := s.actor.core
  let k := s.me
  let va : Va := (s.get a).setWidth 57
  let v : Handle := match k.tlbHit k.fn k.ctx va.toNat with
    | some t => { va := va, st := .valid, tr := t }
    | none => { va := va, st := .pending }
  .next (((s.abandonWalk c h.toNat).onStrand (fun t => t.setHandle h.toNat v)).retire)

/-- HINV: INVALID; a pending walk is abandoned (R308). -/
def execHinv (h : Reg) (s : State) : Out :=
  .next (((s.abandonWalk s.actor.core h.toNat).onStrand (fun t =>
    t.setHandle h.toNat { va := (t.handle h.toNat).va })).retire)

/-- STATE of Table 17-2. -/
def HState.code : HState → Nat
  | .invalid => 0
  | .pending => 1
  | .valid => 2
  | .revoked => 3
  | .failed => 4

/-- SIZE of Table 17-2. -/
def sizeCode (n : Nat) : Nat :=
  if n = 0x1000 then 1 else if n = 0x10000 then 2 else if n = 0x200000 then 3 else if n = 0x40000000 then 4 else 0

/-- MTYPE of Table 10-6. -/
def MType.code : MType → Nat
  | .dev => 0
  | .hostc => 1
  | .hosts => 2

/-- The HQRY result (Table 17-2). -/
def Handle.query (v : Handle) : Nat :=
  if v.st = .valid then
    2 + sizeCode v.tr.size * 8 + v.tr.mtype.code * 64 + v.tr.l2atom.toNat * 256 + v.tr.wr.toNat * 512
      + v.tr.keyid % 256 * 1024
  else v.st.code

/-- HQRY (R308). -/
def execHqry (d h : Reg) (s : State) : Out :=
  .next (s.result d (BitVec.ofNat 64 (s.strand.handle h.toNat).query))

/-! ## An access through h0 to h14 (R307) -/

/-- A scalar access through a handle h0 to h14 after the checks of R307 other than the alias check and the dirty log:
the page, and the handle as it then stands. -/
def State.pageOf (s : State) (h ea al : Nat) (acc : AccKind) : Chk (Trans × Handle) := do
  let p ← s.handlePage h ea acc
  need (decide (ea % al = 0)) (.event 3 ea)
  .ok p

/-- Store a handle as an access left it. -/
def State.keepHandle (s : State) (h : Nat) (v : Handle) : State := s.onStrand (fun t => t.setHandle h v)

/-- Write through a page as the moving strand: D and the log, ownership of the line, the bytes (R173, R87). -/
def State.storeVia (s : State) (t : Trans) (va : Nat) (bs : List Byte) : State :=
  (s.storeOn s.me.fn (dieOf s.actor.core) (some s.actor.core) t va bs).noteStored (t.line va)

/-- What an h15 write left: the instruction retires, or takes the event of a refused write (R136, R147). -/
def chipDone (r : State × Option Nat) (word ea : Nat) : State :=
  match r.2 with
  | none => r.1.retire
  | some code => r.1.trap code (if code = 1 then word else ea)

/-- The effective address of the M format (R310). -/
def State.eaM (s : State) (h : BitVec 4) (w : BitVec 2) (a : Reg) (imm : BitVec 7) : Nat :=
  s.strand.ea h.toNat (s.get a) (imm.toInt * ((2 ^ w.toNat : Nat) : Int))

/-- LD (R310). -/
def execLd (d : Reg) (h : BitVec 4) (w : BitVec 2) (x : Bool) (a : Reg) (imm : BitVec 7) (s : State) : Out :=
  let ea := s.eaM h w a imm
  let n := 2 ^ w.toNat
  let k := s.me
  .next (s.run (
    if h = 15 then do
      let p ← s.onChip k.fn k.ctx ea n false
      let r := s.placeRead p.1 p.2 n
      .ok (r.2.result d (extend x w.toNat r.1))
    else do
      let p ← s.pageOf h.toNat ea n .read
      s.accessCheck k.fn (some s.actor.core) p.1 ea n false
      .ok (((s.keepHandle h.toNat p.2).shareLine k.fn (dieOf s.actor.core) (some s.actor.core) p.1 ea).result d
        (extend x w.toNat (ofBytes (s.readVia p.1 ea n))))))

/-- A refused h15 write; one of BASEG and LOG2N sets CFGERR with its event (R138). -/
def State.refuseChip (s : State) (ea : Nat) (e : Stop) : Chk State :=
  match e, s.ringAt s.me.fn s.me.ctx ea with
  | .event 2 _, some (c, r) => .ok ((s.onRing c r (fun g => { g with cfgerr := true })).trap 2 ea)
  | _, _ => .error e

/-- ST (R310). -/
def execSt (b : Reg) (h : BitVec 4) (w : BitVec 2) (a : Reg) (imm : BitVec 7) (s : State) : Out :=
  let ea := s.eaM h w a imm
  let n := 2 ^ w.toNat
  let k := s.me
  .next (s.run (
    if h = 15 then
      match s.onChip k.fn k.ctx ea n true with
      | .error e => s.refuseChip ea e
      | .ok p => .ok (chipDone (s.placeWrite p.1 p.2 n (s.get b).toNat) (wordOf (.st b h w a imm)).toNat ea)
    else do
      let p ← s.pageOf h.toNat ea n .write
      s.aliasGate s.actor.core false ea (ea + n)
      s.accessCheck k.fn (some s.actor.core) p.1 ea n true
      .ok (((s.keepHandle h.toNat p.2).storeVia p.1 ea (toBytes n (s.get b).toNat)).retire)))

/-- PF: no event of any kind; the line is brought into the L1, exclusive with .WR, and its fill is pending for a while (R311,
R177). It waits where another agent's lease or the host holds the line. A line or a table whose fetch fails its checks is an
integrity failure (R106). -/
def execPf (h : BitVec 4) (w : BitVec 2) (x : Bool) (a : Reg) (imm : BitVec 7) (s : State) : Out :=
  let ea := s.eaM h w a imm
  let f := s.me.fn
  let c := s.actor.core
  let by' := s.cycle + Config.fillCycles s.tick
  .next (
    if h = 15 ∨ (s.strand.handle h.toNat).st ≠ .valid then s.retire
    else match s.handlePage h.toNat ea (if x then .write else .read) with
      | .error (.integrity dpa) => s.retire.integrityFail f dpa (some c)
      | .error _ => s.retire
      | .ok (t, _) =>
        if t.mtype = .hosts || t.isWindow then s.retire
        else match s.accessCheckOn f (some c) t ea 1 false false with
          | .error (.integrity dpa) => s.retire.integrityFail f dpa (some c)
          | .error e => s.stop e
          | .ok _ =>
            (if x then s.ownLineTo f (dieOf c) (some c) .e t ea by' else s.shareLineTo f (dieOf c) (some c) t ea by').retire)

/-! ## Scratch (R312) -/

/-- LDS. -/
def execLds (d : Reg) (w : BitVec 2) (x : Bool) (a : Reg) (imm : BitVec 11) (s : State) : Out :=
  let c := s.actor.core
  .next (s.run do
    let ea ← scratchEa (s.get a) imm.toNat w.toNat
    need (!(s.strand.spdbg && s.pendingBytes c ea (ea + 2 ^ w.toNat))) (.event 0x12 ea)
    .ok (s.result d (extend x w.toNat (s.sval c ea (2 ^ w.toNat)))))

/-- STS: the source is the d field. -/
def execSts (d : Reg) (w : BitVec 2) (a : Reg) (imm : BitVec 11) (s : State) : Out :=
  let c := s.actor.core
  .next (s.run do
    let ea ← scratchEa (s.get a) imm.toNat w.toNat
    s.aliasGate c true ea (ea + 2 ^ w.toNat)
    .ok (((s.swrite c ea (toBytes (2 ^ w.toNat) (s.get d).toNat)).noteStored (scratchLine ea)).retire))

end Sys2Proof.Machine
end

