-- ==== Sys2Proof/Machine/RingInstr.lean ====
section
/-! DEFINITION. The ENQ group (R321 to R324), TAKE with its steals (R325, R122, R402), and the loop-nest and format
tables (R326). -/

namespace Sys2Proof.Machine

/-! ## ENQ (R322) -/

/-- The 96 or 192 bits that the registers from `a` on hold (R287). -/
def State.wordAt (s : State) (ring : Nat) (a : Reg) : BitVec 192 :=
  if ring = 1 then s.get (a + 2) ++ s.get (a + 1) ++ s.get a
  else ((s.get (a + 1)).setWidth 32 ++ s.get a).setWidth 192

/-- A matrix word with N16 captured (R276). -/
def withN (w : BitVec 192) (n : Nat) : BitVec 192 :=
  BitVec.ofNat 192 (w.toNat - field w 143 5 * 2 ^ 143 + n / 16 % 32 * 2 ^ 143)

/-- The interval of a copy word's destination that the alias check takes: scratch or VA, low and high; none where
nothing is checked (R322 step 2). -/
def State.copyDest (s : State) (c : Nat) (w : BitVec 192) (r : Tsr) : Option (Bool × Nat × Nat) :=
  if r.dfab then none
  else if copOf w = 8 then
    let p := (s.core c).pipe (r.dst % 32)
    some (true, 32 * p.baseG.toNat, 32 * (p.baseG.toNat + p.nslots (r.dst % 32) * p.slotG.toNat))
  else if r.dims.any (fun d => decide (d.ext = 0)) then none
  else
    let h := s.destHull c (copOf w) r
    some (r.dsp, h.1.toNat, h.2.toNat)

/-- The alias check of a copy word that the strand enqueues itself (R322 step 2, R246, R247). -/
def State.enqGate (s : State) (c : Nat) (w : BitVec 192) : Chk Unit :=
  if copOf w = 0x0D ∨ ((s.thunks c).cam = [] ∧ (s.core c).strand.toForce = []) then .ok ()
  else if (s.thunks c).cam = [] then s.forceGate c
  else match s.readRecord c w with
    | .error e => .error (stopWalk e.1 .read e.2)
    | .ok r =>
      match s.copyDest c w r with
      | none => .ok ()
      | some (sp, lo, hi) => s.aliasGate c sp lo hi

/-- ENQ: N for a matrix word, the alias check of a copy word, then the slot at RTAIL; it stalls while the ring is full
(R322, R140). -/
def execEnq (ring a b : Reg) (s : State) : Out :=
  let c := s.actor.core
  let r := ring.toNat
  let n := (s.get b).toNat
  .next (s.run do
    need (decide (r < 6)) (.event 1 (wordOf (.enq ring a b)).toNat)
    need (decide (r ≠ 1 ∨ (n ≠ 0 ∧ n % 16 = 0 ∧ n ≤ 512))) (.event 0x0F n)
    let w := if r = 1 then withN (s.wordAt r a) n else s.wordAt r a
    if 2 ≤ r then s.enqGate c w else .ok ()
    let s := s.demandIf c (decide (r = 1) && ((s.core c).ring 1).full)
    if ((s.core c).ring r).full then .error (.again s)
    else .ok (s.enqueue c r w).retire)

/-! ## RINGQ (R323) -/

/-- A field of a ring by its code. -/
def State.ringField (s : State) (c r code : Nat) : Nat :=
  let g := (s.core c).ring r
  match code with
  | 0 => g.rhead.toNat
  | 1 => g.rtail.toNat
  | 2 => g.rkeep.toNat
  | 3 => s.ringStatus c r
  | 4 => s.cwp c r
  | 5 => if r = 1 then g.rcmt.toNat else 0
  | _ => 0

/-- The state after a read of a ring's field: CFGERR of the status word is cleared (Table 9-3, RC). -/
def State.ringRead (s : State) (c r code : Nat) : State :=
  if code = 3 then s.onRing c r (fun g => { g with cfgerr := false }) else s

/-- RINGQ: it delivers a pending exception of its ring, or reads the field. -/
def execRingq (d ring field : Reg) (s : State) : Out :=
  let c := s.actor.core
  .next (if ((s.core c).ring ring.toNat).pendx then s.deliverAt c ring.toNat
    else (s.ringRead c ring.toNat field.toNat).result d (BitVec.ofNat 64 (s.ringField c ring.toNat field.toNat)))

/-! ## Pipes (R324) -/

/-- Whether an operand field is pipe `q` (R275). -/
def pipeOperand (o : BitVec 18) (q : Nat) : Bool := decide (field o 16 2 = 1 ∧ field o 0 5 = q)

/-- Whether a vector word names pipe `q`. -/
def vectorNames (q : Nat) (w : BitVec 192) : Bool :=
  pipeOperand (w.extractLsb' 38 18) q || pipeOperand (w.extractLsb' 20 18) q || pipeOperand (w.extractLsb' 2 18) q

/-- Whether a retained word of C ring `r` names pipe `q`; a CSUB or CDRAIN that has not read its record names every
pipe (R324). -/
def State.copyNames (s : State) (c r q : Nat) (e : BitVec 32 × BitVec 192) : Bool :=
  let g := (s.core c).ring r
  let cop := copOf e.2
  if cop ≠ 8 ∧ cop ≠ 9 then false
  else match (g.allJobs.filterMap CopyJob.chosen).find? (fun p => decide (p.1 = e.1)) with
    | some (_, t) => decide ((if cop = 8 then Tsr.dst t else Tsr.src t) % 32 = q)
    | none => true

/-- Whether a retained word of the core names pipe `q`. -/
def State.pipeNamed (s : State) (c q : Nat) : Bool :=
  s.anyRetained c 0 (vectorNames q) || [2, 3, 4, 5].any (fun r => (s.retainedWords c r).any (s.copyNames c r q))

/-- A change of FILL on a pipe whose consumer is the strand sets the event latch (R386). -/
def State.pipeLatch (s : State) (c q : Nat) : State := if ((s.core c).pipe q).cons = 0 then s.latch c 3 else s

/-- HEAD advances and FILL decrements, `n` times; the latch q31 does nothing (R149, R150). -/
def State.pipePop (s : State) (c q n : Nat) : State :=
  if q = 31 ∨ n = 0 then s
  else (s.onCore c (fun k => k.setPipe q { k.pipe q with
      fill := (k.pipe q).fill - n, head := ((k.pipe q).head + n) % (k.pipe q).nslots q })).pipeLatch c q

/-- TAIL advances and FILL increments, `n` times; the first write of q31 sets its FILL to 1 (R149, R150). -/
def State.pipePush (s : State) (c q n : Nat) : State :=
  if n = 0 then s
  else if q = 31 then
    (if ((s.core c).pipe 31).fill = 1 then s
     else (s.onCore c (fun k => k.setPipe 31 { k.pipe 31 with fill := 1 })).pipeLatch c 31)
  else (s.onCore c (fun k => k.setPipe q { k.pipe q with
      fill := (k.pipe q).fill + n, tail := ((k.pipe q).tail + n) % (k.pipe q).nslots q })).pipeLatch c q

/-- PDEF: waits until no retained word names the pipe; 0x10 if it is not empty or the value is reserved; HEAD, TAIL and
FILL become 0. -/
def execPdef (q a : Reg) (s : State) : Out :=
  let c := s.actor.core
  let v := (s.get a).toNat
  .next (s.run do
    need (decide (q.toNat < 32)) (.event 1 (wordOf (.pdef q a)).toNat)
    let s := s.demandIf c (s.pipeNamed c q.toNat)
    if s.pipeNamed c q.toNat then .error (.again s) else .ok ()
    need (decide (((s.core c).pipe q.toNat).fill = 0 ∧ v < 2 ^ 44 ∧ nbits v 36 4 < 8 ∧ nbits v 40 4 < 8))
      (.event 0x10 q.toNat)
    .ok (s.onCore c (fun k => k.setPipe q.toNat { (k.pipe q.toNat).setCfg v with fill := 0, head := 0, tail := 0 })).retire)

/-- PADV: the misuse checks of R151 with the strand as the consumer, then the slot at HEAD is popped. -/
def execPadv (q : Reg) (s : State) : Out :=
  let c := s.actor.core
  let p := (s.core c).pipe q.toNat
  .next (s.run do
    need (decide (q.toNat < 32)) (.event 1 (wordOf (.padv q)).toNat)
    need (decide (p.slotG ≠ 0 ∧ p.cons = 0 ∧ (q.toNat = 31 ∨ p.fill ≠ 0))) (.event 0x10 q.toNat)
    .ok (s.pipePop c q.toNat 1).retire)

/-! ## TAKE (R325, R122) -/

/-- Change the count U of the gang of core `c`. -/
def State.takeFromU (s : State) (c n : Nat) : State := s.onGang (s.core c).gang (fun g => { g with u := g.u - n })

/-- The level word `l` of the node on core `c`: (COUNT, KIND, CHUNK); none at or beyond NLEV. -/
def State.levelOf (s : State) (c l : Nat) : Option (Nat × Nat × Nat) :=
  match s.nodeOf c with
  | none => none
  | some n => if l < n.launch.nlev then n.launch.levels[l]? else none

/-- U of the gang of core `c`. -/
def State.gangU (s : State) (c : Nat) : Nat :=
  match s.gang (s.core c).gang with
  | none => 0
  | some g => g.u

/-- The rank after `r` in gang ring order, skipping `me` (R119, R122). -/
def nextRank (r me size : Nat) : Nat :=
  let n := (r + 1) % size
  if n = me then (n + 1) % size else n

/-- TAKE returns [lo, hi): s[d], then s[b]. -/
def State.takeResult (s : State) (d b : Reg) (lo hi : Nat) : State :=
  (((s.set d (BitVec.ofNat 64 lo)).set b (BitVec.ofNat 64 hi)).onStrand (fun t => { t with chunkLen := hi - lo })).retire

/-- TAKE d, #l, b. -/
def execTake (d lvl b : Reg) (s : State) : Out :=
  let c := s.actor.core
  let t := s.strand
  let size := (s.gangCores c).length
  .next (s.run (
    if 6 ≤ lvl.toNat ∨ (d = b ∧ d ≠ 0) then .error (.event 1 (wordOf (.take d lvl b)).toNat)
    else match s.levelOf c lvl.toNat with
      | some (_, 3, chunk) =>
        if t.ownLo < t.ownHi then
          let hi := min (t.ownLo + chunk) t.ownHi
          .ok (((s.takeFromU c (hi - t.ownLo)).onStrand (fun t => { t with ownLo := hi })).takeResult d b t.ownLo hi)
        else if s.gangU c = 0 then .ok (s.takeResult d b 0 0)
        else if size ≤ 1 then .error .stall
        else .error (.become (.stealing (nextRank s.me.rank s.me.rank size)))
      | _ => .ok (s.takeResult d b 0 0)))

/-- STEAL_REQUEST: the victim keeps the first half of its own range, rounded up, and hands over the rest, whatever its
strand is doing, after its EXIT or its save too while the gang is resident (R122 step 3, R402). -/
def execStealRequest (thief victim : Nat) (s : State) : Out :=
  let v := (s.core victim).strand
  let keep := v.ownLo + (v.ownHi - v.ownLo + 1) / 2
  let asked : Bool := (match (s.core thief).strand.status with
    | .stealing r => decide ((s.gangCores thief)[r]? = some victim)
    | _ => false) && (s.core thief).strand.reply.isNone
  .next (
    if !asked then s
    else if v.ownHi ≤ v.ownLo + 1 then s.onStrandOf thief (fun t => { t with reply := some (0, 0) })
    else (s.onStrandOf victim (fun t => { t with ownHi := keep })).onStrandOf thief
      (fun t => { t with reply := some (keep, v.ownHi) }))

/-- STEAL_ANSWER: a range received lets TAKE go on with it; otherwise the thief examines U and asks the next core
(R122 step 2). -/
def execStealAnswer (thief : Nat) (s : State) : Out :=
  let t := (s.core thief).strand
  .next (match t.status, t.reply with
    | .stealing r, some (lo, hi) =>
      if lo < hi then s.onStrandOf thief (fun t => { t with ownLo := lo, ownHi := hi, reply := none, status := .running })
      else if s.gangU thief = 0 then s.onStrandOf thief (fun t => { t with reply := none, status := .running })
      else s.onStrandOf thief (fun t => { t with
        reply := none, status := .stealing (nextRank r (s.core thief).rank (s.gangCores thief).length) })
    | _, _ => s)

/-! ## Tables (R326) -/

/-- Whether an LNT slot may be written by a strand: not slot 0 (R152) and not 12 to 15 (R147). -/
def lntOpen (slot : BitVec 4) : Bool := decide (slot ≠ 0 ∧ slot.toNat < 12)

/-- LNTW: the 272 bytes at s[a] go to the shadow copy, unchecked. -/
def execLntw (slot : BitVec 4) (eng : Bool) (a : Reg) (s : State) : Out :=
  let c := s.actor.core
  .next (s.run do
    need (lntOpen slot) (.event 1 (wordOf (.lntw slot eng a)).toNat)
    let ea ← recordAt (s.get a) 32 272
    need (!(s.strand.spdbg && s.pendingBytes c ea (ea + 272))) (.event 0x12 ea)
    .ok (s.onCore c (fun k => { k with
      lntShadow := sset 0 k.lntShadow (16 * eng.toNat + slot.toNat) (BitVec.ofNat 2176 (s.sval c ea 272)) })).retire)

/-- Whether a word of engine `eng` names LNT slot `n`. -/
def lntNames (eng : Bool) (n : BitVec 4) (w : BitVec 192) : Bool :=
  decide ((if eng then w.extractLsb' 139 4 else w.extractLsb' 76 4) = n)

/-- LNTGO: the shadow copy becomes active once no retained word of the engine names the slot (R152). -/
def execLntgo (slot : BitVec 4) (eng : Bool) (s : State) : Out :=
  let c := s.actor.core
  .next (s.run do
    need (lntOpen slot) (.event 1 (wordOf (.lntgo slot eng)).toNat)
    let s := s.demandIf c (s.anyRetained c eng.toNat (lntNames eng slot))
    if s.anyRetained c eng.toNat (lntNames eng slot) then .error (.again s)
    else .ok (s.onCore c (fun k => { k with
      lntActive := sset 0 k.lntActive (16 * eng.toNat + slot.toNat) (k.lntNext eng.toNat slot.toNat) })).retire)

/-- Whether a vector or matrix word uses FMT 0x3F. -/
def tableFmt (ring : Nat) (w : BitVec 192) : Bool :=
  if ring = 0 then decide (w.extractLsb' 80 6 = 0x3F#6)
  else decide (w.extractLsb' 178 6 = 0x3F#6 ∨ w.extractLsb' 172 6 = 0x3F#6)

/-- FMTW: the entry takes s[a][5:0] once no retained vector or matrix word uses FMT 0x3F (R153). -/
def execFmtw (e a : Reg) (s : State) : Out :=
  let c := s.actor.core
  .next (s.run (
    let s := s.demandIf c (s.anyRetained c 0 (tableFmt 0) || s.anyRetained c 1 (tableFmt 1))
    if s.anyRetained c 0 (tableFmt 0) || s.anyRetained c 1 (tableFmt 1) then .error (.again s)
    else .ok (s.onCore c (fun k => { k with fmtTab := sset 0 k.fmtTab e.toNat ((s.get a).setWidth 6) })).retire))

end Sys2Proof.Machine
end

