-- ==== Sys2Proof/Machine/Engine.lean ====
section
/-! DEFINITION. How an engine runs a word (R141): the checks before the await, the await (R144), pipes as the engine sees
them (R149 to R151, R201), engine status exceptions (R167, R256, R165), and the confirmation with its raise. -/

namespace Sys2Proof.Machine

/-! ## Engine status exceptions -/

/-- Deliver an exception of ring `r` at once to a strand that waits in an SWAIT on the word's raise semaphore (R256;
log 26). -/
def State.deliverWaiting (s : State) (c r : Nat) : State :=
  match (s.core c).strand.status with
  | .waitSem k =>
    if s.pendingOn c k = some r then
      ({ s with semWaiters := s.semWaiters.filter (fun w => decide (w.core ≠ c ∨ w.ring ≠ none)) }).deliverAt c r
    else s
  | _ => s

/-- What a copy word that ends leaves outside its ring: its transfer is over, and its stack agent (R36, R377). -/
def State.dropWord (s : State) (c r : Nat) (n : BitVec 32) : State :=
  if r < 2 then s
  else
    let s := if s.fabric.transfers.any (fun t => decide (t.core = c ∧ t.ring = r ∧ t.seq = n)) then
        { s with fabric := { s.fabric with
          transfers := s.fabric.transfers.filter (fun t => decide (t.core ≠ c ∨ t.ring ≠ r ∨ t.seq ≠ n)) } }
      else s
    if s.agents.any (fun a => a.2.holds.any (fun h => decide (h.core = c ∧ h.ring = r ∧ h.seq = n))) then
      { s with agents := s.agents.map (fun a => (a.1, { a.2 with
          holds := a.2.holds.filter (fun h => decide (h.core ≠ c ∨ h.ring ≠ r ∨ h.seq ≠ n)) })) }
    else s

/-- The word at sequence `n` of ring `r` ends with an engine status exception: PENDX, XCODE, XSEQ, and the event latch
(R256, R386). After EXIT there is no delivery: the node fails (R165). A word that is DONE, which a replay meets again, has
had its exception: the engine passes over it. -/
def State.engineExc (s : State) (c r : Nat) (n : BitVec 32) (xcode : Nat) : State :=
  let ended (g : Ring) : Ring := { g with
    wait := .none, begun := false, done := 0, facc := 0, rows := [], uses := [], spans := [], overlap := false, hold := none,
    young := g.young.filter (fun y => decide (y.seq ≠ n)) }
  if markDone (s.mark c r n) then s.onRing c r (fun g => (ended g).moveOn)
  else
    let s := ((s.dropWord c r n).onRing c r (fun g => { ended g with
      pendx := true, xcode := BitVec.ofNat 8 xcode, xseq := n })).latch c 2
    let t := (s.core c).strand
    if t.status = .exited then s.failNodeOf c 5 (failInfo (engineCause (BitVec.ofNat 8 xcode)) t.pc)
    else s.deliverWaiting c r

/-! ## Pipes as the engine of ring `r` sees them -/

/-- A pipe after one of the engine's own unconfirmed words (R201). -/
def Pipe.after (p : Pipe) (q : Nat) (m : PipeMove) : Pipe :=
  match m with
  | .push q' k =>
    if q' ≠ q ∨ k = 0 then p
    else if q = 31 then { p with fill := 1 }
    else { p with fill := p.fill + k, tail := (p.tail + k) % p.nslots q }
  | .pop q' k =>
    if q' ≠ q ∨ q = 31 then p
    else { p with fill := p.fill - k, head := (p.head + k) % p.nslots q }

/-- Pipe `q` for the engine of ring `r`: its own unconfirmed words count as done (log 27). -/
def State.pipeFor (s : State) (c r q : Nat) : Pipe :=
  (((s.core c).ring r).flight.flatMap Flight.moves).foldl (fun p m => p.after q m) ((s.core c).pipe q)

/-- The byte address of slot `i` of a pipe. -/
def Pipe.slotAt (p : Pipe) (i : Nat) : Nat := 32 * (p.baseG.toNat + i * p.slotG.toNat) % 0x200000

/-- Slots that a writer still finds free: unconfirmed pops do not free one. -/
def State.pipeFree (s : State) (c r q : Nat) : Nat :=
  let p := (s.core c).pipe q
  let own := ((s.core c).ring r).flight.flatMap Flight.moves
  let pushes := own.foldl (fun n m => match m with | .push q' k => if q' = q then n + k else n | .pop _ _ => n) 0
  p.nslots q - p.fill - pushes

/-! ## The await (R144) -/

/-- Why a word does not begin, or that it begins. -/
inductive Begin where
  /-- it begins in this state: its await has passed -/
  | go (s : State)
  /-- it ended, or its engine is queued -/
  | stop (s : State)
  deriving DecidableEq, Repr

/-- The semaphore of an AWAIT or RAISE field: the XCODE of an unbound alias slot or of a semaphore outside the partition
(Table 9-12). -/
def State.fieldSem (s : State) (c : Nat) (f : BitVec 10) : Except Nat Nat :=
  match s.slotSem c (semSlot f) with
  | none => .error 0x12
  | some k => if semSlot f < 96 || s.semAllowed c k then .ok k else .error 0x13

/-- Whether a RAISE field names a planner slot, by its own number or through an alias slot (R147). -/
def State.raisesPlanner (s : State) (c : Nat) (f : BitVec 10) : Bool :=
  match s.slotSem c (semSlot f) with
  | some k => plannerSlot k
  | none => false

/-- The XCODE that a word's semaphore fields give before it runs: a strand's word that raises a planner slot, an unbound
alias slot, a semaphore outside the partition. A field whose count is 0 neither awaits nor raises (R12, R144). -/
def State.semFault (s : State) (c r : Nat) (n : BitVec 32) (aw rs : BitVec 10) : Option Nat :=
  let planned := ((s.core c).thunks.plannedWord r n).isSome
  let bad (f : BitVec 10) : Option Nat :=
    if semCount f = 0 then none
    else match s.fieldSem c f with
      | .error x => some x
      | .ok _ => none
  if !planned && decide (semCount rs ≠ 0) && s.raisesPlanner c rs then some 0x14
  else match bad aw with
    | some x => some x
    | none => bad rs

/-- The semaphore fields of a word as its mark leaves them: one that has taken its await awaits nothing, one that is DONE
raises nothing (R144, R158). -/
def fieldLeft (spent : Bool) (f : BitVec 10) : BitVec 10 := if spent then 0 else f

/-- The checks and the await of the word at the engine's next sequence: `check` is what the decoding finds (R279). A word
whose mark has AWT or DONE passes its await. -/
def State.beginWord (s : State) (c r : Nat) (check : Option Nat) (aw rs : BitVec 10) : Begin :=
  let g := (s.core c).ring r
  let n := g.next
  let m := s.mark c r n
  -- at most 4 words are unconfirmed (R141), and no word starts before a pending exception is delivered (R188)
  if g.stopped || decide (4 ≤ g.flight.length) then .stop s
  else match g.wait with
  | .failed perm =>
    -- the failing word is then at RHEAD (R188)
    .stop (if g.flight.isEmpty then s.engineExc c r n (if perm then 0x21 else 0x20) else s)
  | _ =>
    let taken := markAwt m || markDone m
    match check with
    | some x => .stop (s.engineExc c r n x)
    | none =>
      match s.semFault c r n (fieldLeft taken aw) (fieldLeft (markDone m) rs) with
      | some x => .stop (s.engineExc c r n x)
      | none =>
        if taken || decide (semCount aw = 0) then .go s
        else match s.slotSem c (semSlot aw) with
          | none => .go s
          | some k =>
            if !s.semQueued k && decide (semCount aw ≤ (s.sem k).toNat) then
              .go ((s.semWrite k (s.sem k - BitVec.ofNat 32 (semCount aw))).setMark c r n (markProg m) true false)
            else
              let w : SemWaiter := { core := c, ring := some r, key := k, eq := false, c := BitVec.ofNat 32 (semCount aw) }
              .stop (({ s with semWaiters := s.semWaiters ++ [w] }).onRing c r (fun g => { g with wait := .await }))

/-- A word has executed: it joins the unconfirmed words and the engine goes on to the next sequence, or to another word in
progress (R141, R371). -/
def State.launchWord (s : State) (c r : Nat) (f : Flight) : State :=
  s.onRing c r (fun g => { g.moveOn with
    flight := g.flight ++ [{ f with since := s.cycle }], done := 0, facc := 0, rows := [], uses := [], overlap := false, hold := none })

/-! ## Confirmation (R141) -/

/-- RHEAD advances over every word that is DONE, in sequence order; `n` bounds how many. -/
def State.advanceDone (c r : Nat) : Nat → State → State
  | 0, s => s
  | n + 1, s =>
    let g := (s.core c).ring r
    if seqDist g.rhead g.rtail ≠ 0 && markDone (s.mark c r g.rhead) && g.rhead != g.next then
      State.advanceDone c r n (s.advanceHead c r)
    else s

/-- The pipes' moves of a confirmed word (R149). -/
def State.applyMoves (s : State) (c : Nat) (ms : List PipeMove) : State :=
  ms.foldl (fun s m => match m with
    | .push q k => s.pipePush c q k
    | .pop q k => s.pipePop c q k) s

/-- The raise of a word (R144); never of a semaphore outside the partition (R1, R143). -/
def State.raiseField (s : State) (c : Nat) (f : BitVec 10) : State :=
  if semCount f = 0 then s
  else match s.slotSem c (semSlot f) with
    | some k => if semSlot f < 96 || s.semAllowed c k then s.semAdd k (semCount f) else s
    | none => s

/-- An MCMT whose other fields are as Table 20-1 asks. -/
def bareCommit (w : BitVec 192) : Bool := decide (field w 184 8 = 5 ∧ field w 0 143 = 0 ∧ field w 168 16 = 0)

/-- The wait of an MCMT at the engine's next sequence ends with the confirmation of the word before it: its copy begins in
the same cycle (R157, R395). -/
def State.commitNext (s : State) (c : Nat) : State :=
  let g := (s.core c).ring 1
  let w := s.slotWord c 1 g.next
  if g.flight.isEmpty && decide (g.next ≠ g.rtail) && !g.stopped && bareCommit w && !g.belowRcmt g.next
      && (markAwt (s.mark c 1 g.next) || decide (semCount (awaitOf 1 w) = 0)) then s.commitAt c (g.next + 1)
  else s

/-- The unconfirmed word `f` of ring `r` is confirmed: its pipe moves, the commit that its raise needs (R157), the
raise and DONE, its flags (R225, R249), and RHEAD. A word that a replay ran again applies no second raise (R158). -/
def State.confirmWord (s : State) (c r : Nat) (f : Flight) : State :=
  let again := markDone (s.mark c r f.seq)
  let planned := ((s.core c).thunks.plannedWord r f.seq).isSome
  let s := s.onRing c r (fun g => { g with
    flight := g.flight.filter (fun x => decide (x.seq ≠ f.seq)), young := g.young.filter (fun y => decide (y.seq ≠ f.seq)) })
  let s := s.applyMoves c f.moves
  let s := if decide (r = 1 ∧ semCount f.raise ≠ 0) && (match f.bank with | some b => (s.core c).paired b | none => false)
    then s.commitAt c (f.seq + 1) else s
  let s := if again then s else s.raiseField c f.raise
  let m := s.mark c r f.seq
  let s := s.setMark c r f.seq (if f.late then markProg m else f.prog) (markAwt m) true
  let s := if again || planned then s else s.wordFlags c f.flags
  let s := State.advanceDone c r (((s.core c).ring r).held + 1) s
  let s := if r = 1 then (s.commitNext c).onCore c Core.keepM else s
  (s.endPlanned c r f.seq f.flags true).pump c

/-- The oldest unconfirmed word of ring `r` is confirmed. -/
def State.confirm (s : State) (c r : Nat) : State :=
  match ((s.core c).ring r).flight with
  | [] => s
  | f :: _ => s.confirmWord c r f

/-- WORD_CONFIRM (R141): an executed word is confirmed, applies its raise and lets RHEAD advance. -/
def execWordConfirm (core ring : Nat) (s : State) : Out := .next (s.confirm core ring)

/-- The ring whose word an engine row runs: the moving agent's own ring, or the first ring of its kind. -/
def State.engineRing (s : State) (first last : Nat) : Nat :=
  let r := s.actor.unit - 1
  if first ≤ r ∧ r ≤ last then r else first

/-- A word whose opcode is reserved ends with XCODE 0x24 (R279). -/
def execReservedEngineOpcode (_word : BitVec 192) (s : State) : Out :=
  let c := s.actor.core
  let r := s.engineRing 0 5
  .next (s.engineExc c r ((s.core c).ring r).next 0x24)

end Sys2Proof.Machine
end

