-- ==== Sys2Proof/Machine/EngineMem.lean ====
section
/-! DEFINITION. The memory accesses of the matrix engine, the copy channels and the stack agents, which translate for
themselves (R186 to R188), and their waits. -/

namespace Sys2Proof.Machine

/-- What must hold before an engine's access: its own conditions beside those of any agent (R57, R177). -/
def State.engCheck (s : State) (f : Nat) (t : Trans) (va n : Nat) (wr wb : Bool) : Chk Unit :=
  if decide (t.mtype = .dev) && (s.dirLine (t.line va)).hostHolds then .error .stall
  else s.accessCheckOn f none t va n wr wb

/-- The page of an engine's access to a VA, for the gang on core `c`; a stack agent's writes stay in no cache (R101). -/
def State.engPage (s : State) (c va n : Nat) (acc : AccKind) (agent : Bool) : Chk Trans :=
  let k := s.core c
  match walk s k.fn k.ctx va acc with
  | .error e => .error (stopWalk va acc e)
  | .ok t =>
    match s.engCheck k.fn t va n acc.writes (!agent && s.holds k.fn (dieOf c) t va) with
    | .error e => .error e
    | .ok _ => .ok t

/-- Read `n` bytes at a VA for an engine of core `c`; the bytes lie in one page. -/
def State.engRead (s : State) (c va n : Nat) : Chk (State × List Byte) :=
  match s.engPage c va n .read false with
  | .error e => .error e
  | .ok t => .ok (s.shareLine (s.core c).fn (dieOf c) none t va, s.readVia t va n)

/-- Read `n` bytes, at most 4,096, that may pass from one 4 KiB page to the next. -/
def State.engReadSpan (s : State) (c va n : Nat) : Chk (State × List Byte) :=
  let here := 4096 - va % 4096
  if n ≤ here then s.engRead c va n
  else match s.engRead c va here with
    | .error e => .error e
    | .ok (s, bs) =>
      match s.engRead c ((va + here) % 2 ^ 57) (n - here) with
      | .error e => .error e
      | .ok (s, rest) => .ok (s, bs ++ rest)

/-- Write bytes at a VA for an engine of core `c`; the bytes lie in one page. -/
def State.engWrite (s : State) (c va : Nat) (bs : List Byte) : Chk State :=
  match s.engPage c va bs.length .write false with
  | .error e => .error e
  | .ok t => .ok (s.storeOn (s.core c).fn (dieOf c) none t va bs)

/-- What an engine does with an access that stops: it waits on the fault (R53), holds and tries again (R57, R88), or its
function fails. A stack agent is named by its die and stack. -/
def State.engStop (s : State) (c r : Nat) (stack : Option (Nat × Nat)) (e : Stop) : State :=
  let k := s.core c
  match e with
  | .walk va acc f =>
    let p := s.fault (.ring c r) stack 0 k.fn k.ctx va acc f
    p.1.onRing c r (fun g => { g with wait := .fault p.2 })
  | .integrity dpa => s.integrityFail k.fn dpa (some c)
  | _ => s.onRing c r (fun g => { g with wait := .held })

end Sys2Proof.Machine
end

