-- ==== Sys2Proof/Machine/Link.lean ====
section
/-! DEFINITION. The bytes of a flit (R29, R30): its header, its CRC-32, the parity of its Reed–Solomon code, and the
correction of what is received (R39). -/

namespace Sys2Proof.Machine

/-! ## CRC-32 -/

/-- Eight steps of the reflected CRC register; `n` are left. -/
def crcBits : Nat → Nat → Nat
  | 0, c => c
  | n + 1, c => crcBits n (if c % 2 = 1 then (c / 2) ^^^ 0xEDB88320 else c / 2)

/-- CRC-32 of bytes. PRESUMED (log 81): the polynomial and form of IEEE 802.3; the spec names none. -/
def crc32 (bs : List Byte) : Nat :=
  (bs.foldl (fun c b => crcBits 8 (c ^^^ b.toNat)) 0xFFFFFFFF) ^^^ 0xFFFFFFFF

/-! ## The Reed–Solomon code

256 symbols of 8 bits, 16 of them parity, is the code of length 2^8: the values, at all 256 elements of GF(2^8), of the
polynomials of degree below 240. Byte `i` of a flit is the value at the element `i`, so the 16 checks are
Σ c_i i^j = 0. PRESUMED (log 81): the field and the places of the symbols, which the spec does not give. -/

/-- Powers of `x` from 0 to 15, the first of them 1. -/
def powers (x : Nat) : Nat → Nat → List Nat
  | 0, _ => []
  | n + 1, p => p :: powers x n (gfMul p x)

/-- The 16 sums Σ c_i i^j of the symbols at positions from `i` on. -/
def checksFrom : Nat → List Nat → List Nat → List Nat
  | _, [], s => s
  | i, c :: cs, s => checksFrom (i + 1) cs (if c = 0 then s else xorList s ((powers i 16 1).map (gfMul c)))

/-- The checks of a flit's bytes. -/
def rsChecks (bs : List Nat) : List Nat := checksFrom 0 bs (List.replicate 16 0)

/-- A polynomial, lowest coefficient first, times (z + a). -/
def polyRoot (a : Nat) (p : List Nat) : List Nat := xorList (0 :: p) (p.map (gfMul a) ++ [0])

/-- The value of a polynomial. -/
def polyAt (p : List Nat) (x : Nat) : Nat := p.foldr (fun c v => gfMul v x ^^^ c) 0

/-- The symbols at `places` whose checks are the first of `s`: at x, the Lagrange basis polynomial of x applied to them. -/
def rsFit (places s : List Nat) : List Nat :=
  places.map (fun x =>
    let others := places.filter (fun y => decide (y ≠ x))
    let basis := others.foldl (fun p y => polyRoot y p) [1]
    let scale := gfInv (others.foldl (fun v y => gfMul v (x ^^^ y)) 1)
    gfMul scale ((basis.zipWith gfMul s).foldl (fun v w => v ^^^ w) 0))

/-- The 16 parity bytes of 240 bytes. -/
def rsParity (bs : List Byte) : List Byte :=
  (rsFit ((upto 16).map (fun i => 240 + i)) (rsChecks (bs.map BitVec.toNat))).map (BitVec.ofNat 8)

/-- What the search for the shortest recurrence of the checks holds (Berlekamp and Massey): the connection polynomial, its
length, the one before the last change of length, the discrepancy there, and the checks since. -/
structure Recurrence where
  conn : List Nat := [1]
  len : Nat := 0
  prev : List Nat := [1]
  disc : Nat := 1
  gap : Nat := 1
  deriving DecidableEq, Repr

/-- Polynomials, XORed to the longer length. -/
def polyAdd (a b : List Nat) : List Nat :=
  (upto (max a.length b.length)).map (fun i => a.getD i 0 ^^^ b.getD i 0)

/-- One check more: `n` checks came before it, the latest first in `seen`, which begins with the check itself. -/
def Recurrence.next (r : Recurrence) (n : Nat) (seen : List Nat) : Recurrence :=
  let d := ((r.conn.take (r.len + 1)).zipWith gfMul seen).foldl (fun v w => v ^^^ w) 0
  if d = 0 then { r with gap := r.gap + 1 }
  else
    let q := gfMul d (gfInv r.disc)
    let conn := polyAdd r.conn (List.replicate r.gap 0 ++ r.prev.map (gfMul q))
    if 2 * r.len ≤ n then { conn := conn, len := n + 1 - r.len, prev := r.conn, disc := d, gap := 1 }
    else { r with conn := conn, gap := r.gap + 1 }

/-- The shortest recurrence of the checks. -/
def recurrenceOf (s : List Nat) : Recurrence :=
  (s.foldl (fun (a : Recurrence × Nat × List Nat) c => (a.1.next a.2.1 (c :: a.2.2), a.2.1 + 1, c :: a.2.2)) ({}, 0, [])).1

/-- The positions of at most 8 symbols in error, and what each is to be XORed with; none where no such set exists. -/
def rsErrors (s : List Nat) : Option (List (Nat × Nat)) :=
  let r := recurrenceOf s
  let loc := ((upto (r.len + 1)).map (fun i => r.conn.getD i 0)).reverse
  if 8 < r.len then none
  else
    let places := (upto 256).filter (fun x => decide (polyAt loc x = 0))
    let values := rsFit places s
    if places.length = r.len ∧ (places.zip values).foldl (fun s e => xorList s ((powers e.1 16 1).map (gfMul e.2))) s = List.replicate 16 0
    then some (places.zip values) else none

/-- The bytes that correction leaves of 256 received bytes; none where more than 8 symbols are in error (R29, R39). -/
def rsCorrect (bs : List Byte) : Option (List Byte) :=
  let s := rsChecks (bs.map BitVec.toNat)
  if s.all (fun x => decide (x = 0)) then some bs
  else (rsErrors s).map (fun es => es.foldl (fun l e => l.modify e.1 (fun b => b ^^^ BitVec.ofNat 8 e.2)) bs)

/-! ## Flits (R29, R30) -/

/-- The header as a number (Table 3-2). -/
def Flit.header (f : Flit) : Nat :=
  f.vc % 8 + f.vftag % 64 * 2 ^ 3 + f.type % 8 * 2 ^ 9 + f.seq % 4096 * 2 ^ 12 + f.ackSeq % 4096 * 2 ^ 24 + f.crvc % 8 * 2 ^ 36
    + f.crcnt % 256 * 2 ^ 39 + f.rsv % 2 ^ 17 * 2 ^ 47

/-- The 256 bytes of a flit (Table 3-1). -/
def Flit.bytes (f : Flit) : List Byte :=
  let b := toBytes 8 f.header ++ f.body.take 228 ++ List.replicate (228 - f.body.length) 0
  let b := b ++ toBytes 4 (crc32 b)
  b ++ rsParity b

/-- A flit from its first 236 bytes. -/
def flitOf (bs : List Byte) : Flit :=
  let h := ofBytes (bs.take 8)
  { vc := nbits h 0 3, vftag := nbits h 3 6, type := nbits h 9 3, seq := nbits h 12 12, ackSeq := nbits h 24 12,
    crvc := nbits h 36 3, crcnt := nbits h 39 8, rsv := nbits h 47 17, body := (bs.drop 8).take 228 }

/-- The flit that received bytes hold and whether it was corrected; none where it cannot be corrected, fails its CRC, or
has a reserved TYPE or a reserved bit (R30, R39, R40). -/
def readFlit (raw : List Byte) : Option (Flit × Bool) :=
  if raw.length ≠ 256 then none
  else match rsCorrect raw with
    | none => none
    | some bs =>
      let f := flitOf bs
      if crc32 (bs.take 236) ≠ ofBytes ((bs.drop 236).take 4) ∨ 3 ≤ f.type ∨ f.rsv ≠ 0 then none
      else some (f, decide (bs ≠ raw))

end Sys2Proof.Machine
end

