-- ==== Sys2Proof/Machine/Fabric.lean ====
section
/-! DEFINITION. The ROLMAL fabric: packets and flits (R29 to R31), credits (R32), routes and sending (R27, R36), the
receiver's checks and landing (R34, R35), signals (R37), reduction slots (R38), and link errors (R39, R40). -/

namespace Sys2Proof.Machine

/-! ## Packets and flits (R29 to R31) -/

/-- The bytes of a packet (Table 3-4). -/
def packetBytes (p : Packet) : List Byte :=
  [p.type, p.fmt] ++ toBytes 2 p.srcPeer.toNat ++ [p.dstFn, p.status] ++ toBytes 2 p.xfer.toNat ++ [p.region, p.rsv]
    ++ toBytes 6 p.offset.toNat ++ toBytes 2 p.len.toNat ++ toBytes 2 p.slot.toNat ++ toBytes 4 p.count.toNat
    ++ toBytes 4 p.delta.toNat ++ toBytes 4 p.semid.toNat ++ p.payload

/-- A packet from its bytes. -/
def packetOf (bs : List Byte) : Packet :=
  let f (o n : Nat) : Nat := ofBytes ((bs.drop o).take n)
  { type := BitVec.ofNat 8 (f 0 1), fmt := BitVec.ofNat 8 (f 1 1), srcPeer := BitVec.ofNat 16 (f 2 2),
    dstFn := BitVec.ofNat 8 (f 4 1), status := BitVec.ofNat 8 (f 5 1), xfer := BitVec.ofNat 16 (f 6 2),
    region := BitVec.ofNat 8 (f 8 1), rsv := BitVec.ofNat 8 (f 9 1), offset := BitVec.ofNat 48 (f 10 6),
    len := BitVec.ofNat 16 (f 16 2), slot := BitVec.ofNat 16 (f 18 2), count := BitVec.ofNat 32 (f 20 4),
    delta := BitVec.ofNat 32 (f 24 4), semid := BitVec.ofNat 32 (f 28 4), payload := (bs.drop 32).take (f 16 2) }

/-- The bodies of a packet's flits: 228 bytes each, the last filled with zeros; `n` bounds how many. -/
def bodiesOf : Nat → List Byte → List (List Byte)
  | 0, _ => []
  | n + 1, bs =>
    let b := bs.take 228
    (b ++ List.replicate (228 - b.length) 0) :: (if bs.length ≤ 228 then [] else bodiesOf n (bs.drop 228))

/-- The data flits of a packet, their SEQ not yet given. -/
def flitsOf (vc vftag : Nat) (p : Packet) : List Flit :=
  (bodiesOf 300 (packetBytes p)).map (fun b => { vc := vc, vftag := vftag, body := b })

/-- Flits of a packet. -/
def flitCount (p : Packet) : Nat := (32 + p.len.toNat + 227) / 228

/-! ## Ports -/

/-- The local fabric interface (R27). -/
def localPort : Nat := 36

/-- The die of a port (R26); the local interface counts with die 0. -/
def dieOfPort (p : Nat) : Nat := if p < 36 then p / 9 else 0

/-- Port `p`. -/
def State.port (s : State) (p : Nat) : Port := sget {} s.fabric.ports p

/-- Change port `p`. -/
def State.onPort (s : State) (p : Nat) (g : Port → Port) : State :=
  { s with fabric := { s.fabric with ports := sset {} s.fabric.ports p (g (s.port p)) } }

/-- Change the fabric. -/
def State.onFabric (s : State) (g : Fabric → Fabric) : State := { s with fabric := g s.fabric }

/-- Credits of a VC and VFTAG: at least 4 flits are granted (R32). -/
def Port.credit (p : Port) (key : Nat) : Nat := sget 4 p.credits key

/-- The channel of a flit. -/
def flitKey (f : Flit) : Nat := f.vc * 64 + f.vftag

/-- Whether port `p` may carry flits of function `f` (R26). -/
def State.mayUse (s : State) (f p : Nat) : Bool :=
  decide (p = localPort) || (s.config.fabricOn && bmem (s.fn f).part.ports p && !(s.port p).retired)

/-- One flit of the queue goes out and joins the replay buffer, or stays: a data flit goes on a port that is its function's
(R26) and against a credit (R32); a flit of the link's own needs none (log 31). Every flit takes a SEQ, and at most 1,024
are kept (R39). -/
def pumpFlit (may : Nat → Bool) (acc : Port × List TxFlit × List Flit) (x : TxFlit) : Port × List TxFlit × List Flit :=
  let (p, keep, out) := acc
  let key := flitKey x.flit
  let data := decide (x.flit.type = 0)
  if decide (1024 ≤ p.replay.length) || keep.any (fun y => decide (flitKey y.flit = key))
      || (data && (decide (p.credit key = 0) || !may x.flit.vftag)) then (p, keep ++ [x], out)
  else
    let f := { x.flit with seq := p.txSeq, ackSeq := (p.rxSeq + 4095) % 4096 }
    ({ p with txSeq := (p.txSeq + 1) % 4096, replay := p.replay ++ [f],
              credits := if data then sset 4 p.credits key (p.credit key - 1) else p.credits }, keep, out ++ [f])

/-- Send what waits on port `p` and may go. -/
def State.pumpPort (s : State) (p : Nat) : State :=
  let q := s.port p
  if q.retired || q.retraining then s
  else
    let r := q.txq.foldl (pumpFlit (fun f => s.mayUse f p)) ({ q with txq := [] }, [], [])
    (s.onPort p (fun _ => { r.1 with txq := r.2.1 })).onFabric (fun f => { f with wire := f.wire ++ r.2.2.map (fun x => (p, x)) })

/-- Put a packet for a peer on a port; the local interface hands it to the receiver. -/
def State.putPacket (s : State) (p vc vftag peer : Nat) (pkt : Packet) : State :=
  if p = localPort then
    s.onFabric (fun f => { f with rx := f.rx ++ [{ port := p, vc := vc, vftag := vftag, pkt := pkt }] })
  else (s.onPort p (fun q => { q with
    txq := q.txq ++ (flitsOf vc vftag pkt).map (fun f => { flit := f, pkt := some (peer, pkt) }) })).pumpPort p

/-- A flit of no data on port `p`. -/
def State.putFlit (s : State) (p : Nat) (f : Flit) : State :=
  if decide (p = localPort) || (s.port p).retired then s
  else (s.onPort p (fun q => { q with txq := q.txq ++ [{ flit := f }] })).pumpPort p

/-! ## Routes and sending (R27) -/

/-- The ports that function `f` may use towards a peer. -/
def State.portsTo (s : State) (f peer : Nat) : List Nat :=
  if peer = s.fabric.peer then [localPort]
  else if !s.config.fabricOn then []
  else (upto 36).filter (fun p =>
    bmem (sget 0 s.fabric.routes peer) p && bmem (s.fn f).part.ports p && !(s.port p).retired)

/-- The port of a transfer's next packet: its ports take turns, packet by packet. -/
def State.nextPort (s : State) (t : Transfer) : Option Nat :=
  match s.portsTo t.fn t.peer with
  | [] => none
  | ps => some (ps.getD (t.turn % ps.length) 0)

/-- The transfer of a word. -/
def State.transferOf (s : State) (c r : Nat) (n : BitVec 32) : Option Transfer :=
  s.fabric.transfers.find? (fun t => decide (t.core = c ∧ t.ring = r ∧ t.seq = n))

/-- Change the transfer tagged `x`. -/
def State.onTransfer (s : State) (x : Nat) (g : Transfer → Transfer) : State :=
  s.onFabric (fun f => { f with transfers := f.transfers.map (fun t => if t.xfer = x then g t else t) })

/-- A transfer tag that no outstanding transfer has (Table 3-4). -/
def State.freshXfer (s : State) : Nat :=
  ((upto (s.fabric.transfers.length + 1)).map (fun i => (s.fabric.nextXfer + i) % 65536)).find?
    (fun x => s.fabric.transfers.all (fun t => decide (t.xfer ≠ x))) |>.getD 0

/-- Begin the transfer of a word. What this package as a receiver kept of an earlier transfer of its own with the tag is
over. -/
def State.beginTransfer (s : State) (c r : Nat) (n : BitVec 32) (peer : Nat) : State :=
  let x := s.freshXfer
  s.onFabric (fun f => { f with
    nextXfer := (x + 1) % 65536
    incoming := f.incoming.filter (fun i => decide (i.peer ≠ f.peer ∨ i.xfer ≠ x))
    transfers := f.transfers ++ [{ core := c, ring := r, seq := n, fn := (s.core c).fn, peer := peer, xfer := x }] })

/-- The transfer tagged `x`. -/
def State.transfer (s : State) (x : Nat) : Option Transfer := s.fabric.transfers.find? (fun t => decide (t.xfer = x))

/-- A transfer's packet has no port left: the transfer ends with PORT_LOST, whatever else of it is unanswered (R40,
Table 3-5). -/
def Transfer.lost (t : Transfer) : Transfer :=
  { t with status := some (min 6 (t.status.getD 6)), done := true, packets := t.packets.map (fun q => { q with answered := true }) }

/-- Send one packet of a transfer that has not ended, carrying `elems` elements. DESIGN CHOICE (log 31): a set of ports that becomes empty
after the transfer has begun ends the word with PORT_LOST, not with NO_ROUTE, which R27 gives to a word that sends
nothing. -/
def State.sendPacket (s : State) (x vc : Nat) (pkt : Packet) (elems : Nat) : State :=
  match s.transfer x with
  | none => s
  | some t =>
    if t.done then s else
    match s.nextPort t with
    | none => s.onTransfer x Transfer.lost
    | some p =>
      (s.onTransfer x (fun t => { t with turn := t.turn + 1, packets := t.packets ++ [{ pkt := pkt, port := p, vc := vc, elems := elems }] })).putPacket
        p vc t.fn t.peer pkt

/-- Send packet `i` of a transfer again, with its XFER and offset, where it is not answered yet: on its own port while its
function may use that, else on the next of the transfer's; PORT_LOST where none is left (R26, R40). -/
def State.sendAgain (s : State) (x i : Nat) : State :=
  match s.transfer x with
  | none => s
  | some t =>
    match t.packets[i]? with
    | none => s
    | some q =>
      if q.answered then s
      else if s.mayUse t.fn q.port then s.putPacket q.port q.vc t.fn t.peer q.pkt
      else match s.nextPort t with
        | some p =>
          (s.onTransfer x (fun t => { t with turn := t.turn + 1, packets := t.packets.modify i (fun q => { q with port := p }) })).putPacket
            p q.vc t.fn t.peer q.pkt
        | none => s.onTransfer x Transfer.lost

/-- Resend the packets of a transfer that are not answered and that `p` selects: all after an engine's reset (R155, R378),
those of a lost port (R40). -/
def State.resend (s : State) (x : Nat) (p : Sent → Bool) : State :=
  match s.transfer x with
  | none => s
  | some t => t.packets.zipIdx.foldl (fun (s : State) e => if p e.1 then s.sendAgain x e.2 else s) s

/-- The engines go on whose transfers have all their answers. -/
def State.wakeSenders (s : State) : State :=
  s.fabric.transfers.foldl (fun (s : State) t =>
    if decide (t.core < Config.cores) && t.done && t.packets.all Sent.answered then
      s.onRing t.core t.ring (fun g => if g.wait = .fabric then { g with wait := .none } else g)
    else s) s

/-! ## Answers (R36) -/

/-- The answer to a packet: an ACK, or a NAK with its status; it names the packet by XFER, REGION and OFFSET, and by COUNT
where that is a SIGNAL (log 29). -/
def answerOf (s : State) (vftag : Nat) (p : Packet) (status : Nat) : Packet :=
  { type := if status = 0 then 4 else 5, srcPeer := BitVec.ofNat 16 s.fabric.peer, dstFn := BitVec.ofNat 8 vftag,
    status := BitVec.ofNat 8 status, xfer := p.xfer, region := p.region, offset := p.offset,
    count := if p.type = 2 then p.count else 0 }

/-- Whether `a` answers the packet `p`. -/
def isAnswer (a p : Packet) : Bool :=
  decide (p.offset = a.offset ∧ (if p.type = 2 then p.count else 0) = a.count)

/-- Send an answer of function `f` to a peer: on the port its packet came by, else on another that `f` may use towards the
peer; while there is none it stays owed (R26, log 29). -/
def State.sendAnswer (s : State) (f peer port : Nat) (a : Packet) : State :=
  if s.mayUse f port then s.putPacket port 5 f peer a
  else match s.portsTo f peer with
    | p :: _ => s.putPacket p 5 f peer a
    | [] => s.onFabric (fun g => { g with owed := g.owed ++ [{ fn := f, peer := peer, port := port, pkt := a }] })

/-- Answer a packet of function `vftag` that came by `port`, on VC 5 (R36). -/
def State.answerPacket (s : State) (port vftag : Nat) (p : Packet) (status : Nat) : State :=
  s.sendAnswer (field p.dstFn 0 6) (field p.srcPeer 0 10) port (answerOf s vftag p status)

/-- Answers that are owed go out where a port has become usable. -/
def State.settleOwed (s : State) : State :=
  s.fabric.owed.foldl (fun (s : State) e => s.sendAnswer e.fn e.peer e.port e.pkt) (s.onFabric (fun g => { g with owed := [] }))

/-- What waits on port `p` of function `f`, which may not use the port any more: a packet none of whose flits has gone is
taken back, and every packet is sent again on another port (R26). What is left of one that has begun stays. -/
def State.leavePort (s : State) (f p : Nat) : State :=
  let mine (x : TxFlit) : Bool := decide (x.flit.type = 0 ∧ x.flit.vftag = f)
  let here := (s.port p).txq.filter mine
  let pkts := (here.filterMap TxFlit.pkt).eraseDups
  let whole (x : TxFlit) : Bool := match x.pkt with
    | some k => decide (flitCount k.2 ≤ (here.filter (fun y => decide (y.pkt = some k))).length)
    | none => false
  let s := s.onPort p (fun q => { q with txq := q.txq.filter (fun x => !(mine x && whole x)) })
  (pkts.foldl (fun (s : State) k =>
    if 4 ≤ k.2.type.toNat then s.sendAnswer f k.1 p k.2
    else s.resend k.2.xfer.toNat (fun q => decide (q.port = p ∧ q.pkt = k.2))) s).wakeSenders

/-- Leading elements that have been answered in order (R374). -/
def leadingElems : List Sent → Nat
  | [] => 0
  | q :: qs => if q.answered then q.elems + leadingElems qs else 0

/-- An answer with status code `status` (0: ACK) reaches the sender: the packet is answered; the word's mark counts the
leading complete elements; the engine goes on when the last answer is in. -/
def State.takeAnswer (s : State) (p : Packet) (status : Nat) : State :=
  match s.fabric.transfers.find? (fun t => decide (t.xfer = p.xfer.toNat ∧ t.fn = field p.dstFn 0 6 ∧ t.peer = field p.srcPeer 0 10)) with
  | none => s
  | some t =>
    match t.packets.findIdx? (fun q => !q.answered && isAnswer p q.pkt) with
    | none => s
    | some i =>
      let packets := t.packets.modify i (fun q => { q with answered := true })
      let s := s.onTransfer t.xfer (fun _ => { t with
        packets := packets
        status := if status = 0 then t.status else some (min status (t.status.getD status)) })
      -- the mark of a saved strand's word stays in its slot, and its packets are resent at the restore
      if Config.cores ≤ t.core then s else
      let m := s.mark t.core t.ring t.seq
      let done := leadingElems packets
      let s := s.setMark t.core t.ring t.seq done (markAwt m) (markDone m)
      s.onRing t.core t.ring (fun g => { g with
        wait := if t.done && packets.all Sent.answered && decide (g.wait = .fabric) then .none else g.wait
        resets := if g.rhead = t.seq ∧ markProg m ≠ done then 0 else g.resets })

/-! ## The receiver's checks (R33 to R35) -/

/-- Export entry `r` of function `f`. -/
def State.exportEntry (s : State) (f r : Nat) : Export := sget {} (s.fn f).exports r

/-- A header with a reserved type, a non-zero reserved bit, or a field that its type does not have (R34, Table 3-4). -/
def headerBad (p : Packet) : Bool :=
  decide (p.type = 0 ∨ 5 < p.type ∨ p.rsv ≠ 0 ∨ 1024 ≤ p.srcPeer.toNat ∨ 64 ≤ p.dstFn.toNat ∨ p.status ≠ 0)
    || (if p.type = 2 then decide (65536 ≤ p.semid.toNat) else decide (p.semid ≠ 0))

/-- The export entry that a packet is checked against: the one of its arrival (R33). -/
def State.entryFor (s : State) (p : RxPacket) : Export :=
  p.entry.getD (s.exportEntry (field p.pkt.dstFn 0 6) p.pkt.region.toNat)

/-- The status that refuses a packet of function `vftag` under an entry (R35), or none. -/
def Export.refusal (e : Export) (vftag : Nat) (p : Packet) : Option Nat :=
  if headerBad p then some 3
  else if !e.valid || !e.pairs.contains (field p.srcPeer 0 10, vftag) then some 2
  else if !(if p.type = 1 then e.write else if p.type = 2 then e.signal else e.reduce) then some 4
  else if e.length < p.offset.toNat + p.len.toNat then some 3
  else if p.type = 2 && !decide (e.semBase ≤ p.semid.toNat ∧ p.semid.toNat < e.semBase + e.semCnt) then some 3
  else none


/-- `n` credits of a VC and VFTAG go back to the sender (R32). -/
def State.giveCredits (s : State) (port vc vftag n : Nat) : State :=
  s.putFlit port { vftag := vftag, vc := 7, type := 1, crvc := vc, crcnt := n }

/-- A packet that has landed or been rejected gives back the credits it still held. DESIGN CHOICE (log 31): a packet holds
the credits of at most 4 of its flits, the buffer that R32 grants, and those of the others go back as they come in. -/
def State.returnCredit (s : State) (p : RxPacket) : State := s.giveCredits p.port p.vc p.vftag (min 4 (flitCount p.pkt))

/-! ## Incoming transfers (R37) -/

/-- The record of an incoming transfer. -/
def State.incomingOf (s : State) (peer xfer : Nat) : Option Incoming :=
  s.fabric.incoming.find? (fun i => decide (i.peer = peer ∧ i.xfer = xfer))

/-- A record that a transfer of the same peer with tag `xfer` outlives: no SIGNAL is held for it, and its tag lies half of
all tags or more behind (log 30). -/
def Incoming.stale (i : Incoming) (peer xfer : Nat) : Bool :=
  decide (i.peer = peer ∧ 32768 ≤ (xfer + 65536 - i.xfer) % 65536) && i.signal.isNone

/-- Change an incoming transfer, which begins here if it is new. -/
def State.onIncoming (s : State) (peer xfer fn : Nat) (g : Incoming → Incoming) : State :=
  let i : Incoming := (s.incomingOf peer xfer).getD { peer := peer, xfer := xfer, fn := fn }
  s.onFabric (fun f => { f with
    incoming := f.incoming.filter (fun j => decide (j.peer ≠ peer ∨ j.xfer ≠ xfer) && !j.stale peer xfer) ++ [g i] })

/-- Whether an answer to a peer's transfer is still on its way: owed, waiting at a port, or sent and not acknowledged. -/
def State.answerOut (s : State) (peer xfer : Nat) : Bool :=
  let names (a : Packet) : Bool := decide (4 ≤ a.type.toNat ∧ a.xfer.toNat = xfer)
  s.fabric.owed.any (fun e => decide (e.peer = peer) && names e.pkt)
    || s.fabric.ports.any (fun e => e.2.txq.any (fun x => match x.pkt with
        | some (q, a) => decide (q = peer) && names a
        | none => false)
      || e.2.replay.any (fun f => decide (f.type = 0 ∧ f.vc = 5) && names (packetOf f.body)))
    || (decide (peer = s.fabric.peer) && s.fabric.rx.any (fun r => names r.pkt))

/-- Whether a packet belongs to a new transfer of its peer, and the one that the record is of is over: the packet, or the
transfer's SIGNAL, has been answered and every answer has reached the peer, which sends again only what has no answer
and gives one tag to one outstanding transfer (R155, Table 3-4; log 30). -/
def State.tagReused (s : State) (p : Packet) : Bool :=
  let peer := field p.srcPeer 0 10
  match s.incomingOf peer p.xfer.toNat with
  | none => false
  | some i =>
    let known := (if i.reduce then i.summed else i.landed).contains p.offset.toNat || i.refused.any (fun e => decide (e.1 = p.offset.toNat))
    decide (p.type.toNat < 4) && !i.unsure && i.signal.isNone && (i.answered.isSome || (decide (p.type ≠ 2) && known))
      && !s.answerOut peer p.xfer.toNat

/-- The packet in reception that an event names leaves the receive buffer; one of a new transfer begins its record. -/
def State.takeRx (s : State) (port vftag : Nat) (pkt : Packet) : State × RxPacket :=
  let s := if s.tagReused pkt then s.onFabric (fun f => { f with
      incoming := f.incoming.filter (fun i => decide (i.peer ≠ field pkt.srcPeer 0 10 ∨ i.xfer ≠ pkt.xfer.toNat)) }) else s
  match s.fabric.rx.find? (fun e => decide (e.port = port ∧ e.vftag = vftag ∧ e.pkt = pkt)) with
  | none => (s, { port := port, vc := 0, vftag := vftag, pkt := pkt })
  | some e => (s.onFabric (fun f => { f with rx := f.rx.erase e }), e)

/-- Note that an offset of a transfer has landed; each counts once (R155). -/
def State.landOffset (s : State) (p : Packet) (reduce : Bool) : State :=
  s.onIncoming (field p.srcPeer 0 10) p.xfer.toNat (field p.dstFn 0 6) (fun i => { i with
    landed := if i.landed.contains p.offset.toNat then i.landed else i.landed ++ [p.offset.toNat]
    reduce := i.reduce || reduce })

/-- Note that a data packet of a transfer has been rejected: its offset counts as answered, and the transfer's SIGNAL is
not applied (R36). -/
def State.refuseOffset (s : State) (p : Packet) (status : Nat) : State :=
  if p.type = 1 ∨ p.type = 3 then
    s.onIncoming (field p.srcPeer 0 10) p.xfer.toNat (field p.dstFn 0 6) (fun i => { i with
      landed := i.landed.filter (fun o => decide (o ≠ p.offset.toNat))
      refused := i.refused.filter (fun e => decide (e.1 ≠ p.offset.toNat)) ++ [(p.offset.toNat, status)] })
  else s

/-- A packet is answered with a NAK and leaves its buffer. -/
def State.reject (s : State) (p : RxPacket) (status : Nat) : State :=
  ((s.refuseOffset p.pkt status).answerPacket p.port p.vftag p.pkt status).returnCredit p

/-- Whether every data packet of a transfer whose SIGNAL is held has landed, in a reduction been summed, or been rejected. -/
def Incoming.due (i : Incoming) : Bool :=
  match i.signal with
  | none => false
  | some x => decide (x.pkt.count.toNat ≤ (if i.reduce then i.summed else i.landed).length + i.refused.length)

/-- The pages under bytes at a VA of context `x` of function `f`; `n` bounds how many. `clean`: the clean pages among those
before, each of which takes an entry of the dirty log (R88). -/
def State.pagesFrom (s : State) (f x : Nat) : Nat → Nat → Nat → Nat → Chk (List (Trans × Nat × Nat))
  | 0, _, _, _ => .ok []
  | n + 1, clean, va, len =>
    if len = 0 then .ok []
    else match walk s f x (va % 2 ^ 57) .write with
      | .error e => .error (stopWalk (va % 2 ^ 57) .write e)
      | .ok t =>
        let k := min len (4096 - va % 4096)
        let v := va % 2 ^ 57
        let here := if s.cleanPage f t then clean + 1 else clean
        if s.cleanPage f t && decide ((s.fn f).dlog.room < here) then .error .stall
        else match (linesOf v k).foldlM (fun (_ : Unit) l => s.engCheck f t (max v (64 * l)) 1 true false) () with
        | .error e => .error e
        | .ok _ =>
          match State.pagesFrom s f x n here (va + k) (len - k) with
          | .error e => .error e
          | .ok rest => .ok ((t, v, k) :: rest)

/-- The pages under a packet's bytes: nothing is written unless every page translates and the log has room for all. -/
def State.pagesFor (s : State) (f x n va len : Nat) : Chk (List (Trans × Nat × Nat)) := s.pagesFrom f x n 0 va len

/-- Write the bytes of a packet through its pages, past the caches (R101). -/
def State.writePages (s : State) (f : Nat) : List (Trans × Nat × Nat) → List Byte → State
  | [], _ => s
  | (t, va, k) :: rest, bs => State.writePages (s.writeUncached f t va (bs.take k)) f rest (bs.drop k)

/-- What the receiver does with a packet whose target cannot be reached: it waits in its buffer on the fault (R34), waits
for a line or the dirty log, or is rejected after an integrity failure. -/
def State.holdPacket (s : State) (p : RxPacket) (e : Export) (x : Stop) : State :=
  let f := field p.pkt.dstFn 0 6
  let p := { p with entry := some e }
  match x with
  | .walk va acc w => (s.fault (.packet p) none (dieOfPort p.port) f e.ctx va acc w).1
  | .integrity dpa => (s.integrityFail f dpa none).reject p 3
  | _ => s.onFabric (fun g => { g with held := g.held ++ [p] })

/-- The pages that a packet lands in. -/
def State.packetPages (s : State) (p : RxPacket) : Chk (List (Trans × Nat × Nat)) :=
  let e := s.entryFor p
  s.pagesFor (field p.pkt.dstFn 0 6) e.ctx 20 (e.base + p.pkt.offset.toNat) p.pkt.len.toNat

/-- The reduction slot of a region and slot number. -/
def State.redSlot (s : State) (f region slot : Nat) : Option RedSlot :=
  (s.fn f).redSlots.find? (fun r => decide (r.region = region ∧ r.slot = slot))

/-- Whether all 256 reduction slots of a die for a function are held (R37). -/
def State.slotsFull (s : State) (f die : Nat) : Bool :=
  decide (256 ≤ ((s.fn f).redSlots.filter (fun r => decide (r.die = die) && !r.dead)).length)

/-- Whether a REDUCE packet needs a slot of its die and none is free. DESIGN CHOICE (log 30): it waits in its buffer; the
spec gives no status for it. -/
def State.awaitsSlot (s : State) (p : RxPacket) : Bool :=
  let f := field p.pkt.dstFn 0 6
  decide (p.pkt.type = 3) && (s.redSlot f p.pkt.region.toNat p.pkt.slot.toNat).isNone && s.slotsFull f (dieOfPort p.port)

/-- Packets that wait for a line, the dirty log or a reduction slot go on where they can. -/
def State.settleHeld (s : State) : State :=
  let waits (p : RxPacket) : Bool := s.awaitsSlot p || match s.packetPages p with
    | .error .stall | .error (.become _) | .error (.again _) | .error (.event _ _) => true
    | _ => false
  s.onFabric (fun f => { f with rx := f.rx ++ f.held.filter (fun p => !waits p), held := f.held.filter waits })

/-- FABRIC_WRITE_PACKET (R35): checks, translation, landing, the answer. -/
def execFabricWritePacket (port vftag : Nat) (pkt : Packet) (s : State) : Out :=
  let (s, p) := s.takeRx port vftag pkt
  let e := s.entryFor p
  .next (match e.refusal vftag pkt with
    | some st => s.reject p st
    | none =>
      match s.packetPages p with
      | .error x => s.holdPacket p e x
      | .ok pages =>
        (((s.writePages (field pkt.dstFn 0 6) pages pkt.payload).landOffset pkt false).answerPacket port vftag pkt 0).returnCredit p)

/-- FABRIC_SIGNAL_PACKET (R37): checked, then held until its data packets have landed. One that comes again after its
answer is answered the same way. -/
def execFabricSignalPacket (port vftag : Nat) (pkt : Packet) (s : State) : Out :=
  let (s, p) := s.takeRx port vftag pkt
  let e := s.entryFor p
  .next (match e.refusal vftag pkt with
    | some st => s.reject p st
    | none =>
      match (s.incomingOf (field pkt.srcPeer 0 10) pkt.xfer.toNat).bind Incoming.answered with
      | some st => (s.answerPacket port vftag pkt st).returnCredit p
      | none => (s.onIncoming (field pkt.srcPeer 0 10) pkt.xfer.toNat (field pkt.dstFn 0 6) (fun i =>
          { i with signal := some { p with entry := some e } })).returnCredit p)

/-- The SIGNAL of an incoming transfer is answered, and no longer held. -/
def State.answerSignal (s : State) (i : Incoming) (p : RxPacket) (status : Nat) : State :=
  (s.onIncoming i.peer i.xfer i.fn (fun i => { i with signal := none, answered := some status })).answerPacket p.port p.vftag p.pkt status

/-- FABRIC_SIGNAL_APPLY (R37): DELTA is added to the semaphore on the die that the entry's SEMDIE names, then the ACK. Where
a data packet was rejected, the signal is not applied, and its NAK carries the lowest of their codes (R36, log 29). One whose
SEMDIE names no local die by then is acknowledged and adds nothing (log 99). -/
def execFabricSignalApply (peer xfer : Nat) (s : State) : Out :=
  .next (match s.incomingOf peer xfer with
    | none => s
    | some i =>
      match i.signal with
      | none => s
      | some p =>
        if !i.due then s
        else match i.refused with
          | e :: es => s.answerSignal i p (es.foldl (fun m x => min m x.2) e.2)
          | [] =>
            let s := match localDie (some ((s.fn i.fn).guest (s.entryFor p).semDie)) with
              | some d => s.semAdd (semKey d p.pkt.semid.toNat) p.pkt.delta.toInt
              | none => s
            s.answerSignal i p 0)

/-- The held SIGNALs of transfers to function `f` are answered PURGED, and their records go (R41, Table 3-5). -/
def State.purgeIncoming (s : State) (f : Nat) : State :=
  let s := s.fabric.incoming.foldl (fun (s : State) i => match i.signal with
    | some p => if i.fn = f then s.answerPacket p.port p.vftag p.pkt 7 else s
    | none => s) s
  s.onFabric (fun g => { g with incoming := g.incoming.filter (fun i => decide (i.fn ≠ f)) })

/-! ## Reduction slots (R38) -/

/-- Put a reduction slot in place of the one with its name. -/
def State.putSlot (s : State) (f : Nat) (r : RedSlot) : State :=
  s.onFn f (fun x => { x with redSlots := x.redSlots.filter (fun q => decide (q.region ≠ r.region ∨ q.slot ≠ r.slot)) ++ [r] })

/-- Free a reduction slot. -/
def State.freeSlot (s : State) (f region slot : Nat) : State :=
  s.onFn f (fun x => { x with redSlots := x.redSlots.filter (fun q => decide (q.region ≠ region ∨ q.slot ≠ slot)) })

/-- The packet of a part as it is answered: its XFER, region, offset and length. -/
def Part.packet (a : Part) (f : Nat) (r : RedSlot) (c : Contribution) : Packet :=
  { type := 3, srcPeer := BitVec.ofNat 16 c.peer, dstFn := BitVec.ofNat 8 f, xfer := BitVec.ofNat 16 c.xfer,
    region := BitVec.ofNat 8 r.region, offset := BitVec.ofNat 48 a.offset, len := BitVec.ofNat 16 a.bytes.length }

/-- Answer every packet held in a slot; a status other than 0 rejects them. -/
def State.answerSlot (s : State) (f : Nat) (r : RedSlot) (status : Nat) : State :=
  r.contribs.foldl (fun (s : State) c => c.parts.foldl (fun (s : State) a =>
    let p := a.packet f r c
    (if status = 0 then s else s.refuseOffset p status).answerPacket a.port a.vftag p status) s) s

/-- The payload formats of a reduction. -/
def reduceFmt (code : Nat) : Option Fmt :=
  match codeFmt8 code with
  | some .bf16 => some .bf16
  | some .i8 => some .i8
  | some (.b8 p s e) => some (.b8 p s e)
  | _ => none
where
  /-- A format code that is neither reserved nor 0x3F. -/
  codeFmt8 (code : Nat) : Option Fmt := if code < 64 then fmtOf (BitVec.ofNat 6 code) else none

/-- FABRIC_REDUCE_PACKET (R38): it forms or joins a slot, or is rejected. Its answer follows when the slot completes, is
refused or is purged (log 30). A SLOT, n or FMT out of range is SLOT_MISMATCH (log 100). -/
def execFabricReducePacket (port vftag : Nat) (pkt : Packet) (s : State) : Out :=
  let (s, p) := s.takeRx port vftag pkt
  let f := field pkt.dstFn 0 6
  let e := s.entryFor p
  .next (match e.refusal vftag pkt with
    | some st => s.reject p st
    | none =>
      let n := field pkt.count 0 8
      let ix := field pkt.count 8 8
      let peer := field pkt.srcPeer 0 10
      if 255 < pkt.slot.toNat ∨ n < 2 ∨ 16 < n ∨ n ≤ ix ∨ (reduceFmt pkt.fmt.toNat).isNone then s.reject p 5
      else
        let old := s.redSlot f pkt.region.toNat pkt.slot.toNat
        let mine (c : Contribution) : Bool := decide (c.peer = peer ∧ c.xfer = pkt.xfer.toNat)
        -- a refused collective stays until each of its contributors has been seen
        let old := match old with
          | some r => if r.dead && decide (r.n ≤ r.contribs.length) && !r.contribs.any mine then none else some r
          | none => none
        let r : RedSlot := old.getD { region := pkt.region.toNat, slot := pkt.slot.toNat, die := dieOfPort port, n := n, fmt := pkt.fmt.toNat, entry := e }
        -- a resent packet of a contribution that is summed already counts no second time (R375)
        let done := match s.incomingOf peer pkt.xfer.toNat with
          | some i => i.summed.contains pkt.offset.toNat
          | none => false
        if done then (s.answerPacket port vftag pkt 0).returnCredit p
        else if s.awaitsSlot p then s.holdPacket p e .stall
        else if r.dead then
          (s.putSlot f { r with contribs := if r.contribs.any mine then r.contribs
                                            else r.contribs ++ [{ index := ix, peer := peer, xfer := pkt.xfer.toNat }] }).reject p 5
        else if r.n ≠ n ∨ r.fmt ≠ pkt.fmt.toNat then
          let s := (s.answerSlot f r 5).putSlot f { r with
            dead := true, contribs := (r.contribs.map (fun c => { c with parts := [] }))
              ++ (if r.contribs.any mine then [] else [{ index := ix, peer := peer, xfer := pkt.xfer.toNat }]) }
          s.reject p 5
        else if r.contribs.any (fun c => decide (c.index = ix) && !mine c) then s.reject p 5
        else match s.packetPages p with
          | .error x => s.holdPacket p e x
          | .ok _ =>
            let part : Part := { offset := pkt.offset.toNat, bytes := pkt.payload, port := port, vftag := vftag }
            let add (c : Contribution) : Contribution :=
              if c.parts.any (fun a => decide (a.offset = part.offset)) then c else { c with parts := c.parts ++ [part] }
            let cs := if r.contribs.any mine then r.contribs.map (fun c => if mine c then add c else c)
              else r.contribs ++ [{ index := ix, peer := peer, xfer := pkt.xfer.toNat, parts := [part] }]
            ((s.putSlot f { r with contribs := cs }).landOffset pkt true).returnCredit p)

/-- The bytes a contribution covers: lowest offset, bytes, and whether they are dense. -/
def Contribution.span (c : Contribution) : Nat × Nat × Bool :=
  let lo := c.parts.foldl (fun m a => min m a.offset) (2 ^ 48)
  let hi := c.parts.foldl (fun m a => max m (a.offset + a.bytes.length)) 0
  let n := c.parts.foldl (fun m a => m + a.bytes.length) 0
  (lo, hi - lo, decide (hi - lo = n))

/-- Every contributor is present and covers the same dense bytes. -/
def RedSlot.full (r : RedSlot) : Bool :=
  decide (r.contribs.length = r.n) && r.contribs.all (fun c => c.span.2.2)
    && (match r.contribs with
        | [] => false
        | c :: cs => cs.all (fun d => decide (d.span = c.span)))

/-- The terms of the element at byte `o`: port, index and value, of every contribution. -/
def RedSlot.terms (r : RedSlot) (f : Fmt) (o : Nat) : List (Nat × Nat × Val) :=
  r.contribs.filterMap (fun c =>
    (c.parts.find? (fun a => decide (a.offset ≤ o ∧ o < a.offset + a.bytes.length))).map (fun a =>
      (a.port, c.index, f.val (ofBytes ((a.bytes.drop (o - a.offset)).take f.bytes)))))

/-- Insert a term in ascending (port, index) order. -/
def insertTerm (t : Nat × Nat × Val) : List (Nat × Nat × Val) → List (Nat × Nat × Val)
  | [] => [t]
  | u :: us => if t.1 < u.1 ∨ (t.1 = u.1 ∧ t.2.1 < u.2.1) then t :: u :: us else u :: insertTerm t us

/-- The sum of terms in order, each addition rounded to FP32 (R38 step 2). -/
def sumTerms : List (Nat × Nat × Val) → Val × NumFlags
  | [] => (.zero false, 0)
  | t :: ts => ts.foldl (fun (p : Val × NumFlags) (u : Nat × Nat × Val) =>
      let r := finish .f32 .rne false 0 (vadd p.1 u.2.2)
      (Fmt.f32.val r.1, p.2 ||| r.2)) (t.2.2, 0)

/-- The result bytes and flags of a slot (R38 steps 1 to 3). -/
def RedSlot.result (r : RedSlot) (f : Fmt) (lo len : Nat) : List Byte × NumFlags :=
  (upto (len / f.bytes)).foldl (fun (p : List Byte × NumFlags) i =>
    let v := sumTerms ((r.terms f (lo + i * f.bytes)).foldl (fun l t => insertTerm t l) [])
    let o := finish f .rne false 0 v
    (p.1 ++ toBytes f.bytes o.1, p.2 ||| o.2)) ([], 0)

/-- COUNT of the SIGNAL held for a contribution. -/
def State.countOf (s : State) (c : Contribution) : Option Nat :=
  (s.incomingOf c.peer c.xfer).bind (fun i => i.signal.map (fun p => p.pkt.count.toNat))

/-- Offsets of a contribution that have landed. -/
def State.landedOf (s : State) (c : Contribution) : Nat := ((s.incomingOf c.peer c.xfer).map (fun i => i.landed.length)).getD 0

/-- Whether the packets themselves say that a contribution has fully landed: its SIGNAL's COUNT, or the end of a transfer
of this package (log 30). -/
def State.closed (s : State) (c : Contribution) : Bool :=
  (match s.countOf c with
   | some n => decide (n ≤ s.landedOf c)
   | none => false)
  || decide (c.peer = s.fabric.peer) && (match s.transfer c.xfer with
      | some t => t.done && decide (t.peer = s.fabric.peer)
          && t.packets.all (fun q => decide (q.pkt.type = 2) || c.parts.any (fun a => decide (a.offset = q.pkt.offset.toNat)))
      | none => false)

/-- Whether packets of a contribution are known to be still to come: its SIGNAL's COUNT says so, or its transfer is of this
package and has more to send. -/
def State.unfinished (s : State) (c : Contribution) : Bool :=
  ((s.countOf c).isSome || decide (c.peer = s.fabric.peer)) && !s.closed c

/-- Every contributor of a slot is present, and of none are packets known to be still to come. -/
def State.slotReady (s : State) (r : RedSlot) : Bool :=
  !r.dead && r.fid.isNone && decide (r.n ≤ r.contribs.length) && r.contribs.all (fun c => !s.unfinished c)

/-- Whether contributions of a slot disagree for certain: one that has fully landed has a gap, or another has bytes outside
its own or has fully landed with other bytes. -/
def State.slotDisagrees (s : State) (r : RedSlot) : Bool :=
  r.contribs.any (fun c => s.closed c && (!c.span.2.2 || r.contribs.any (fun d =>
    decide (d.span.1 < c.span.1 ∨ c.span.1 + c.span.2.1 < d.span.1 + d.span.2.1) || (s.closed d && decide (d.span ≠ c.span)))))

/-- The pages that the sum of a slot is written to. -/
def State.slotPages (s : State) (fn : Nat) (r : RedSlot) (lo len : Nat) : Chk (List (Trans × Nat × Nat)) :=
  s.pagesFor fn r.entry.ctx 300 (r.entry.base + lo) len

/-- Whether a slot completes by itself: all its contributions have fully landed or disagree for certain, and its pages do
not make it wait (R38). -/
def State.slotDue (s : State) (fn : Nat) (r : RedSlot) : Bool :=
  s.slotReady r && (if r.full then r.contribs.all s.closed && (match r.contribs with
      | c :: _ => (match s.slotPages fn r c.span.1 c.span.2.1 with
        | .ok _ | .error (.walk _ _ _) | .error (.integrity _) => true
        | .error _ => false)
      | [] => false)
    else s.slotDisagrees r)

/-- The sum of a slot is written, the slot freed, the contributors' offsets summed, and every packet answered. -/
def State.finishSlot (s : State) (fn : Nat) (r : RedSlot) (f : Fmt) (lo len : Nat) (pages : List (Trans × Nat × Nat)) : State :=
  let x := r.result f lo len
  let s := ((s.writePages fn pages x.1).orCtxFlags r.entry.ctx x.2).freeSlot fn r.region r.slot
  let s := r.contribs.foldl (fun (s : State) c => s.onIncoming c.peer c.xfer fn (fun i =>
    { i with summed := i.summed ++ c.parts.map Part.offset })) s
  s.answerSlot fn r 0

/-- REDUCTION_SLOT_COMPLETE (R38): the sum in port order is written, the slot freed, the contributors' signals become
due; contributions that disagree in offset or length are all rejected. A page that does not translate is a fault on which
the slot waits (R34), and an integrity failure rejects every contribution (R106). -/
def execReductionSlotComplete (fn _die region slot : Nat) (s : State) : Out :=
  .next (match s.redSlot fn region slot with
    | none => s
    | some r =>
      if !s.slotReady r then s
      else if !r.full then
        (s.answerSlot fn r 5).putSlot fn { r with dead := true, contribs := r.contribs.map (fun c => { c with parts := [] }) }
      else match reduceFmt r.fmt, r.contribs with
        | some f, c :: _ =>
          match s.slotPages fn r c.span.1 c.span.2.1 with
          | .ok pages => s.finishSlot fn r f c.span.1 c.span.2.1 pages
          | .error (.walk va acc w) =>
            let x := s.fault (.slot fn region slot) none r.die fn r.entry.ctx va acc w
            x.1.putSlot fn { r with fid := some x.2 }
          | .error (.integrity dpa) => ((s.integrityFail fn dpa none).answerSlot fn r 3).freeSlot fn region slot
          | .error _ => s
        | _, _ => s)

/-- Reject with PURGED every contribution held for function `f`, in slots that `p` selects (R38, R41). -/
def State.purgeSlots (s : State) (f : Nat) (p : RedSlot → Bool) : State :=
  ((s.fn f).redSlots.filter p).foldl (fun (s : State) r => (s.answerSlot f r 7).freeSlot f r.region r.slot) s

/-! ## Answers arriving (R36) -/

/-- FABRIC_ACK (R36). -/
def execFabricAck (port vftag : Nat) (pkt : Packet) (s : State) : Out :=
  let (s, p) := s.takeRx port vftag pkt
  .next ((s.takeAnswer pkt 0).returnCredit p)

/-- FABRIC_NAK (R36). -/
def execFabricNak (port vftag : Nat) (pkt : Packet) (s : State) : Out :=
  let (s, p) := s.takeRx port vftag pkt
  .next ((s.takeAnswer pkt pkt.status.toNat).returnCredit p)

/-! ## Links (R39, R40) -/

/-- A flit counted in the bank of its port's die: its SEQ, or the SEQ awaited where it cannot be read (R40, R258, log 81). -/
def State.countFlit (s : State) (port fn seq : Nat) (ue : Bool) : State :=
  s.bankError (dieOfPort port) 15 { cause := 0, kind := 13, unit := BitVec.ofNat 16 port, fn := BitVec.ofNat 6 fn,
                                    addr := BitVec.ofNat 64 seq } ue

/-- Ask for the flit expected next to be sent again: the one after ACKSEQ (Table 3-2, log 29). -/
def State.askRetry (s : State) (port : Nat) : State :=
  (s.onPort port (fun q => { q with rxLost := true })).putFlit port { vc := 7, type := 2 }

/-- The sender keeps only the flits after ACKSEQ. -/
def Port.acked (p : Port) (a : Nat) : Port :=
  match p.replay.findIdx? (fun f => decide (f.seq = a)) with
  | some i => { p with replay := p.replay.drop (i + 1), retries := 0 }
  | none => p

/-- Resend from the flit with SEQ `seq` onwards; the 16th retry of one flit leaves the port to retrain. Flits that a PART_SET
took the port from are resent too (log 97). -/
def State.retryFrom (s : State) (port seq : Nat) : State :=
  let q := s.port port
  if q.retired || q.retraining then s
  else
    let again := q.replay.dropWhile (fun f => decide (f.seq ≠ seq))
    (s.onPort port (fun q => { q with retrySeq := seq, retries := if q.retrySeq = seq then q.retries + 1 else 1 })).onFabric
      (fun g => { g with wire := g.wire ++ again.map (fun f => (port, f)) })

/-- A data flit in order joins its packet; a packet that is whole waits for its checks. A LEN above 2,048 is taken as it
stands (log 98). -/
def State.takeData (s : State) (port : Nat) (f : Flit) : State :=
  let k := flitKey f
  let bs := sget [] (s.port port).assembly k ++ f.body
  let need := 32 + ofBytes ((bs.drop 16).take 2)
  let whole := decide (need ≤ bs.length)
  let s := s.onPort port (fun q => { q with assembly := sset [] q.assembly k (if whole then [] else bs) })
  if whole then
    s.onFabric (fun g => { g with rx := g.rx ++ [{ port := port, vc := f.vc, vftag := f.vftag, pkt := packetOf (bs.take need) }] })
  else if 4 ≤ bs.length / 228 then s.giveCredits port f.vc f.vftag 1
  else s

/-- A flit in order is taken: what it acknowledges, the credits it returns, and what it carries. -/
def State.takeFlit (s : State) (port : Nat) (f : Flit) : State :=
  let key := f.crvc * 64 + f.vftag
  let s := (s.onPort port (fun q => { q.acked f.ackSeq with
    rxSeq := (q.rxSeq + 1) % 4096, rxLost := false
    credits := if f.crcnt = 0 then q.credits else sset 4 q.credits key (q.credit key + f.crcnt) })).pumpPort port
  if f.type = 2 then s.retryFrom port ((f.ackSeq + 1) % 4096)
  else if f.type = 1 then s
  else s.takeData port f

/-- FLIT_RECEIVE (R30, R39, R40): the 256 bytes are corrected and checked. A flit that cannot be read is asked for again; a
copy of one received before is dropped; after a gap every flit is dropped, the first of them asks again, and a retry
request is still heeded (log 29). -/
def execFlitReceive (port : Nat) (raw : List Byte) (s : State) : Out :=
  let q := s.port port
  .next (if q.retired || !s.config.fabricOn || decide (36 ≤ port) then s
  else match readFlit raw with
    | none => (s.countFlit port 0 q.rxSeq true).askRetry port
    | some (f, corrected) =>
      let s := if corrected then s.countFlit port f.vftag f.seq false else s
      if f.seq = q.rxSeq then s.takeFlit port f
      else if (q.rxSeq + 4096 - f.seq) % 4096 ≤ 2048 then s
      else
        let s := if q.rxLost then s else s.askRetry port
        if f.type = 2 then s.retryFrom port ((f.ackSeq + 1) % 4096) else s)

/-- RETRY_REQUEST_RECEIVE (R40). -/
def execRetryRequestReceive (port seq : Nat) (s : State) : Out := .next (s.retryFrom port seq)

/-- PORT_RETRAIN (R40): no flit is lost. -/
def execPortRetrain (port : Nat) (s : State) : Out :=
  .next (if (s.port port).retired then s else s.onPort port (fun q => { q with retraining := true }))

/-- The transfers that port `p` was carrying an answer of: their packets may come again. -/
def State.doubtAnswers (s : State) (p : Nat) : State :=
  let q := s.port p
  let tags := q.txq.filterMap (fun x => x.pkt.map (fun a => a.2.xfer.toNat))
    ++ (q.replay.filter (fun f => decide (f.type = 0 ∧ f.vc = 5))).map (fun f => (packetOf f.body).xfer.toNat)
  s.onFabric (fun g => { g with incoming := g.incoming.map (fun i => if tags.contains i.xfer then { i with unsure := true } else i) })

/-- A port is retired (R28, R40): it leaves every route mask, event 3 is posted to the PF, and unanswered packets go to
the remaining ports of their routes. -/
def State.retirePort (s : State) (port : Nat) : State :=
  let s := s.doubtAnswers port
  let s := s.onPort port (fun q => { q with retired := true, retraining := false, txq := [], replay := [], assembly := [] })
  let s := s.onFabric (fun f => { f with routes := (f.routes.map (fun e => (e.1, bclr e.2 port))).filter (fun e => decide (e.2 ≠ 0)) })
  let s := s.event 0 3 port
  (s.fabric.transfers.foldl (fun (s : State) t => s.resend t.xfer (fun q => decide (q.port = port))) s).wakeSenders

/-- PORT_RETRAIN_DONE (R40): of a port that retrains, the replay buffer is resent, or the port is retired. -/
def execPortRetrainDone (port : Nat) (ok : Bool) (s : State) : Out :=
  let q := s.port port
  .next (if !q.retraining || q.retired then s
    else if ok then
      ((s.onPort port (fun q => { q with retraining := false, retries := 0 })).onFabric
        (fun g => { g with wire := g.wire ++ q.replay.map (fun f => (port, f)) })).pumpPort port
    else s.retirePort port)

end Sys2Proof.Machine
end

