-- ==== Sys2Proof/Machine/Power.lean ====
section
/-! DEFINITION. Die power states (R20 to R25) and the registers of the error banks as words (R259). -/

namespace Sys2Proof.Machine

/-- The power registers of die `d`. -/
def State.pow (s : State) (d : Nat) : DiePower := sget {} s.power d

/-- Change the power registers of die `d`. -/
def State.onPow (s : State) (d : Nat) (g : DiePower → DiePower) : State :=
  { s with power := sset {} s.power d (g (s.pow d)) }

/-- Nominal voltage of a state, in mV (Table 2-2). -/
def nominal (p : BitVec 2) : Nat := if p = 0 then 800 else if p = 1 then 720 else if p = 2 then 650 else 580

/-- The die's voltage floor, in mV (R22). -/
def State.floorMv (s : State) (d : Nat) : Nat := sget 0 s.config.floors d

/-- The clamp state: P3, or the lowest state whose nominal voltage is not below the floor (R23). -/
def clampState (floor : Nat) : BitVec 2 :=
  if floor ≤ 580 then 3 else if floor ≤ 650 then 2 else if floor ≤ 720 then 1 else 0

/-- The first phase of a change to `t`: an up-step raises the voltage first, a down-step lowers the clock first; where
only the voltage stands higher it comes down (R21). -/
def DiePower.moveTo (p : DiePower) (t : BitVec 2) : DiePower :=
  if t < p.cur then { p with goal := t, phase := .raising }
  else if p.cur < t then { p with goal := t, phase := .switchingDown }
  else if p.vmv.toNat ≠ nominal p.cur then { p with goal := t, phase := .lowering }
  else { p with goal := t, phase := .steady }

/-- The state that a die with this floor should run in: under the clamp at most the clamp state, else the last accepted
target (R21, R23). -/
def DiePower.wanted (p : DiePower) (floor : Nat) : BitVec 2 :=
  if p.clamp then (if p.cur < clampState floor then clampState floor else p.cur) else p.req

/-- Start the change that is due, if any. -/
def State.nextPower (s : State) (d : Nat) : State := s.onPow d (fun p => p.moveTo (p.wanted (s.floorMv d)))

/-- A write to PSREQd. Under the clamp it is recorded as HELD; a target below the floor is denied; a
transition in progress answers BUSY; else it is accepted and the change begins (R22, R23, Table 2-4). -/
def State.requestPower (s : State) (d : Nat) (target : BitVec 2) : State :=
  let s := s.onPow d (fun p => { p with target := target })
  let p := s.pow d
  if p.clamp then s.onPow d (fun p => { p with req := target, result := 3 })
  else if nominal target < s.floorMv d then s.onPow d (fun p => { p with result := 1 })
  else if p.phase ≠ .steady then s.onPow d (fun p => { p with result := 2 })
  else (s.onPow d (fun p => { p with req := target, result := 0 })).nextPower d

/-- POWER_STATE_REQUEST: a write to PSREQd (R22, R23, R25). -/
def execPowerStateRequest (die : Nat) (target : BitVec 2) (s : State) : Out := .next (s.requestPower (die % 4) target)

/-- VOLTAGE_RAMP_DONE: a raised voltage is followed by the clock switch; a lowered one ends the change (R21). -/
def execVoltageRampDone (die : Nat) (s : State) : Out :=
  let d := die % 4
  .next (match (s.pow d).phase with
    | .raising => s.onPow d (fun p => { p with vmv := BitVec.ofNat 16 (nominal p.goal), phase := .switchingUp })
    | .lowering =>
      (s.onPow d (fun p => { p with vmv := BitVec.ofNat 16 (nominal p.cur), phase := .steady })).nextPower d
    | _ => s)

/-- CLOCK_SWITCH_DONE: CUR takes the new state; an up-step ends, a down-step lowers its voltage next (R21). -/
def execClockSwitchDone (die : Nat) (s : State) : Out :=
  let d := die % 4
  .next (match (s.pow d).phase with
    | .switchingUp => (s.onPow d (fun p => { p with cur := p.goal, phase := .steady })).nextPower d
    | .switchingDown => s.onPow d (fun p => { p with cur := p.goal, phase := .lowering })
    | _ => s)

/-- THERMAL_CLAMP_ENGAGE: CLAMP is set, event 1 is posted, and the die goes to the clamp state where it runs above it; a
rise of the voltage alone is abandoned (R23). -/
def execThermalClampEngage (die : Nat) (s : State) : Out :=
  let d := die % 4
  .next (
    if (s.pow d).clamp then s
    else
      let s := (s.onPow d (fun p => { p with clamp := true })).event 0 1 d
      if (s.pow d).phase = .steady ∨ (s.pow d).phase = .raising then s.nextPower d else s)

/-- THERMAL_CLAMP_RELEASE: CLAMP is cleared, event 2 is posted, and the die goes to REQ (R23). -/
def execThermalClampRelease (die : Nat) (s : State) : Out :=
  let d := die % 4
  .next (
    if !(s.pow d).clamp then s
    else
      let s := (s.onPow d (fun p => { p with clamp := false })).event 0 2 d
      if (s.pow d).phase = .steady then s.nextPower d else s)

/-- Whether a die has reached the state that it should run in. -/
def State.settled (s : State) (d : Nat) : Bool :=
  decide ((s.pow d).phase = .steady ∧ (s.pow d).cur = (s.pow d).wanted (s.floorMv d))

/-- PWRMEAS_SAMPLE: WATTS, and PEAKW where it is passed (R25). -/
def execPwrmeasSample (watts : BitVec 16) (s : State) : Out :=
  .next { s with watts := watts, peakW := if s.peakW < watts then watts else s.peakW }

/-- STALL_SAMPLE: the four fields of STALLd are one sample (R25). -/
def execStallSample (die : Nat) (active mem sync : BitVec 16) (s : State) : Out :=
  .next (s.onPow (die % 4) (fun p => { p with active := active, memStall := mem, syncStall := sync, seq := p.seq + 1 }))

/-- PSREQd, PSSTATd and STALLd as words (Tables 2-3 to 2-5). TEMP is measured at the read. -/
def DiePower.requestWord (p : DiePower) : Nat := p.target.toNat
def DiePower.statusWord (p : DiePower) (floor temp : Nat) : Nat :=
  p.cur.toNat + p.req.toNat * 2 ^ 2 + (decide (p.phase ≠ .steady)).toNat * 2 ^ 4 + p.clamp.toNat * 2 ^ 5 + p.result.toNat * 2 ^ 8
    + floor % 2 ^ 16 * 2 ^ 16 + p.vmv.toNat * 2 ^ 32 + temp * 2 ^ 48
def DiePower.stallWord (p : DiePower) : Nat :=
  p.active.toNat + p.memStall.toNat * 2 ^ 16 + p.syncStall.toNat * 2 ^ 32 + p.seq.toNat * 2 ^ 48

/-- PWRMEAS as a word (Table 2-6). -/
def State.powerWord (s : State) : Nat := s.watts.toNat + s.peakW.toNat * 65536

/-- The power control register at offset `o` from 0x8000 (R25). -/
def State.powerRead (s : State) (o : Nat) : Nat :=
  let d := o / 8 % 4
  if o < 0x20 then (s.pow d).requestWord
  else if o < 0x40 then (s.pow d).statusWord (s.floorMv d) (Config.junctionTemp s.tick d).toNat
  else if o < 0x60 then (s.pow d).stallWord
  else if o < 0x68 then s.powerWord
  else 0

/-- PEAKW_READ: a read of PWRMEAS clears PEAKW (R25). -/
def execPeakwRead (s : State) : Out :=
  .next { s with answer := toBytes 8 s.powerWord, peakW := 0 }

/-! ## Error-bank words (Table 14-4) -/

/-- STATUS of a bank. -/
def Bank.status (b : Bank) : Nat :=
  b.valid.toNat + 2 * b.ue.toNat + 4 * b.overflow.toNat + 8 * b.read.toNat + 256 * b.cause.toNat + 65536 * b.kind.toNat
    + 2 ^ 24 * b.unit.toNat + 2 ^ 40 * b.fn.toNat

/-- The word at offset `o` of a bank: STATUS, ADDR, the counts; CLEAR reads zero. -/
def Bank.word (b : Bank) (o : Nat) : Nat :=
  if o = 0 then b.status else if o = 8 then b.addr.toNat else if o = 16 then b.ce.toNat + b.uec.toNat * 2 ^ 32 else 0

/-- STATUS of bank `k` = 16 × die + bank. -/
def State.bankStatus (s : State) (k : Nat) : Nat := (sget {} s.banks k).status

end Sys2Proof.Machine
end

