-- ==== Sys2Proof/Machine/Transcend.lean ====
section
/-! DEFINITION. The transcendentals of the vector engine (R350): f(x) to 300 and more bits, and the FP32 result that a
free choice takes within the bound of Table 19-3 (log 4). -/

namespace Sys2Proof.Machine

/-! ## Exact functions to a fixed number of bits -/

/-- floor(ln 2 × 2^400). -/
def ln2Fix : Int := 1789879222497203190815761498240779176894896805856420935579692301363062920687047601279850318367644315849030039181347319086

/-- Σ over i from `i` of terms, starting at the term `t` (scaled by 2^400), each term × r / (i + 1). -/
def expSeries (r : Int) : Nat → Nat → Int → Int
  | 0, _, t => t
  | k + 1, i, t => t + expSeries r k (i + 1) (t * r / 2 ^ 400 / ((i : Int) + 1))

/-- e^(n × 2^e) as num × 2^exp for |x| ≤ 2^12; an x below 2^-60 in magnitude gives 1 with the next bits to its side. -/
def expFix (n e : Int) : Int × Int :=
  if n = 0 then (1, 0)
  else if ilog n.natAbs + e < -60 then (2 ^ 60 + (if 0 < n then 1 else -1), -60)
  else
    let x := if 0 ≤ e + 400 then shl n (e + 400) else n / shl 1 (-(e + 400))
    let k := x / ln2Fix
    let r := x - k * ln2Fix
    (expSeries r 90 0 (2 ^ 400), k - 400)

/-- atanh series: Σ z^(2i+1) / (2i + 1), scaled by 2^400; `p` is z^(2i+1). -/
def atanhSeries (z2 : Int) : Nat → Nat → Int → Int
  | 0, _, _ => 0
  | k + 1, i, p => p / ((2 * i + 1 : Nat) : Int) + atanhSeries z2 k (i + 1) (p * z2 / 2 ^ 400)

/-- ln(n × 2^e) for n > 0, scaled by 2^400. -/
def logFix (n : Nat) (e : Int) : Int :=
  let k := ilog n
  -- m = n / 2^k in [1, 2)
  let m : Int := if k ≤ 400 then shl n (400 - k) else (n : Int) / shl 1 (k - 400)
  let z := (m - 2 ^ 400) * 2 ^ 400 / (m + 2 ^ 400)
  (k + e) * ln2Fix + 2 * atanhSeries (z * z / 2 ^ 400) 130 0 z

/-- The transcendental words (R350). -/
inductive Trans1 where
  | exp
  | log
  | rcp
  | rsq
  | tanh
  | silu
  deriving DecidableEq, Repr

/-- The bound of Table 19-3 in units in the last place. -/
def Trans1.bound : Trans1 → Nat
  | .exp => 2
  | .log => 2
  | .rcp => 1
  | .rsq => 1
  | .tanh => 2
  | .silu => 3

/-- An operation's number, for the free choice. -/
def Trans1.num : Trans1 → Nat
  | .exp => 0
  | .log => 1
  | .rcp => 2
  | .rsq => 3
  | .tanh => 4
  | .silu => 5

/-- A value beyond every FP32 magnitude, and one below every FP32 magnitude, with the sign of `sg`. -/
def hugeVal (sg : Int) : Int × Int := (sg, 400)
def tinyVal (sg : Int) : Int × Int := (sg, -400)

/-- x × (1 − 2^-60): the value just inside x. -/
def justInside (n e : Int) : Int × Int := (n * (2 ^ 60 - 1), e - 60)

/-- The quotient num₁ × 2^e₁ / (num₂ × 2^e₂) with a sticky bit, the second positive. -/
def quot (n₁ e₁ n₂ e₂ : Int) : Int × Int :=
  let q := divSticky n₁.natAbs n₂.natAbs
  ((if n₁ < 0 then -1 else 1) * (q.1 : Int), q.2 + e₁ - e₂)

/-- f(x) of a finite non-zero x = n × 2^e within its domain, to far more bits than FP32 holds. -/
def Trans1.fix (f : Trans1) (n e : Int) : Int × Int :=
  let big := decide (10 ≤ ilog n.natAbs + e)
  match f with
  | .exp => if big then (if 0 < n then hugeVal 1 else tinyVal 1) else expFix n e
  | .log => (logFix n.natAbs e, -400)
  | .rcp => quot (if n < 0 then -1 else 1) 0 n.natAbs e
  | .rsq =>
    let e' := e - e % 2
    let m := n.natAbs * 2 ^ (e % 2).toNat
    let t := 2 ^ (600 + m.log2)
    let r := isqrt (t * t / m)
    let exact := decide (r * r * m = t * t)
    (((2 * r + (if exact then 0 else 1) : Nat) : Int), -(600 + (m.log2 : Int)) - 1 - e' / 2)
  | .tanh =>
    if ilog n.natAbs + e < -30 then justInside n e
    else
      -- 1 − 2 / (e^(2|x|) + 1)
      let t := expFix (2 * n.natAbs) e
      let d := dyAdd t.1 t.2 1 0
      let q := quot 2 0 d.1 d.2
      let v := dyAdd 1 0 (-q.1) q.2
      ((if n < 0 then -1 else 1) * v.1, v.2)
  | .silu =>
    if big then (if 0 < n then justInside n e else tinyVal (-1))
    else
      let t := expFix (-n) e
      let d := dyAdd 1 0 t.1 t.2
      quot n e d.1 d.2

/-! ## The FP32 result -/

/-- The magnitude grid of FP32 at v = m × 2^e: the units of 2^q below it, whether v is on the grid, and q. -/
def gridF32 (m : Nat) (e : Int) : Nat × Bool × Int :=
  let q := max (ilog m + e - 23) (-149)
  let c := cut m e q
  (c.1, decide (c.2.1 = 0), q)

/-- One of the FP32 values within `b` units in the last place of v, by a choice: the exact value, and its flags (R217;
inexact always, R350). -/
def withinUlps (b choice : Nat) (v : Int × Int) : Val × NumFlags :=
  let g := gridF32 v.1.natAbs v.2
  let j : Int := if g.2.1 then ((choice % (2 * b + 1) : Nat) : Int) - b else ((choice % (2 * b) : Nat) : Int) - (b - 1)
  let m : Int := (g.1 : Int) + j
  let x : Val := if m = 0 then .zero (decide (v.1 < 0)) else .fin (if v.1 < 0 then -m else m) g.2.2
  let r := roundRne .f32 x
  let uf := if m ≠ 0 ∧ ilog m.natAbs + g.2.2 < -126 then fUF else 0
  (Fmt.f32.val r.1, r.2 ||| fNX ||| uf)

/-- The exact cases of Table 19-3 and NaN; none where the bound applies. -/
def Trans1.exact (f : Trans1) (x : Val) : Option (Val × NumFlags) :=
  match f, x with
  | _, .nan => some (.nan, 0)
  | .exp, .zero _ => some (.fin 1 0, 0)
  | .exp, .inf neg => some (if neg then .zero false else .inf false, 0)
  | .log, .zero _ => some (.inf true, fDZ)
  | .log, .inf neg => some (if neg then (.nan, fNV) else (.inf false, 0))
  | .log, .fin n e => if n < 0 then some (.nan, fNV) else if veq (.fin n e) (.fin 1 0) then some (.zero false, 0) else none
  | .rcp, .zero neg => some (.inf neg, fDZ)
  | .rcp, .inf neg => some (.zero neg, 0)
  | .rsq, .zero neg => some (.inf neg, fDZ)
  | .rsq, .inf neg => some (if neg then (.nan, fNV) else (.zero false, 0))
  | .rsq, .fin n _ => if n < 0 then some (.nan, fNV) else none
  | .tanh, .zero neg => some (.zero neg, 0)
  | .tanh, .inf neg => some (.fin (if neg then -1 else 1) 0, 0)
  | .tanh, .fin n e =>
    if vlt (.fin n.natAbs e) (.fin 73 (-3)) then none else some (.fin (if n < 0 then -1 else 1) 0, fNX)
  | .silu, .zero neg => some (.zero neg, 0)
  | .silu, .inf neg => some (if neg then .zero true else .inf false, 0)
  | _, _ => none

/-- A transcendental of an exact x: the FP32 result as an exact value, with its flags. -/
def Trans1.eval (f : Trans1) (x : Val) : Val × NumFlags :=
  match f.exact x with
  | some r => r
  | none =>
    match x with
    | .fin n e => withinUlps f.bound (Config.ulpChoice f.num n e) (f.fix n e)
    | _ => (.nan, 0)

end Sys2Proof.Machine
end

