-- ==== Sys2Proof/Machine/Vector.lean ====
section
/-! DEFINITION. The vector engine: nests and operands (R346, R347), decode checks (R348, R279), and what each VOP does
(R349 to R361). -/

namespace Sys2Proof.Machine

/-! ## Elements (R210) -/

/-- Half-bytes of an element. -/
def Fmt.nibs (f : Fmt) : Nat := f.bits / 4

/-- The raw bits of an element at a position counted in half-bytes of the scratchpad. -/
def State.elemAt (s : State) (c : Nat) (f : Fmt) (pos : Nat) : Nat :=
  if f.bits = 4 then nbits (s.sbyte c (pos / 2)).toNat (4 * (pos % 2)) 4
  else s.sval c (pos / 2) (f.bits / 8)

/-- Write the raw bits of an element; the other half of a byte is left (R346). -/
def State.putElem (s : State) (c : Nat) (f : Fmt) (pos v : Nat) : State :=
  if f.bits = 4 then
    let b := (s.sbyte c (pos / 2)).toNat
    s.swrite c (pos / 2) [BitVec.ofNat 8 (if pos % 2 = 0 then b / 16 * 16 + v % 16 else b % 16 + v % 16 * 16)]
  else s.swrite c (pos / 2) (toBytes (f.bits / 8) v)

/-- Half-bytes of the scratchpad. -/
def scratchNibs : Nat := 0x400000

/-- The bytes that half-byte positions [lo, lo + n) cover, as one or two intervals of scratch bytes. -/
def byteSpans (pos n : Nat) : List (Nat × Nat) :=
  if n = 0 then []
  else
    let lo := pos % scratchNibs / 2
    let hi := (pos % scratchNibs + n + 1) / 2
    if hi ≤ 0x200000 then [(lo, hi)] else [(lo, 0x200000), (0, hi - 0x200000)]

/-- Whether a byte lies in both interval lists. -/
def spansMeet (a b : List (Nat × Nat)) : Bool := a.any (fun x => b.any (fun y => decide (x.1 < y.2 ∧ y.1 < x.2)))

/-- The granules of intervals, as intervals. -/
def granules (a : List (Nat × Nat)) : List (Nat × Nat) := a.map (fun x => (x.1 / 32 * 32, (x.2 + 31) / 32 * 32))

/-! ## The table of VOPs (Table 19-2) -/

/-- What a VOP admits: the operand kinds of DST, A and B (empty: the field is zero), and whether B may be zero instead. -/
structure VopForm where
  dst : List Nat
  a : List Nat
  b : List Nat
  bZero : Bool := false
  deriving DecidableEq, Repr

/-- The operand kinds of a VOP. -/
def vopForm (vop : Nat) : VopForm :=
  if vop = 1 ∨ vop = 9 ∨ vop = 10 ∨ (11 ≤ vop ∧ vop ≤ 16) then ⟨[0, 1], [0, 1, 2, 3], [], false⟩
  else if (2 ≤ vop ∧ vop ≤ 8) ∨ vop = 0x11 ∨ vop = 0x12 then ⟨[0, 1], [0, 1, 2, 3], [0, 1, 2, 3], false⟩
  else if 0x13 ≤ vop ∧ vop ≤ 0x17 then ⟨[0, 1], [0, 1, 3], [0, 1, 3], false⟩
  else if vop = 0x18 ∨ vop = 0x19 then ⟨[0, 1], [0, 1, 2, 3], [3], false⟩
  else if 0x1A ≤ vop ∧ vop ≤ 0x1C then ⟨[0, 1], [0, 1, 2, 3], [], false⟩
  else if vop = 0x1D then ⟨[0, 1], [0], [], false⟩
  else if vop = 0x1E then ⟨[0], [0, 1], [], false⟩
  else if vop = 0x1F then ⟨[0], [0, 1], [0, 1], false⟩
  else if vop = 0x20 then ⟨[0], [0], [], false⟩
  else if vop = 0x21 then ⟨[0, 1], [2], [0, 1, 3], true⟩
  else if vop = 0x22 then ⟨[], [1], [1], true⟩
  else ⟨[], [], [], false⟩

/-- The kind of an operand field (R275). -/
def opKind (o : BitVec 18) : Nat := field o 16 2

/-- The payload of an operand field. -/
def opPay (o : BitVec 18) : Nat := field o 0 16

/-- Whether a word uses its A or B field. -/
def fieldUsed (kinds : List Nat) (mayZero : Bool) (o : BitVec 18) : Bool := !kinds.isEmpty && !(mayZero && decide (o = 0))

/-- Whether MOD[0] is the SAT option (Table 19-2). -/
def vopSat (vop : Nat) : Bool := decide ((1 ≤ vop ∧ vop ≤ 16) ∨ (0x1A ≤ vop ∧ vop ≤ 0x1C) ∨ vop = 0x21)

/-- A MOD value that the VOP defines; rounding modes are checked apart. -/
def vopMod (vop mod : Nat) : Bool :=
  if vopSat vop then decide (mod ≤ 1)
  else if vop = 0x11 ∨ vop = 0x1F ∨ vop = 0x20 ∨ vop = 0x18 ∨ vop = 0x19 then true
  else if vop = 0x17 then decide (mod ≤ 1)
  else decide (mod = 0)

/-- A float format of Table 19-2. -/
def Fmt.isFloat : Fmt → Bool
  | .f32 | .bf16 | .f16 | .h4s | .h4u => true
  | .b8 _ _ _ => true
  | _ => false

/-- A format that the VOP accepts. -/
def vopFmt (vop : Nat) (f : Fmt) : Bool :=
  if (2 ≤ vop ∧ vop ≤ 10) then decide (f ≠ .e8s)
  else if 11 ≤ vop ∧ vop ≤ 16 then f.isFloat
  else if vop = 0x16 ∨ vop = 0x17 then decide (f = .i8 ∨ f = .i32)
  else if vop = 0x19 then (match f with | .i8 | .h4s | .h4u => true | .b8 _ _ _ => true | _ => false)
  else if (0x1A ≤ vop ∧ vop ≤ 0x1C) ∨ vop = 0x1F ∨ vop = 0x20 then f.isFloat || decide (f = .i8)
  else if vop = 0x21 then decide (f ≠ .i32 ∧ f ≠ .e8s)
  else if 0x22 ≤ vop then decide (f = .f32)
  else true

/-- The lane count of a word in format `f` (R346): the widest format it involves. -/
def lanesFor (vop : Nat) (f : Fmt) (src : Option Fmt) (w : VWord) : Nat :=
  let acc := opKind w.a = 2 ∨ (opKind w.b = 2 ∧ vop ≠ 0x18 ∧ vop ≠ 0x19)
  let wide := if acc ∨ vop = 0x1D ∨ vop = 0x1E ∨ vop = 0x1F ∨ vop = 0x20 then 32 else 8
  let srcBits := match src with
    | some x => x.bits
    | none => 8
  4096 / max (max f.bits srcBits) wide

/-! ## The chain of a VDRN (R358) -/

/-- A chain step (Table 19-6). -/
structure ChainStep where
  op : Nat
  role : Nat
  fmt : Nat
  mode : Nat
  imm1 : Nat
  imm2 : Nat
  rest : Nat
  deriving DecidableEq, Repr

/-- Step `i` of the slot. -/
def chainStep (img : BitVec 2176) (i : Nat) : ChainStep :=
  let o := 52 + 40 * i
  { op := imgField img o 1, role := imgField img (o + 1) 1, fmt := imgField img (o + 2) 1, mode := imgField img (o + 3) 1,
    imm1 := imgField img (o + 4) 2, imm2 := imgField img (o + 6) 2, rest := imgField img (o + 8) 12 }

/-- The steps before the end. -/
def drainSteps (img : BitVec 2176) : List ChainStep :=
  ((upto 4).map (chainStep img)).takeWhile (fun t => decide (t.op ≠ 0))

/-- MFMT and BFMT. -/
def chainMfmt (img : BitVec 2176) : Nat := nbits (imgField img 12 4) 0 6
def chainBfmt (img : BitVec 2176) : Nat := nbits (imgField img 12 4) 6 6

/-- Whether a step names B. -/
def ChainStep.namesB (t : ChainStep) : Bool :=
  if t.op ≤ 6 then !nbit t.role 0
  else if t.op = 0x10 then !nbit t.role 2 || !nbit t.role 3 else false

/-- A format code that is not reserved and not 0x3F. -/
def codeFmt (c : Nat) : Option Fmt := if c < 64 then fmtOf (BitVec.ofNat 6 c) else none

/-- A step that R358 or R359 refuses with 0x26. -/
def ChainStep.bad (t : ChainStep) : Bool :=
  let roleBad := decide (16 ≤ t.role) ||
    (if t.op ≤ 6 then decide (4 ≤ t.role) else if t.op = 0x10 then decide (t.role % 4 = 3) else decide (t.role ≠ 0))
  let fmtBad := match codeFmt t.fmt with
    | none => true
    | some f => decide (f = .e8s) || (decide (7 ≤ t.op ∧ t.op ≤ 12) && !f.isFloat)
  decide (0x10 < t.op) || roleBad || fmtBad || (decide (t.op ≠ 0x0F) && decide (t.mode ≠ 0)) || decide (7 < t.mode)
    || (decide (t.op ≠ 0x10) && decide (t.imm2 ≠ 0)) || decide (t.rest ≠ 0)

/-- A chain that ends the word with 0x26. -/
def chainBad (img : BitVec 2176) (fmt : Nat) : Bool :=
  let steps := drainSteps img
  let last := match steps.getLast? with
    | some t => t.fmt
    | none => chainMfmt img
  steps.any ChainStep.bad || decide (12 < (imgField img 12 4).log2 + 1 ∧ imgField img 12 4 ≠ 0)
    || decide (imgField img 16 16 ≠ 0)
    || ((upto 4).drop (steps.length + 1)).any (fun i => decide (imgField img (52 + 40 * i) 20 ≠ 0))
    || (decide (steps.length < 4) && decide (imgField img (52 + 40 * steps.length) 20 ≠ 0))
    || decide (last ≠ fmt)

/-! ## Decode checks (R279, R348) -/

/-- The format that FMT or the format table gives at an iteration (R153). -/
def Core.fmtAt (k : Core) (w : VWord) (img : BitVec 2176) (cs : List Nat) : BitVec 6 :=
  if w.fmt = 0x3F then
    sget 0 k.fmtTab (match fmtSel img with | some l => cs.getD l 0 % 64 | none => 0)
  else w.fmt

/-- The source format of VCVT and VQNT, from the B immediate. -/
def srcFmt (vop : Nat) (w : VWord) : Option Fmt :=
  if vop = 0x18 ∨ vop = 0x19 then codeFmt (opPay w.b % 64) else none

/-- A field that must be zero is not (0x25). -/
def vecReserved (vop : Nat) (w : VWord) (img : BitVec 2176) : Bool :=
  let f := vopForm vop
  let unused (kinds : List Nat) (o : BitVec 18) : Bool := kinds.isEmpty && decide (o ≠ 0)
  let pay (kinds : List Nat) (mz : Bool) (o : BitVec 18) : Bool := fieldUsed kinds mz o &&
    (decide (opKind o = 1 ∧ 32 ≤ opPay o) || decide (opKind o = 2 ∧ 512 ≤ opPay o))
  decide (w.rsv ≠ 0) || unused f.dst w.dst || unused f.a w.a || unused f.b w.b
    || pay f.dst false w.dst || pay f.a false w.a || pay f.b f.bZero w.b
    || decide ((vop = 0x18 ∨ vop = 0x19) ∧ opKind w.b = 3 ∧ 128 ≤ opPay w.b)
    || (decide (0x22 ≤ vop) && decide (w.lnt ≠ 0))
    || (decide (vop = 0x21) && decide (w.b ≠ 0) && !(drainSteps img).any ChainStep.namesB)

/-- A field out of range, or a value that the VOP does not define (0x26). -/
def vecRange (vop : Nat) (w : VWord) (k : Core) (img : BitVec 2176) : Bool :=
  let f := vopForm vop
  let kind (kinds : List Nat) (mz : Bool) (o : BitVec 18) : Bool := fieldUsed kinds mz o && !kinds.contains (opKind o)
  let reads := decide (vop < 0x22)
  let vlBad := match fmtOf (k.fmtAt w img (countersOf img 0)) with
    | some x => decide (lanesFor vop x (srcFmt vop w) w < vlOf img)
    | none => false
  kind f.dst false w.dst || kind f.a false w.a || kind f.b f.bZero w.b || !vopMod vop w.mod.toNat
    || (reads && (lntBad 0 img || vlBad || (decide (vop = 0x19) && decide (vlOf img % 32 ≠ 0))))
    || (decide (vop = 0x21) && chainBad img (k.fmtAt w img (countersOf img 0)).toNat)

/-- The first failing check of Table 15-12 for a vector word. -/
def vecCheck (vop : Nat) (w : VWord) (k : Core) : Option Nat :=
  let img := k.lntImage 0 w.lnt.toNat
  let fmt := fmtOf (k.fmtAt w img (countersOf img 0))
  let cvt := decide (vop = 0x18 ∨ vop = 0x19)
  let drn := decide (vop = 0x21)
  if vecReserved vop w img then some 0x25
  else if vecRange vop w k img then some 0x26
  else if fmt.isNone || (cvt && (codeFmt (opPay w.b % 64)).isNone) || (drn && ((codeFmt (chainMfmt img)).isNone ||
      ((drainSteps img).any ChainStep.namesB && decide (opKind w.b ≠ 3) && (codeFmt (chainBfmt img)).isNone))) then some 0x10
  else if (match fmt with | some f => !vopFmt vop f | none => false)
      || (decide (vop = 0x19) && !(match srcFmt vop w with | some .f32 | some .bf16 | some .f16 => true | _ => false))
      || (cvt && decide (opKind w.a = 2 ∧ opPay w.b % 64 ≠ 0)) then some 0x23
  else if (cvt && decide (5 ≤ w.mod.toNat)) || (drn && (drainSteps img).any (fun t => decide (5 ≤ t.mode))) then some 0x22
  else none

/-! ## Running a word -/

/-- A vector word as it runs: its core, sequence, VOP, fields, image and the pipe slots it uses. -/
structure VRun where
  c : Nat
  seq : BitVec 32
  seed : BitVec 32
  vop : Nat
  w : VWord
  img : BitVec 2176
  dstPipe : Nat := 0
  aPipe : Nat := 0
  bPipe : Nat := 0
  /-- a word of the planner, which knows what the banks hold (R238) -/
  planned : Bool := false
  deriving DecidableEq, Repr

/-- What a run has done: the state, flags, bytes read and written, elements counted, a reduction's running result and
the runs it has written, and the XCODE that ended it. -/
structure VSt where
  s : State
  flags : NumFlags := 0
  reads : List (Nat × Nat) := []
  writes : List (Nat × Nat) := []
  elems : Nat := 0
  run : Option Val := none
  runs : Nat := 0
  err : Option Nat := none
  deriving DecidableEq, Repr

/-- SAT of a word. -/
def VRun.sat (x : VRun) : Bool := vopSat x.vop && x.w.mod.getLsbD 0

/-- A kind-11 immediate in a format (R223): the raw bits and the conversion's flags. -/
def immRaw (f : Fmt) (v : Nat) : Nat × NumFlags :=
  match f with
  | .e8s => (v % 256, 0)
  | .i8 => (low 8 (max (-128) (min 127 (sint 16 v))), 0)
  | .i32 => (low 32 (sint 16 v), 0)
  | _ => roundRne f (Fmt.bf16.val v)

/-- The iteration address of a scratch stream operand, in bytes: 0x26 unless 32-byte aligned (R282). -/
def VRun.addr (x : VRun) (cs : List Nat) (o : BitVec 18) (k : Nat) : Except Nat Nat :=
  let a := ((32 * opPay o : Nat) : Int) + streamOff x.img cs k
  if a % 32 ≠ 0 then .error 0x26 else .ok (low 21 a)

/-- The byte address of streams 3 to 7 (R347): 0x26 unless 32-byte aligned (R282). -/
def VRun.side (x : VRun) (cs : List Nat) (k : Nat) : Except Nat Nat :=
  let a := streamOff x.img cs k
  if a % 32 ≠ 0 then .error 0x26 else .ok (low 21 a)

/-- The half-byte position of element 0 of a scratch or pipe operand at iteration `n`. -/
def VRun.place (x : VRun) (n : Nat) (cs : List Nat) (o : BitVec 18) (k pipe vl : Nat) (f : Fmt) : Except Nat Nat :=
  if opKind o = 1 then .ok (2 * pipe + n * vl * f.nibs)
  else match x.addr cs o k with
    | .ok a => .ok (2 * a)
    | .error e => .error e

/-- The elements of an operand at an iteration: raw bits with the format they are read in, and the bytes read. -/
def VRun.operand (x : VRun) (s : State) (n : Nat) (cs : List Nat) (o : BitVec 18) (k pipe vl : Nat) (f : Fmt) :
    Except Nat (Fmt × List Nat × List (Nat × Nat) × NumFlags) :=
  if opKind o = 2 then
    let b := 2048 * (opPay o % 128) + (streamOff x.img cs k % 262144).toNat
    .ok (.f32, (upto vl).map (fun e => (if x.planned then s.accAt x.c (opPay o / 128) ((b + 4 * e) % 262144 / 4)
      else s.ownAcc x.c (opPay o / 128) ((b + 4 * e) % 262144 / 4)).toNat), [], 0)
  else if opKind o = 3 then
    let r := immRaw f (opPay o)
    .ok (f, List.replicate vl r.1, [], r.2)
  else match x.place n cs o k pipe vl f with
    | .error e => .error e
    | .ok p => .ok (f, (upto vl).map (fun e => s.elemAt x.c f (p + e * f.nibs)), byteSpans p (vl * f.nibs), 0)

/-- The I8 or I32 elements of stream `k`. -/
def VRun.sideElems (x : VRun) (s : State) (cs : List Nat) (k vl : Nat) (f : Fmt) : Except Nat (List Nat × List (Nat × Nat)) :=
  match x.side cs k with
  | .error e => .error e
  | .ok a => .ok ((upto vl).map (fun e => s.elemAt x.c f (2 * a + e * f.nibs)), byteSpans (2 * a) (vl * f.nibs))

/-- Write the vector of an iteration at a half-byte position. -/
def VSt.put (t : VSt) (c : Nat) (f : Fmt) (pos : Nat) (vs : List Nat) : VSt :=
  { t with s := (vs.zipIdx).foldl (fun s v => s.putElem c f (pos + v.2 * f.nibs) v.1) t.s,
           writes := t.writes ++ byteSpans pos (vs.length * f.nibs) }

/-- Round results into a format and collect the flags. -/
def roundAll (f : Fmt) (m : Mode) (sat : Bool) (draw : Nat → Nat) (vs : List (Val × NumFlags)) : List Nat × NumFlags :=
  let rs := vs.zipIdx.map (fun v => finish f m sat (draw v.2) v.1)
  (rs.map Prod.fst, rs.foldl (fun a r => a ||| r.2) 0)

/-- x ÷ y and the other two-operand functions by VOP (R349). -/
def vecFn (vop : Nat) (x y z : Val) : Val × NumFlags :=
  match vop with
  | 1 => (x, 0)
  | 2 => vadd x y
  | 3 => vsub x y
  | 4 => vmul x y
  | 5 => vfma x y z
  | 6 => vdiv x y
  | 7 => (vmin x y, 0)
  | 8 => (vmax x y, 0)
  | 9 => (vabs x, 0)
  | 0x0A => (vneg x, 0)
  | 0x0B => Trans1.exp.eval x
  | 0x0C => Trans1.log.eval x
  | 0x0D => Trans1.rcp.eval x
  | 0x0E => Trans1.rsq.eval x
  | 0x0F => Trans1.tanh.eval x
  | 0x10 => Trans1.silu.eval x
  | _ => (x, 0)

/-- The predicate of VCMP (R351). -/
def vecPred (p : Nat) (x y : Val) : Bool :=
  let un := decide (x = .nan ∨ y = .nan)
  match p with
  | 0 => veq x y
  | 1 => un || !veq x y
  | 2 => vlt x y
  | 3 => vlt x y || veq x y
  | 4 => vlt y x
  | 5 => vlt y x || veq x y
  | 6 => !un
  | _ => un

/-- Shifts (R351): x by y mod the width. -/
def vecShift (vop : Nat) (arith : Bool) (bits x y : Nat) : Nat :=
  let k := y % bits
  if vop = 0x16 then x * 2 ^ k % 2 ^ bits
  else if arith then low bits (sint bits x / ((2 ^ k : Nat) : Int))
  else x / 2 ^ k

/-- The bitwise words on raw bits. -/
def vecBits (vop x y : Nat) : Nat := if vop = 0x13 then x &&& y else if vop = 0x14 then x ||| y else x ^^^ y

/-- An iteration's outcome so far, ended by an XCODE. -/
def VSt.fail (t : VSt) (e : Nat) : VSt := { t with err := some e }

/-- The SR draw of element `e` of this iteration. -/
def VRun.draw (x : VRun) (base e : Nat) : Nat := engDraw x.seed x.seq (base + e)

/-- A compare or bitwise word sets no flag (R351). -/
def VRun.noFlags (x : VRun) : Bool := decide (x.vop = 0x11 ∨ (0x13 ≤ x.vop ∧ x.vop ≤ 0x15))

/-- Elementwise words, compares, selects, bitwise words, shifts and conversions: one iteration (R349 to R352). -/
def VRun.elementwise (x : VRun) (t : VSt) (n : Nat) (cs : List Nat) (f : Fmt) (vl : Nat) : VSt :=
  let s := t.s
  let af := match srcFmt x.vop x.w with
    | some g => g
    | none => f
  let two := decide ((2 ≤ x.vop ∧ x.vop ≤ 8) ∨ (0x11 ≤ x.vop ∧ x.vop ≤ 0x17))
  let go : Except Nat VSt := do
    let (ga, as, ra, fa) ← x.operand s n cs x.w.a 1 x.aPipe vl af
    let (gb, bs, rb, fb) ← if two then x.operand s n cs x.w.b 2 x.bPipe vl f else .ok (f, List.replicate vl 0, [], 0)
    let side ← if x.vop = 5 then x.sideElems s cs 3 vl f else if x.vop = 0x12 then x.sideElems s cs 3 vl .i8
      else .ok (List.replicate vl 0, [])
    let zip := (as.zip (bs.zip side.1))
    let bitImm (o : BitVec 18) (v : Nat) : Nat := if opKind o = 3 then opPay o % 2 ^ f.bits else v
    let (df, rs, fl) : Fmt × List Nat × NumFlags :=
      if x.vop = 0x11 then
        (.i8, zip.map (fun v => if vecPred x.w.mod.toNat (ga.val v.1) (gb.val v.2.1) then 1 else 0), 0)
      else if x.vop = 0x12 then
        let pick (v : Nat × Nat × Nat) : Nat × NumFlags :=
          if v.2.2 ≠ 0 then (if opKind x.w.a = 2 then roundRne f (ga.val v.1) else (v.1, 0))
          else (if opKind x.w.b = 2 then roundRne f (gb.val v.2.1) else (v.2.1, 0))
        (f, zip.map (fun v => (pick v).1), zip.foldl (fun a v => a ||| (pick v).2) 0)
      else if 0x13 ≤ x.vop ∧ x.vop ≤ 0x15 then
        (f, zip.map (fun v => vecBits x.vop (bitImm x.w.a v.1) (bitImm x.w.b v.2.1)), 0)
      else if x.vop = 0x16 ∨ x.vop = 0x17 then
        (f, zip.map (fun v => vecShift x.vop (x.w.mod.getLsbD 0) f.bits v.1 v.2.1), 0)
      else if x.vop = 0x18 then
        let r := roundAll f ((modeOf x.w.mod.toNat).getD .rne) (nbit (opPay x.w.b) 6) (x.draw t.elems)
          (as.map (fun v => (ga.val v, 0)))
        (f, r.1, r.2)
      else
        let r := roundAll f .rne x.sat (fun _ => 0) (zip.map (fun v => vecFn x.vop (ga.val v.1) (gb.val v.2.1) (f.val v.2.2)))
        (f, r.1, r.2)
    let immFlags : NumFlags := if x.noFlags then 0 else fa ||| fb
    let p ← x.place n cs x.w.dst 0 x.dstPipe vl df
    let t := { t with flags := t.flags ||| fl ||| immFlags, reads := t.reads ++ ra ++ rb ++ side.2, elems := t.elems + vl }
    .ok (t.put x.c df p rs)
  match go with
  | .ok t => t
  | .error e => t.fail e

/-- floor(log2 |v|) of a finite value. -/
def Val.ilog2 : Val → Int
  | .fin n e => ilog n.natAbs + e
  | _ => 0

/-- floor(log2 maxfinite) of a target of VQNT (R353). -/
def quantTop (f : Fmt) : Int :=
  match f with
  | .i8 => 6
  | .h4s => 2
  | .h4u => 3
  | _ => (f.val (match f with | .b8 _ s e => b8Max s e | _ => 0)).ilog2

/-- One block of VQNT: the scale byte and the elements (R353); `i` is the index of its first element. -/
def VRun.quantBlock (x : VRun) (f : Fmt) (i : Nat) (vs : List Val) : Nat × List Nat × NumFlags :=
  if vs.any (fun v => decide (v = .nan)) then (0xFF, vs.map (fun _ => 0), 0)
  else
    let m := vs.foldl (fun m v => if vlt m (vabs v) then vabs v else m) (.zero false)
    let scale : Nat := match m with
      | .inf _ => 254
      | .fin _ _ => (min (max (127 + (m.ilog2 - quantTop f)) 0) 254).toNat
      | _ => (min (max (127 + 0) 0) 254)
    let r := roundAll f ((modeOf x.w.mod.toNat).getD .rne) true (x.draw i)
      (vs.map (fun v => vmul v (.fin 1 (127 - (scale : Int)))))
    (scale, r.1, r.2)

/-- VQNT: one iteration. -/
def VRun.quant (x : VRun) (t : VSt) (n : Nat) (cs : List Nat) (f : Fmt) (vl : Nat) : VSt :=
  let go : Except Nat VSt := do
    let (ga, as, ra, fa) ← x.operand t.s n cs x.w.a 1 x.aPipe vl ((srcFmt x.vop x.w).getD .f32)
    let p ← x.place n cs x.w.dst 0 x.dstPipe vl f
    let sc ← x.side cs 3
    let vs := as.map ga.val
    let blocks : List (Nat × List Nat × NumFlags) := (upto (vl / 32)).map (fun j => x.quantBlock f (t.elems + 32 * j) ((vs.drop (32 * j)).take 32))
    let t := { t with flags := blocks.foldl (fun (a : NumFlags) (b : Nat × List Nat × NumFlags) => a ||| b.2.2) (t.flags ||| fa), reads := t.reads ++ ra,
                      elems := t.elems + vl }
    .ok ((t.put x.c f p (blocks.flatMap (fun (b : Nat × List Nat × NumFlags) => b.2.1))).put x.c .e8s (2 * sc) (blocks.map Prod.fst))
  match go with
  | .ok t => t
  | .error e => t.fail e

/-- One level of the pairwise tree of R228. -/
def pairUp (f : Val → Val → Val × NumFlags) : List Val → List Val × NumFlags
  | a :: b :: rest =>
    let r := f a b
    let q := pairUp f rest
    (r.1 :: q.1, r.2 ||| q.2)
  | l => (l, 0)

/-- The pairwise tree; `k` bounds its levels. -/
def treeOf (f : Val → Val → Val × NumFlags) : Nat → List Val → Val × NumFlags
  | _, [a] => (a, 0)
  | _, [] => (.zero false, 0)
  | 0, a :: _ => (a, 0)
  | k + 1, l =>
    let p := pairUp f l
    let q := treeOf f k p.1
    (q.1, p.2 ||| q.2)

/-- The combination of a reduction: a sum rounded to FP32, or a maximum. -/
def reduceFn (vop : Nat) (x y : Val) : Val × NumFlags :=
  if vop = 0x1B then (vmax x y, 0)
  else
    let s := vadd x y
    let r := roundRne .f32 s.1
    (Fmt.f32.val r.1, s.2 ||| r.2)

/-- VRSUM and VRMAX: one iteration, a group of its run; the last group of the run writes the result (R354, R228). -/
def VRun.reduce (x : VRun) (t : VSt) (n : Nat) (cs : List Nat) (f : Fmt) (vl : Nat) : VSt :=
  let fn := reduceFn x.vop
  let go : Except Nat VSt := do
    let (ga, as, ra, fa) ← x.operand t.s n cs x.w.a 1 x.aPipe vl f
    let g := treeOf fn 10 (as.map ga.val)
    let r := match t.run with
      | none => (g.1, (0 : NumFlags))
      | some v => fn v g.1
    let t := { t with flags := t.flags ||| fa ||| g.2 ||| r.2, reads := t.reads ++ ra, elems := t.elems + vl, run := some r.1 }
    if cs.getD 5 0 + 1 < levelCount x.img 5 then .ok t
    else
      let cs0 := cs.take 5 ++ [0]
      let p ← if opKind x.w.dst = 1 then .ok (2 * x.dstPipe + t.runs * f.nibs)
        else (match x.addr cs0 x.w.dst 0 with | .ok a => .ok (2 * a) | .error e => .error e)
      let o := roundVal f .rne x.sat 0 r.1
      .ok ({ t with flags := t.flags ||| o.2, run := none, runs := t.runs + 1 }.put x.c f p [o.1])
  match go with
  | .ok t => t
  | .error e => t.fail e

/-- The inclusive prefixes of a list after a running prefix. -/
def prefixes (f : Val → Val → Val × NumFlags) : Option Val → List Val → List Val × NumFlags
  | _, [] => ([], 0)
  | p, v :: vs =>
    let r := match p with
      | none => (v, (0 : NumFlags))
      | some q => f q v
    let rest := prefixes f (some r.1) vs
    (r.1 :: rest.1, r.2 ||| rest.2)

/-- VSCAN: one iteration (R354, R228). -/
def VRun.scan (x : VRun) (t : VSt) (n : Nat) (cs : List Nat) (f : Fmt) (vl : Nat) : VSt :=
  let go : Except Nat VSt := do
    let (ga, as, ra, fa) ← x.operand t.s n cs x.w.a 1 x.aPipe vl f
    let p ← x.place n cs x.w.dst 0 x.dstPipe vl f
    let ps := prefixes (reduceFn 0x1C) (if cs.getD 5 0 = 0 then none else t.run) (as.map ga.val)
    let r := roundAll f .rne x.sat (fun _ => 0) (ps.1.map (fun v => (v, 0)))
    let t := { t with flags := t.flags ||| fa ||| ps.2 ||| r.2, reads := t.reads ++ ra, elems := t.elems + vl, run := ps.1.getLast? }
    .ok (t.put x.c f p r.1)
  match go with
  | .ok t => t
  | .error e => t.fail e

/-- The half-byte position of a table element (R355). -/
def tablePos (f : Fmt) (base idx : Nat) : Nat := (2 * base + idx * f.nibs) % scratchNibs

/-- VGATH and VSCAT: one iteration (R355). -/
def VRun.gather (x : VRun) (t : VSt) (n : Nat) (cs : List Nat) (f : Fmt) (vl : Nat) : VSt :=
  let go : Except Nat VSt :=
    if x.vop = 0x1D then do
      let base ← x.addr cs x.w.a 1
      let ix ← x.sideElems t.s cs 3 vl .i32
      let p ← x.place n cs x.w.dst 0 x.dstPipe vl f
      let vs := ix.1.map (fun i => t.s.elemAt x.c f (tablePos f base i))
      let t := { t with reads := t.reads ++ ix.2 ++ ix.1.flatMap (fun i => byteSpans (tablePos f base i) f.nibs), elems := t.elems + vl }
      .ok (t.put x.c f p vs)
    else do
      let base ← x.addr cs x.w.dst 0
      let ix ← x.sideElems t.s cs 3 vl .i32
      let (_, as, ra, _) ← x.operand t.s n cs x.w.a 1 x.aPipe vl f
      let t := { t with reads := t.reads ++ ix.2 ++ ra, elems := t.elems + vl }
      .ok ((ix.1.zip as).foldl (fun t v => t.put x.c f (tablePos f base v.1) [v.2]) t)
  match go with
  | .ok t => t
  | .error e => t.fail e

/-- Slots of a word's hash table. -/
def VRun.slots (x : VRun) : Nat := 2 ^ (6 + x.w.mod.toNat)

/-- One pair of VHINS from probe `p` on; `k` probes are left (R356). -/
def hashProbe (c base size : Nat) (f : Fmt) (key val h : Nat) : Nat → Nat → VSt → VSt
  | 0, _, t => t.fail 0x27
  | k + 1, p, t =>
    let a := (base + 8 * ((h + p) % size)) % 0x200000
    let slot := t.s.sval c a 4
    if slot = key then
      let r := finish .f32 .rne false 0 (vadd (Fmt.f32.val (t.s.sval c (a + 4) 4)) (f.val val))
      { t.put c .f32 (2 * (a + 4)) [r.1] with flags := t.flags ||| r.2 }
    else if slot = 0xFFFFFFFF then
      (t.put c .i32 (2 * a) [key]).put c .f32 (2 * (a + 4)) [(roundRne .f32 (f.val val)).1]
    else hashProbe c base size f key val h k (p + 1) t

/-- VHINS: one iteration. -/
def VRun.insert (x : VRun) (t : VSt) (n : Nat) (cs : List Nat) (f : Fmt) (vl : Nat) : VSt :=
  let go : Except Nat VSt := do
    let base ← x.addr cs x.w.dst 0
    let (_, ks, ra, _) ← x.operand t.s n cs x.w.a 1 x.aPipe vl .i32
    let (_, vs, rb, _) ← x.operand t.s n cs x.w.b 2 x.bPipe vl f
    let t := { t with reads := t.reads ++ ra ++ rb ++ byteSpans (2 * base) (16 * x.slots), elems := t.elems + vl }
    .ok ((ks.zip vs).foldl (fun t v =>
      if t.err.isSome || decide (v.1 = 0xFFFFFFFF) then t
      else hashProbe x.c base x.slots f v.1 v.2 ((v.1 ^^^ v.1 / 2 ^ 13) % x.slots) 8 0 t) t)
  match go with
  | .ok t => t
  | .error e => t.fail e

/-- VHDRN: the occupied slots in order, then the count (R357). It runs once, on the BASE fields. -/
def VRun.drainHash (x : VRun) (t : VSt) (f : Fmt) : VSt :=
  let at0 (o : BitVec 18) (k : Nat) : Except Nat Nat :=
    let a := ((32 * opPay o : Nat) : Int) + lntBase x.img k
    if a % 32 ≠ 0 then .error 0x26 else .ok (low 21 a)
  let at3 (k : Nat) : Except Nat Nat :=
    if lntBase x.img k % 32 ≠ 0 then .error 0x26 else .ok (low 21 (lntBase x.img k))
  let go : Except Nat VSt := do
    let src ← at0 x.w.a 1
    let dst ← at0 x.w.dst 0
    let vals ← at3 3
    let cnt ← at3 4
    let step (st : VSt × Nat) (i : Nat) : VSt × Nat :=
      let a := (src + 8 * i) % 0x200000
      let key := st.1.s.sval x.c a 4
      if key = 0xFFFFFFFF then st
      else
        let r := roundRne f (Fmt.f32.val (st.1.s.sval x.c (a + 4) 4))
        (({ st.1 with flags := st.1.flags ||| r.2 }.put x.c .i32 (2 * dst + 8 * st.2) [key]).put x.c f
          (2 * vals + st.2 * f.nibs) [r.1], st.2 + 1)
    let r := (upto x.slots).foldl step ({ t with reads := t.reads ++ byteSpans (2 * src) (16 * x.slots) }, 0)
    .ok (r.1.put x.c .i32 (2 * cnt) [r.2])
  match go with
  | .ok t => t
  | .error e => t.fail e

/-- The granules of a VHDRN's table, keys, values and count meet one another: the word is non-replayable (R357). -/
def VRun.hashMeets (x : VRun) (t : VSt) (f : Fmt) : Bool :=
  let at0 (o : BitVec 18) (k : Nat) : Nat := low 21 (((32 * opPay o : Nat) : Int) + lntBase x.img k)
  let table := granules (byteSpans (2 * at0 x.w.a 1) (16 * x.slots))
  let n := t.s.sval x.c (low 21 (lntBase x.img 4)) 4
  let keys := granules (byteSpans (2 * at0 x.w.dst 0) (8 * n))
  let vals := granules (byteSpans (2 * low 21 (lntBase x.img 3)) (n * f.nibs))
  let cnt := granules (byteSpans (2 * low 21 (lntBase x.img 4)) 8)
  spansMeet table (keys ++ vals ++ cnt) || spansMeet keys (vals ++ cnt) || spansMeet vals cnt

/-- One step of a VDRN chain on an element (R359): the value, B's value, the SR draw. -/
def ChainStep.apply (t : ChainStep) (sat : Bool) (draw : Nat) (v b : Val) : Val × NumFlags :=
  let f := (codeFmt t.fmt).getD .f32
  let imm (i : Nat) : Val × NumFlags := let r := immRaw f i; (f.val r.1, r.2)
  let out (m : Mode) (r : Val × NumFlags) (fl : NumFlags) : Val × NumFlags :=
    let o := finish f m sat draw r
    (f.val o.1, o.2 ||| fl)
  if t.op ≤ 6 then
    let o := if nbit t.role 0 then imm t.imm1 else (b, 0)
    let (x, y) := if nbit t.role 1 then (o.1, v) else (v, o.1)
    let op := match t.op with | 1 => 2 | 2 => 3 | 3 => 4 | 4 => 6 | 5 => 8 | _ => 7
    out .rne (vecFn op x y v) o.2
  else if t.op ≤ 12 then out .rne (vecFn (0x0B + (t.op - 7)) v v v) 0
  else if t.op = 13 then out .rne (vneg v, 0) 0
  else if t.op = 14 then out .rne (vabs v, 0) 0
  else if t.op = 15 then out ((modeOf t.mode).getD .rne) (v, 0) 0
  else
    -- SEL: the two remaining positions in c, x, y order
    let o1 := if nbit t.role 2 then imm t.imm1 else (b, 0)
    let o2 := if nbit t.role 3 then imm (if nbit t.role 2 then t.imm2 else t.imm1) else (b, 0)
    let (c, x, y) := match t.role % 4 with
      | 0 => (v, o1.1, o2.1)
      | 1 => (o1.1, v, o2.1)
      | _ => (o1.1, o2.1, v)
    let zero : Bool := match c with | .zero _ => true | .nan => true | _ => false
    out .rne (if zero then y else x, 0) (o1.2 ||| o2.2)

/-- VDRN: one iteration (R359). -/
def VRun.drain (x : VRun) (t : VSt) (n : Nat) (cs : List Nat) (f : Fmt) (vl : Nat) : VSt :=
  let steps := drainSteps x.img
  let mf := (codeFmt (chainMfmt x.img)).getD .f32
  let bf := if opKind x.w.b = 3 then f else (codeFmt (chainBfmt x.img)).getD .f32
  let names := steps.any ChainStep.namesB
  let go : Except Nat VSt := do
    let (_, as, _, _) ← x.operand t.s n cs x.w.a 1 0 vl .f32
    let (gb, bs, rb, fb) ← if names then x.operand t.s n cs x.w.b 2 x.bPipe vl bf else .ok (f, List.replicate vl 0, [], 0)
    let one (v : (Nat × Nat) × Nat) : Nat × NumFlags :=
      let m := roundVal mf .rne x.sat 0 (Fmt.f32.val v.1.1)
      let r := steps.foldl (fun (p : Val × NumFlags) st =>
        let o := st.apply x.sat (x.draw t.elems v.2) p.1 (gb.val v.1.2)
        (o.1, p.2 ||| o.2)) (mf.val m.1, m.2)
      let o := roundVal f .rne x.sat 0 r.1
      (o.1, r.2 ||| o.2)
    let rs : List (Nat × NumFlags) := ((as.zip bs).zipIdx).map one
    let p ← x.place n cs x.w.dst 0 x.dstPipe vl f
    let t := { t with flags := rs.foldl (fun (a : NumFlags) (r : Nat × NumFlags) => a ||| r.2) (t.flags ||| fb), reads := t.reads ++ rb, elems := t.elems + vl }
    .ok (t.put x.c f p (rs.map Prod.fst))
  match go with
  | .ok t => t
  | .error e => t.fail e

/-- VL of an iteration in format `f`: 0x26 if it exceeds the lane count (R282, R346). -/
def VRun.vl (x : VRun) (f : Fmt) : Except Nat Nat :=
  let l := lanesFor x.vop f (srcFmt x.vop x.w) x.w
  if l < vlOf x.img then .error 0x26 else .ok (if vlOf x.img = 0 then l else vlOf x.img)

/-- One iteration: its format (R153, 0x10 or 0x23 if the table's entry does not fit), its VL and its VOP. -/
def VRun.iterate (x : VRun) (t : VSt) (n : Nat) : VSt :=
  let cs := countersOf x.img n
  match fmtOf ((t.s.core x.c).fmtAt x.w x.img cs) with
  | none => t.fail 0x10
  | some f =>
    if !vopFmt x.vop f then t.fail 0x23
    else match x.vl f with
      | .error e => t.fail e
      | .ok vl =>
        if x.vop = 0x19 then x.quant t n cs f vl
        else if x.vop = 0x1A ∨ x.vop = 0x1B then x.reduce t n cs f vl
        else if x.vop = 0x1C then x.scan t n cs f vl
        else if x.vop = 0x1D ∨ x.vop = 0x1E then x.gather t n cs f vl
        else if x.vop = 0x1F then x.insert t n cs f vl
        else if x.vop = 0x21 then x.drain t n cs f vl
        else x.elementwise t n cs f vl

/-- Iterations from `n` on; `k` are left. -/
def VRun.nest (x : VRun) : Nat → Nat → VSt → VSt
  | 0, _, t => t
  | k + 1, n, t => if t.err.isSome then t else VRun.nest x k (n + 1) (x.iterate t n)

/-! ## Pipes of a vector word (R346, R149, R151) -/

/-- The half-bytes that the whole nest uses of a pipe operand: VL elements an iteration, or one element a run. -/
def VRun.stream (x : VRun) (k : Core) (isDst : Bool) (f : Nat → Fmt) : Nat :=
  let n := nestSize x.img
  let vl (i : Nat) : Nat := match x.vl ((fmtOf (k.fmtAt x.w x.img (countersOf x.img i))).getD .f32) with
    | .ok v => v
    | .error _ => 0
  if isDst && decide (x.vop = 0x1A ∨ x.vop = 0x1B) then (if levelCount x.img 5 = 0 then 0 else n / levelCount x.img 5 * (f 0).nibs)
  else if x.w.fmt = 0x3F then (upto n).foldl (fun a i => a + vl i * (f i).nibs) 0
  else n * vl 0 * (f 0).nibs

/-- What a pipe operand of a vector word finds: its slot's byte address, a wait, or misuse. -/
inductive PipeUse where
  | slot (addr : Nat)
  | wait (addr : Nat)
  | misuse
  deriving DecidableEq, Repr

/-- The slot's byte address. -/
def PipeUse.addr (u : PipeUse) : Nat :=
  match u with
  | .slot a | .wait a => a
  | .misuse => 0

/-- A read or write of pipe `q` by the V engine for a stream of `len` half-bytes (R149 to R151). -/
def State.vecPipe (s : State) (c q len : Nat) (wr : Bool) : PipeUse :=
  let p := s.pipeFor c 0 q
  if p.slotG = 0 ∨ (if wr then p.prod else p.cons) ≠ 1 ∨ len ≠ 64 * p.slotG.toNat then .misuse
  else if wr then
    (if q = 31 then .slot (p.slotAt 0) else if s.pipeFree c 0 q = 0 then .wait (p.slotAt p.tail) else .slot (p.slotAt p.tail))
  else if p.fill = 0 then .wait (p.slotAt (if q = 31 then 0 else p.head))
  else .slot (p.slotAt (if q = 31 then 0 else p.head))

/-- The pipe uses of a word's three operand fields. -/
def VRun.pipes (x : VRun) (s : State) : PipeUse × PipeUse × PipeUse :=
  let k := s.core x.c
  let f (i : Nat) : Fmt := (fmtOf (k.fmtAt x.w x.img (countersOf x.img i))).getD .f32
  let none' : PipeUse := .slot 0
  let d := if fieldUsed (vopForm x.vop).dst false x.w.dst && decide (opKind x.w.dst = 1) then
      s.vecPipe x.c (opPay x.w.dst % 32) (x.stream k true (if x.vop = 0x11 then fun _ => .i8 else f)) true
    else none'
  let a := if fieldUsed (vopForm x.vop).a false x.w.a && decide (opKind x.w.a = 1) then
      s.vecPipe x.c (opPay x.w.a % 32)
        (x.stream k false (match srcFmt x.vop x.w with | some g => fun _ => g | none => if x.vop = 0x1F then fun _ => .i32 else f)) false
    else none'
  let b := if fieldUsed (vopForm x.vop).b (vopForm x.vop).bZero x.w.b && decide (opKind x.w.b = 1) then
      s.vecPipe x.c (opPay x.w.b % 32)
        (x.stream k false (if x.vop = 0x21 then fun _ => (codeFmt (chainBfmt x.img)).getD .f32 else f)) false
    else none'
  (d, a, b)

/-- VADV: the advances of the pipes in A and B, or misuse (R360, R151). -/
def State.vecAdvance (s : State) (c : Nat) (w : VWord) : Option (List PipeMove) :=
  let qs := [opPay w.a % 32] ++ (if w.b = 0 then [] else [opPay w.b % 32])
  let ok (i : Nat) (q : Nat) : Bool :=
    let p := s.pipeFor c 0 q
    decide (p.slotG ≠ 0 ∧ p.cons = 1) && (decide (q = 31) || decide (((qs.take (i + 1)).filter (fun x => decide (x = q))).length ≤ p.fill))
  if (qs.zipIdx).all (fun e => ok e.2 e.1) then some (qs.map (fun q => .pop q 1)) else none

/-- The image of the scratch writes as the package's intervals (R166). -/
def packageSpans (c : Nat) (a : List (Nat × Nat)) : List (Nat × Nat) := a.map (fun x => (c * 2 ^ 32 + x.1, c * 2 ^ 32 + x.2))

/-- Iterations of the nest within one of its outermost level. -/
def VRun.inner (x : VRun) : Nat := (upto 5).foldl (fun n l => n * levelCount x.img (l + 1)) 1

/-- Elements that the iterations before `n` have counted (R220). -/
def VRun.elemsBefore (x : VRun) (k : Core) (n : Nat) : Nat :=
  (upto n).foldl (fun a i => a + match fmtOf (k.fmtAt x.w x.img (countersOf x.img i)) with
    | none => 0
    | some f => match x.vl f with
      | .ok v => v
      | .error _ => 0) 0

/-- Outermost iterations [`j`, `j + m`) of a word (R154). -/
def VRun.outer (x : VRun) (s : State) (j m : Nat) : VSt :=
  let n := j * x.inner
  VRun.nest x (m * x.inner) n { s := s, elems := x.elemsBefore (s.core x.c) n,
                                runs := if levelCount x.img 5 = 0 then 0 else n / levelCount x.img 5 }

/-- What a vector word reads and writes in scratch, and whether the two meet (R142, R160, R166). -/
structure VSpans where
  reads : List (Nat × Nat)
  writes : List (Nat × Nat)
  meets : Bool
  deriving DecidableEq, Repr

/-- The spans of a run that has come to an end. -/
def VRun.spans (x : VRun) (t : VSt) (f : Fmt) : VSpans :=
  { reads := t.reads, writes := t.writes
    meets := (if x.vop = 0x20 then x.hashMeets t f else spansMeet t.reads t.writes) || decide (x.vop = 0x1F) }

/-- The flags of the conversions of a word's immediates, which it has also where its nest is empty (R223). -/
def VRun.immFlags (x : VRun) (f : Fmt) : NumFlags :=
  let imm (o : BitVec 18) (g : Fmt) : NumFlags := if opKind o = 3 then (immRaw g (opPay o)).2 else 0
  let step (t : ChainStep) : NumFlags :=
    let g := (codeFmt t.fmt).getD .f32
    (if (t.op ≤ 6 ∧ nbit t.role 0) ∨ (t.op = 0x10 ∧ (nbit t.role 2 ∨ nbit t.role 3)) then (immRaw g t.imm1).2 else 0)
      ||| (if t.op = 0x10 ∧ nbit t.role 2 ∧ nbit t.role 3 then (immRaw g t.imm2).2 else 0)
  if x.noFlags then 0
  else imm x.w.a ((srcFmt x.vop x.w).getD f) ||| (if x.vop = 0x18 ∨ x.vop = 0x19 then 0 else imm x.w.b f)
    ||| (if x.vop = 0x21 then (drainSteps x.img).foldl (fun a t => a ||| step t) 0 else 0)

/-- Flags that a word has without an iteration. -/
def VRun.startFlags (x : VRun) (s : State) : NumFlags :=
  if nestSize x.img = 0 ∧ x.vop ≠ 0x20 then
    x.immFlags ((fmtOf ((s.core x.c).fmtAt x.w x.img (countersOf x.img 0))).getD .f32)
  else 0

/-- A word that has executed: `t` is its last part, `fl` the flags of the parts before it. -/
def VRun.launch (x : VRun) (t : VSt) (sp : VSpans) (fl : NumFlags) (prog : Nat) : State :=
  t.s.launchWord x.c 0 {
    seq := x.seq, raise := x.w.raise, flags := fl ||| t.flags ||| x.startFlags t.s, reads := sp.reads, writes := packageSpans x.c sp.writes
    overlap := sp.meets, prog := prog
    moves := if opKind x.w.dst = 1 then [.push (opPay x.w.dst % 32) 1] else [] }

/-- R142 holds a word that would write a granule which an unconfirmed word of its ring reads. -/
def Ring.holds (g : Ring) (sp : VSpans) : Bool :=
  spansMeet (granules sp.writes) (granules (g.flight.flatMap Flight.reads))

/-- The whole of a word, from its first iteration. -/
def VRun.all (x : VRun) (s : State) (f0 : Fmt) : VSt :=
  if x.vop = 0x20 then x.drainHash { s := s } f0 else x.outer s 0 (levelCount x.img 0)

/-- A word of at most one outermost iteration, or a VHDRN: it executes in one step. -/
def VRun.whole (x : VRun) (s : State) (f0 : Fmt) : State :=
  let t := x.all s f0
  let sp := x.spans t f0
  if ((s.core x.c).ring 0).holds sp then s
  else match t.err with
    | some e => t.s.engineExc x.c 0 x.seq e
    | none => x.launch t sp 0 (if x.vop = 0x20 then 1 else levelCount x.img 0)

/-- One outermost iteration of a word in progress: its mark becomes visible 2,100 cycles later, and the last one ends the
word (R141, R154). -/
def VRun.part (x : VRun) (s : State) : State :=
  let g := (s.core x.c).ring 0
  let t := x.outer s g.done 1
  match t.err with
  | some e => t.s.engineExc x.c 0 x.seq e
  | none =>
    let fl := g.facc ||| t.flags
    let y : YoungMark := { seq := x.seq, prog := g.done + 1, flags := fl, since := s.cycle }
    if g.done + 1 < levelCount x.img 0 then
      t.s.onRing x.c 0 (fun g => { g with done := g.done + 1, facc := fl, young := g.young ++ [y], wait := .none })
    else (x.launch t { reads := g.uses, writes := g.spans.map (fun w => (w.1 - x.c * 2 ^ 32, w.2 - x.c * 2 ^ 32)), meets := g.overlap } g.facc
        (g.done + 1)).onRing x.c 0 (fun g => { g with young := g.young ++ [y] })

/-- A word of several outermost iterations starts at its last visible PROG (R154): what it reads and writes is known, and
it holds where R142 says so. -/
def VRun.start (x : VRun) (s : State) (f0 : Fmt) : State :=
  let g := (s.core x.c).ring 0
  let prog := min (markProg (s.mark x.c 0 x.seq)) (levelCount x.img 0)
  let sp := x.spans (x.outer s 0 (levelCount x.img 0)) f0
  if g.holds sp then s
  else if prog = levelCount x.img 0 then x.launch { s := s } sp (g.flagsOf x.seq) prog
  else x.part (s.onRing x.c 0 (fun g => { g with
    begun := true, done := prog, facc := if prog ≠ 0 then g.flagsOf x.seq else 0
    uses := sp.reads, spans := packageSpans x.c sp.writes, overlap := sp.meets }))

/-- Run a vector word whose await has passed: an outermost iteration of it, to an exception, or not yet (a pipe wait,
R149; a hold, R142). -/
def State.runVector (s : State) (c vop : Nat) (w : VWord) : State :=
  let k := s.core c
  let g := k.ring 0
  let n := g.next
  let img := k.lntImage 0 w.lnt.toNat
  let x : VRun := {
    c := c, seq := n, seed := k.strand.engSeed, vop := vop, w := w, img := img, planned := (k.thunks.plannedWord 0 n).isSome }
  let flight : Flight := { seq := n, raise := w.raise }
  if vop = 0x23 then s.launchWord c 0 flight
  else if vop = 0x22 then
    match s.vecAdvance c w with
    | some ms => s.launchWord c 0 { flight with moves := ms }
    | none => s.engineExc c 0 n 0x11
  else
    let (d, a, b) := x.pipes s
    if d = .misuse ∨ a = .misuse ∨ b = .misuse then s.engineExc c 0 n 0x11
    else match d, a, b with
      | .slot pd, .slot pa, .slot pb =>
        let x := { x with dstPipe := pd, aPipe := pa, bPipe := pb }
        let f0 := (fmtOf (k.fmtAt w img (countersOf img 0))).getD .f32
        if vop = 0x20 ∨ levelCount img 0 ≤ 1 then x.whole s f0
        else if g.begun then x.part s
        else x.start s f0
      | _, _, _ =>
        -- the granules that it is to write are pending from its start (R166)
        let x := { x with dstPipe := d.addr, aPipe := a.addr, bPipe := b.addr }
        let f0 := (fmtOf (k.fmtAt w img (countersOf img 0))).getD .f32
        s.onRing c 0 (fun g => { g with wait := .pipe, spans := packageSpans c (x.spans (x.all s f0) f0).writes })

/-- A vector word at the V engine's next sequence (R141). -/
def State.vector (s : State) (vop : Nat) (w : VWord) : Out :=
  let c := s.actor.core
  .next (match s.beginWord c 0 (vecCheck vop w (s.core c)) w.await w.raise with
    | .go s => s.runVector c vop w
    | .stop s => s)

/-! ## The words -/

/-- VMOV (R349). -/
def execVmov (word : VWord) (s : State) : Out := s.vector 0x01 word

/-- VADD (R349). -/
def execVadd (word : VWord) (s : State) : Out := s.vector 0x02 word

/-- VSUB (R349). -/
def execVsub (word : VWord) (s : State) : Out := s.vector 0x03 word

/-- VMUL (R349). -/
def execVmul (word : VWord) (s : State) : Out := s.vector 0x04 word

/-- VFMA (R349). -/
def execVfma (word : VWord) (s : State) : Out := s.vector 0x05 word

/-- VDIV (R349). -/
def execVdiv (word : VWord) (s : State) : Out := s.vector 0x06 word

/-- VMIN (R349). -/
def execVmin (word : VWord) (s : State) : Out := s.vector 0x07 word

/-- VMAX (R349). -/
def execVmax (word : VWord) (s : State) : Out := s.vector 0x08 word

/-- VABS (R349). -/
def execVabs (word : VWord) (s : State) : Out := s.vector 0x09 word

/-- VNEG (R349). -/
def execVneg (word : VWord) (s : State) : Out := s.vector 0x0A word

/-- VEXP (R350). -/
def execVexp (word : VWord) (s : State) : Out := s.vector 0x0B word

/-- VLOG (R350). -/
def execVlog (word : VWord) (s : State) : Out := s.vector 0x0C word

/-- VRCP (R350). -/
def execVrcp (word : VWord) (s : State) : Out := s.vector 0x0D word

/-- VRSQ (R350). -/
def execVrsq (word : VWord) (s : State) : Out := s.vector 0x0E word

/-- VTANH (R350). -/
def execVtanh (word : VWord) (s : State) : Out := s.vector 0x0F word

/-- VSILU (R350). -/
def execVsilu (word : VWord) (s : State) : Out := s.vector 0x10 word

/-- VCMP (R351). -/
def execVcmp (word : VWord) (s : State) : Out := s.vector 0x11 word

/-- VSEL (R351). -/
def execVsel (word : VWord) (s : State) : Out := s.vector 0x12 word

/-- VAND (R351). -/
def execVand (word : VWord) (s : State) : Out := s.vector 0x13 word

/-- VOR (R351). -/
def execVor (word : VWord) (s : State) : Out := s.vector 0x14 word

/-- VXOR (R351). -/
def execVxor (word : VWord) (s : State) : Out := s.vector 0x15 word

/-- VSHL (R351). -/
def execVshl (word : VWord) (s : State) : Out := s.vector 0x16 word

/-- VSHR (R351). -/
def execVshr (word : VWord) (s : State) : Out := s.vector 0x17 word

/-- VCVT (R352). -/
def execVcvt (word : VWord) (s : State) : Out := s.vector 0x18 word

/-- VQNT (R353). -/
def execVqnt (word : VWord) (s : State) : Out := s.vector 0x19 word

/-- VRSUM (R354). -/
def execVrsum (word : VWord) (s : State) : Out := s.vector 0x1A word

/-- VRMAX (R354). -/
def execVrmax (word : VWord) (s : State) : Out := s.vector 0x1B word

/-- VSCAN (R354). -/
def execVscan (word : VWord) (s : State) : Out := s.vector 0x1C word

/-- VGATH (R355). -/
def execVgath (word : VWord) (s : State) : Out := s.vector 0x1D word

/-- VSCAT (R355). -/
def execVscat (word : VWord) (s : State) : Out := s.vector 0x1E word

/-- VHINS (R356). -/
def execVhins (word : VWord) (s : State) : Out := s.vector 0x1F word

/-- VHDRN (R357). -/
def execVhdrn (word : VWord) (s : State) : Out := s.vector 0x20 word

/-- VDRN (R359). -/
def execVdrn (word : VWord) (s : State) : Out := s.vector 0x21 word

/-- VADV (R360). -/
def execVadv (word : VWord) (s : State) : Out := s.vector 0x22 word

/-- VNOP (R360). -/
def execVnop (word : VWord) (s : State) : Out := s.vector 0x23 word

end Sys2Proof.Machine
end

