-- ==== Sys2Proof/Machine/Matrix.lean ====
section
/-! DEFINITION. The matrix engine: decode checks (R362, R279), the operands of a tile step (R363 to R367), its arithmetic
(R227, R226), nests with their commits (R365, R157), MZERO, MCMT and MNOP (R368), and replay by marks (R158, R369). -/

namespace Sys2Proof.Machine

/-! ## Decode checks (Tables 20-1, 15-12) -/

/-- A matrix format (R227). -/
def Fmt.isMatrix : Fmt → Bool
  | .i8 | .h4s | .h4u | .bf16 | .f16 => true
  | .b8 _ _ _ => true
  | _ => false

/-- FMT_A or FMT_B at an iteration: code 0x3F reads the format table (R153, R365). -/
def Core.matCode (k : Core) (code : BitVec 6) (img : BitVec 2176) (cs : List Nat) : BitVec 6 :=
  if code = 0x3F then sget 0 k.fmtTab (match fmtSel img with | some l => cs.getD l 0 % 64 | none => 0) else code

/-- A format of an iteration, or its XCODE: 0x10 reserved, 0x23 refused. -/
def Core.matFmt (k : Core) (code : BitVec 6) (img : BitVec 2176) (cs : List Nat) : Except Nat Fmt :=
  match fmtOf (k.matCode code img cs) with
  | none => .error 0x10
  | some f => if f.isMatrix then .ok f else .error 0x23

/-- Every field that Table 20-1 marks 0 for MZERO, MCMT and MNOP is zero. -/
def wordBare (w : MWord) : Bool :=
  decide (w.fmtA = 0 ∧ w.fmtB = 0 ∧ w.accm = 0 ∧ w.lnt = 0 ∧ w.scale = 0 ∧ w.aux = 0 ∧ w.flags = 0 ∧ w.ava = 0 ∧ w.bva = 0)

/-- The snapshot bank of an enabled pair (R156). -/
def Core.snapshot (k : Core) (b : Nat) : Bool := decide (b % 2 = 1) && k.paired b

/-- The first failing check of Table 15-12 for a matrix word. -/
def matCheck (mop : Nat) (w : MWord) (k : Core) : Option Nat :=
  let img := k.lntImage 1 w.lnt.toNat
  let cs := countersOf img 0
  if 4 ≤ mop then
    if !wordBare w || decide (mop ≠ 4 ∧ w.bank ≠ 0) then some 0x25
    else if decide (mop = 4) && k.snapshot w.bank.toNat then some 0x15 else none
  else if 32 ≤ w.flags.toNat || (decide (mop ≠ 2) && decide (w.scale ≠ 0)) || (decide (mop ≠ 3) && w.flags.getLsbD 4) then some 0x25
  else if decide (2 ≤ w.accm.toNat ∨ 64 < w.aux.toNat) || (decide (mop = 2) && decide (w.lnt = 0 ∨ w.scale = 0 ∨ 4 ≤ w.scale.toNat))
      || (decide (mop = 3) && (!w.flags.getLsbD 4 || w.flags.getLsbD 0))
      || (w.flags.getLsbD 2 && decide (0x200000 ≤ w.ava.toNat)) || (w.flags.getLsbD 3 && decide (0x200000 ≤ w.bva.toNat))
      || lntBad 1 img then some 0x26
  else if k.snapshot w.bank.toNat then some 0x15
  else match k.matFmt w.fmtA img cs, k.matFmt w.fmtB img cs with
    | .error 0x10, _ => some 0x10
    | _, .error 0x10 => some 0x10
    | .error e, _ => some e
    | _, .error e => some e
    | .ok _, .ok _ => none

/-! ## A tile step -/

/-- A tile step with its addresses: positions and strides in half-bytes. -/
structure MStep where
  c : Nat
  mop : Nat
  fa : Fmt
  fb : Fmt
  a0 : Int
  b0 : Int
  ra : Int
  rb : Int
  aT : Bool
  bT : Bool
  aScr : Bool
  bScr : Bool
  rows : Nat
  cols : Nat
  col0 : Nat
  kv : Nat
  fresh : Bool
  bank : Nat
  /-- MMAS: the scales' byte addresses and row strides -/
  sA : Option Int
  sB : Option Int
  sAs : Int
  sBs : Int
  deriving DecidableEq, Repr

/-- The columns of a step: 16 × N16, 512 for 0. -/
def wordCols (w : MWord) : Nat := if w.n16 = 0 then 512 else 16 * w.n16.toNat

/-- Iteration `it` of a word as a tile step, or the XCODE that ends the word (R363, R365). -/
def matStep (k : Core) (c mop : Nat) (w : MWord) (img : BitVec 2176) (it : Nat) : Except Nat MStep := do
  let cs := countersOf img it
  let fa ← k.matFmt w.fmtA img cs
  let fb ← k.matFmt w.fmtB img cs
  let n := wordCols w
  let b7 := imgField img 28 4
  let cols := if nbits b7 8 10 = 0 then n else nbits b7 8 10
  let rows := if nbits b7 0 8 = 0 then 128 else min 128 (nbits b7 0 8)
  let off2 := streamOff img cs 2
  let zero := (upto 6).all (fun l => decide (lntStride img l 3 = 0 ∧ lntStride img l 4 = 0 ∧ (l < 2 ∨ lntStride img l 7 = 0)))
    && decide (b7 < 2 ^ 18)
  if !zero then .error 0x26
  else if off2 < 0 ∨ off2 % 64 ≠ 0 ∨ 512 < off2.toNat / 4 + n ∨ n < cols then .error 0x26
  else
    let aT := w.flags.getLsbD 0
    let bT := w.flags.getLsbD 1
    let nib (x : Int) (dense : Nat) : Int := if x = 0 then (dense : Int) else 2 * x
    let kLast := decide (cs.getD 5 0 + 1 = levelCount img 5)
    let a := (w.ava.toNat : Int) + streamOff img cs 0
    let b := (w.bva.toNat : Int) + streamOff img cs 1
    let kv := if kLast ∧ w.aux ≠ 0 then w.aux.toNat else 64
    let m : MStep := {
      c := c, mop := mop, fa := fa, fb := fb, a0 := 2 * a, b0 := 2 * b
      ra := nib (lntBase img 3) ((if mop = 3 then 32 else if aT then 128 else 64) * fa.nibs)
      rb := nib (lntBase img 4) ((if bT then 64 else n) * fb.nibs)
      aT := aT, bT := bT, aScr := w.flags.getLsbD 2, bScr := w.flags.getLsbD 3
      rows := rows, cols := cols, col0 := off2.toNat / 4, kv := kv
      fresh := decide (w.accm = 1 ∧ cs.getD 5 0 = 0), bank := w.bank.toNat
      sA := if mop = 2 ∧ w.scale.getLsbD 0 then some ((w.ava.toNat : Int) + streamOff img cs 5) else none
      sB := if mop = 2 ∧ w.scale.getLsbD 1 then some ((w.bva.toNat : Int) + streamOff img cs 6) else none
      sAs := if lntStride img 0 7 = 0 then 2 else lntStride img 0 7
      sBs := if lntStride img 1 7 = 0 then (n : Int) else lntStride img 1 7 }
    -- every operand row address is a multiple of the element size, 1 byte for 4-bit formats
    let fits (p r : Int) (rows z : Nat) : Bool := decide (rows = 0) ||
      (decide (p % max z 2 = 0) && (decide (rows ≤ 1) || decide (r % max z 2 = 0)))
    if fits m.a0 m.ra (if aT then kv else rows) fa.nibs && fits m.b0 m.rb (if bT then cols else kv) fb.nibs then .ok m
    else .error 0x26

/-- The raw bits of the operand element at a half-byte position, in scratch or at a VA. -/
def State.matElem (s : State) (c : Nat) (scr : Bool) (f : Fmt) (pos : Int) : Chk (State × Nat) :=
  if scr then .ok (s, s.elemAt c f (low 22 pos))
  else
    let p := low 58 pos
    match s.engRead c (p / 2) f.bytes with
    | .error e => .error e
    | .ok (s, bs) => .ok (s, if f.bits = 4 then nbits (ofBytes bs) (4 * (p % 2)) 4 else ofBytes bs)

/-- Elements at a list of positions, in order. -/
def State.matElems (s : State) (c : Nat) (scr : Bool) (f : Fmt) : List Int → Chk (State × List Nat)
  | [] => .ok (s, [])
  | p :: ps =>
    match s.matElem c scr f p with
    | .error e => .error e
    | .ok (s, v) =>
      match State.matElems s c scr f ps with
      | .error e => .error e
      | .ok (s, vs) => .ok (s, v :: vs)

/-- Blocks of 32 along K that the valid K reaches. -/
def MStep.blocks (m : MStep) : Nat := (m.kv + 31) / 32

/-- The positions p0 and p1 of a metadata nibble (R367). -/
def metaPos (n : Nat) : Nat × Nat := (n % 4, n / 4 % 4)

/-- Row `i` of A: the 64 raw codes up to the valid K, then the scales of its blocks (R364, R366); for MSPM the 16
metadata nibbles, then the raw codes of the 32 values, 0 for one not fetched (R367). -/
def MStep.loadA (m : MStep) (s : State) (i : Nat) : Chk (State × List Nat) := do
  if m.mop = 3 then
    let (s, ms) ← s.matElems m.c m.aScr .h4u ((upto 16).map (fun (g : Nat) => m.a0 + 128 * m.ra + 16 * (i : Int) + g))
    let want := (ms.zipIdx).flatMap (fun n => [4 * n.2 + (metaPos n.1).1, 4 * n.2 + (metaPos n.1).2])
    let (s, vs) ← (want.zipIdx).foldlM (fun (st : State × List Nat) (e : Nat × Nat) =>
      if m.kv ≤ e.1 then (.ok (st.1, st.2 ++ [0]) : Chk (State × List Nat))
      else match st.1.matElem m.c m.aScr m.fa (m.a0 + (i : Int) * m.ra + (e.2 : Nat) * (m.fa.nibs : Nat)) with
        | .error x => .error x
        | .ok (s, v) => .ok (s, st.2 ++ [v])) (s, [])
    .ok (s, ms ++ vs)
  else
    let at' (k : Nat) : Int := if m.aT then m.a0 + (k : Int) * m.ra + (i : Int) * m.fa.nibs else m.a0 + (i : Int) * m.ra + (k : Int) * m.fa.nibs
    let (s, vs) ← s.matElems m.c m.aScr m.fa ((upto m.kv).map at')
    match m.sA with
    | none => .ok (s, vs)
    | some p =>
      let (s, es) ← s.matElems m.c m.aScr .e8s ((upto m.blocks).map (fun (b : Nat) => 2 * (p + (i : Int) * m.sAs + b)))
      .ok (s, vs ++ es)

/-- Row `k` of B: the raw codes of the valid columns, and at the start of a block its scales. -/
def MStep.loadB (m : MStep) (s : State) (k : Nat) : Chk (State × List Nat) := do
  let at' (j : Nat) : Int := if m.bT then m.b0 + (j : Int) * m.rb + (k : Int) * m.fb.nibs else m.b0 + (k : Int) * m.rb + (j : Int) * m.fb.nibs
  let (s, vs) ← s.matElems m.c m.bScr m.fb ((upto m.cols).map at')
  match m.sB with
  | none => .ok (s, vs)
  | some p =>
    if k % 32 ≠ 0 then .ok (s, vs)
    else
      let (s, es) ← s.matElems m.c m.bScr .e8s ((upto m.cols).map (fun (j : Nat) => 2 * (p + ((k / 32 : Nat) : Int) * m.sBs + j)))
      .ok (s, vs ++ es)

/-- Row `i` of the step's load: A rows 0 to 127, then B rows 0 to 63 (R186); rows outside the extents read nothing. -/
def MStep.loadRow (m : MStep) (s : State) (i : Nat) : Chk (State × List Nat) :=
  if i < 128 then (if i < m.rows then m.loadA s i else .ok (s, []))
  else if i - 128 < m.kv then m.loadB s (i - 128) else .ok (s, [])

/-- Load rows until all 192 have been loaded or one stops; `k` are left. -/
def MStep.load (m : MStep) : Nat → State → List (List Nat) → State × List (List Nat) × Option Stop
  | 0, s, rows => (s, rows, none)
  | k + 1, s, rows =>
    match m.loadRow s rows.length with
    | .error e => (s, rows, some e)
    | .ok (s, r) => MStep.load m k s (rows ++ [r])

/-! ## The arithmetic of a step (R227) -/

/-- A value under a block scale (R226). -/
def scaled (v : Val) (scale : Nat) : Val := (vmul v (Fmt.e8s.val scale)).1

/-- The padding value of a format: zero, or code 0 of H4S and H4U (R233). -/
def padVal (f : Fmt) : Val := if f = .h4s ∨ f = .h4u then f.val 0 else .zero false

/-- The 64 values of row `i` of A. -/
def MStep.aVals (m : MStep) (row : List Nat) : List Val :=
  (upto 64).map (fun k =>
    if m.mop = 3 then
      let p := metaPos (row.getD (k / 4) 0)
      if m.kv ≤ k then padVal m.fa
      else if k % 4 = p.1 then m.fa.val (row.getD (16 + k / 4 * 2) 0)
      else if k % 4 = p.2 then m.fa.val (row.getD (16 + k / 4 * 2 + 1) 0)
      else .zero false
    else
      let v := if m.kv ≤ k then padVal m.fa else m.fa.val (row.getD k 0)
      match m.sA with
      | none => v
      | some _ => if k / 32 < m.blocks then scaled v (row.getD (m.kv + k / 32) 0) else v)

/-- The 64 values of column `j` of B. -/
def MStep.bVals (m : MStep) (rows : List (List Nat)) (j : Nat) : List Val :=
  (upto 64).map (fun k =>
    let v := if m.kv ≤ k then padVal m.fb else m.fb.val ((rows.getD (128 + k) []).getD j 0)
    match m.sB with
    | none => v
    | some _ => if k / 32 < m.blocks then scaled v ((rows.getD (128 + k / 32 * 32) []).getD (m.cols + j) 0) else v)

/-- The step of one element: exact products and sum with C, unless the step overwrites, rounded once (R227). -/
def stepElem (fresh : Bool) (c : Val) (as bs : List Val) : Nat × NumFlags :=
  let nan (v : Val) : Bool := decide (v = .nan)
  if as.any nan || bs.any nan || (!fresh && nan c) then nanCode .f32
  else
    let sum := (as.zip bs).foldl (fun (p : Val × NumFlags) (v : Val × Val) =>
      let m := vmul v.1 v.2
      let a := vadd p.1 m.1
      (a.1, p.2 ||| m.2 ||| a.2)) (if fresh then .zero true else c, 0)
    finish .f32 .rne false 0 sum

/-- A metadata nibble with p1 ≤ p0 in a valid row (R367). -/
def MStep.badMeta (m : MStep) (rows : List (List Nat)) : Bool :=
  decide (m.mop = 3) && (rows.take m.rows).any (fun r => (r.take 16).any (fun n => decide ((metaPos n).2 ≤ (metaPos n).1)))

/-- The accumulator index of an element of the step. -/
def MStep.elemIx (m : MStep) (i j : Nat) : Nat := 512 * i + m.col0 + j

/-- The step on its bank. -/
def MStep.compute (m : MStep) (s : State) (rows : List (List Nat)) : State × NumFlags :=
  let cols := (upto m.cols).map (fun j => (j, m.bVals rows j))
  ((rows.take m.rows).zipIdx).foldl (fun (st : State × NumFlags) (row : List Nat × Nat) =>
    let as := m.aVals row.1
    cols.foldl (fun (st : State × NumFlags) (b : Nat × List Val) =>
      let x := m.elemIx row.2 b.1
      let o := stepElem m.fresh (Fmt.f32.val (st.1.accAt m.c m.bank x).toNat) as b.2
      (st.1.setAcc m.c m.bank x (BitVec.ofNat 32 o.1), st.2 ||| o.2)) st) (s, 0)

/-! ## Running a word -/

/-- The level of a commit interval that ends with iteration `it` (R157). -/
def commitsAt (img : BitVec 2176) (it : Nat) : Bool :=
  let cs := countersOf img it
  (upto 6).any (fun l => decide (cmtInt img l ≠ 0 ∧ (cs.getD l 0 + 1) % cmtInt img l = 0)
    && (upto 6).all (fun i => decide (i ≤ l) || decide (cs.getD i 0 + 1 = levelCount img i)))

/-- A commit inside the word at sequence `n`, after `it` iterations, once its wait is over: PROG is `it`, RCMT the word
itself (R157). No word before it is unconfirmed, so it is at RHEAD or its replay passes it (R162). -/
def State.commitInside (s : State) (c : Nat) (n : BitVec 32) (it : Nat) (facc : NumFlags) : State :=
  let s := (s.onCore c (fun k => k.commit n)).commitMarks c n
  let m := s.mark c 1 n
  (s.setMark c 1 n it (markAwt m) (markDone m)).onRing c 1 (fun g => { g with
    cflags := g.markedFlags n facc, resets := if n = g.rhead ∧ markProg m ≠ it then 0 else g.resets, hold := none })

/-- The engine has written bank `b` (R157). -/
def State.bankWritten (s : State) (c b : Nat) : State :=
  s.onCore c (fun k => if k.paired b then { k with uncommitted := true } else k)

/-- Iterations of a tile-step word from `it` on, to the next commit inside it or to its end; `k` are left. -/
def State.matNest (c mop : Nat) (w : MWord) (img : BitVec 2176) : Nat → Nat → State → State
  | 0, _, s =>
    let g := (s.core c).ring 1
    s.launchWord c 1 { seq := g.next, flags := g.facc, raise := w.raise, bank := some w.bank.toNat, late := true }
  | k + 1, it, s =>
    let g := (s.core c).ring 1
    match matStep (s.core c) c mop w img it with
    | .error e => s.engineExc c 1 g.next e
    | .ok m =>
      let (s, rows, st) := m.load (192 - g.rows.length) s g.rows
      match st with
      | some e =>
        (s.onCore c (fun k => { k.setRing 1 { k.ring 1 with rows := rows, done := it, begun := true } with
          rowprog := rows.length })).engStop c 1 none e
      | none =>
        let s := s.onCore c (fun k => { k with rowprog := 192 })
        if m.badMeta rows then s.engineExc c 1 g.next 0x28
        else
          let (s, fl) := m.compute s rows
          let facc := g.facc ||| fl
          let s := (s.bankWritten c w.bank.toNat).onRing c 1 (fun g => { g with
            rows := [], done := it + 1, begun := true, facc := facc, wait := .none, atCommit := false })
          -- the commit waits until the step is 2,100 cycles old (R157 step 1)
          if commitsAt img it then s.onRing c 1 (fun g => { g with hold := some (s.cycle + confirmCycles) })
          else State.matNest c mop w img k (it + 1) s

/-- A word that raises after writing a protected bank awaits its commit: no later word changes an accumulator (R394). -/
def Ring.commitDue (g : Ring) (k : Core) : Bool :=
  g.flight.any (fun f => decide (semCount f.raise ≠ 0) && (match f.bank with | some b => k.paired b | none => false))

/-- Where a tile-step word starts (R158): none where it does not run again. -/
def State.matStart (s : State) (c : Nat) (w : MWord) : Option Nat :=
  let k := s.core c
  let g := k.ring 1
  let m := s.mark c 1 g.next
  let b := w.bank.toNat
  if k.paired b then (if g.belowRcmt g.next then none else some (markProg m))
  else if k.unsettled.contains b then some 0
  else if markDone m then none
  else if g.belowRcmt g.next then some 0 else some (markProg m)

/-- A tile-step word whose await has passed. -/
def State.runStep (s : State) (c mop : Nat) (w : MWord) : State :=
  let k := s.core c
  let g := k.ring 1
  let img := k.lntImage 1 w.lnt.toNat
  let n := nestSize img
  if g.commitDue k then s
  else if g.begun then
    match g.hold with
    | some h => if s.cycle < h then s else s.commitInside c g.next g.done g.facc
    | none => State.matNest c mop w img (n - g.done) g.done s
  else match s.matStart c w with
    | none => s.launchWord c 1 { seq := g.next, raise := w.raise, late := true }
    | some start =>
      -- a commit inside the word waits until the words before it are confirmed
      if !g.flight.isEmpty && (upto 6).any (fun l => decide (cmtInt img l ≠ 0)) then s
      else
        let facc := if start ≠ 0 then g.flagsOf g.next else 0
        let s := ((s.takeBank c w.bank.toNat g.next).onRing c 1 (fun g => { g with facc := facc, rows := [] })).onCore c (fun k => { k with rowprog := 0 })
        State.matNest c mop w img (n - start) start s

/-- MMA, MMAS or MSPM at the M engine's next sequence. -/
def State.matrix (s : State) (mop : Nat) (w : MWord) : Out :=
  let c := s.actor.core
  .next (match s.beginWord c 1 (matCheck mop w (s.core c)) w.await w.raise with
    | .go s => s.runStep c mop w
    | .stop s => s)

/-- Every element of bank `b` is +0 (R368). -/
def Core.zeroBank (k : Core) (b : Nat) : Core :=
  { k with acc := k.acc.filter (fun e => decide (e.1 / 65536 ≠ b)), accZero := bset k.accZero b }

/-- MZERO whose await has passed. -/
def State.runZero (s : State) (c : Nat) (w : MWord) : State :=
  let k := s.core c
  let g := k.ring 1
  let b := w.bank.toNat
  let f : Flight := { seq := g.next, raise := w.raise }
  if g.commitDue k then s
  else if k.paired b && (g.belowRcmt g.next || decide (markProg (s.mark c 1 g.next) ≠ 0)) then s.launchWord c 1 f
  else
    let s := (s.takeBank c b g.next).onCore c (fun k =>
      let k := (k.zeroBank b).setRing 1 { k.ring 1 with atCommit := false }
      let k := { k with mzseq := sset 0 k.mzseq b g.next }
      if k.paired b then { k with uncommitted := true }
      else { k with unsettled := if k.unsettled.contains b then k.unsettled else k.unsettled ++ [b] })
    s.launchWord c 1 { f with bank := some b }

/-- The word just launched is confirmed at once. -/
def State.confirmLast (s : State) (c r : Nat) : State :=
  match ((s.core c).ring r).flight.getLast? with
  | some f => s.confirmWord c r f
  | none => s

/-- MCMT whose await has passed: it waits until the words before it are confirmed, commits, and is confirmed when its
copy ends (R157, R368, R394). -/
def State.runCommit (s : State) (c : Nat) (w : MWord) : State :=
  let g := (s.core c).ring 1
  if !g.flight.isEmpty then s
  else
    let s := if g.belowRcmt g.next then s else s.commitAt c (g.next + 1)
    (s.launchWord c 1 { seq := g.next, raise := w.raise }).confirmLast c 1

/-! ## The words -/

/-- MMA (R364). -/
def execMma (word : MWord) (s : State) : Out := s.matrix 1 word

/-- MMAS (R366). -/
def execMmas (word : MWord) (s : State) : Out := s.matrix 2 word

/-- MSPM (R367). -/
def execMspm (word : MWord) (s : State) : Out := s.matrix 3 word

/-- MZERO (R368). -/
def execMzero (word : MWord) (s : State) : Out :=
  let c := s.actor.core
  .next (match s.beginWord c 1 (matCheck 4 word (s.core c)) word.await word.raise with
    | .go s => s.runZero c word
    | .stop s => s)

/-- MCMT (R368). -/
def execMcmt (word : MWord) (s : State) : Out :=
  let c := s.actor.core
  .next (match s.beginWord c 1 (matCheck 5 word (s.core c)) word.await word.raise with
    | .go s => s.runCommit c word
    | .stop s => s)

/-- MNOP: it only awaits and raises, and is confirmed as soon as its await passes (R368). -/
def execMnop (word : MWord) (s : State) : Out :=
  let c := s.actor.core
  .next (match s.beginWord c 1 (matCheck 6 word (s.core c)) word.await word.raise with
    | .go s => (s.launchWord c 1 { seq := ((s.core c).ring 1).next, raise := word.raise }).confirmLast c 1
    | .stop s => s)

end Sys2Proof.Machine
end

