-- ==== Sys2Proof/Machine/Copy.lean ====
section
/-! DEFINITION. Copy words and stack-agent words (R370 to R379): their checks, their record (R371, R281), the elements in
destination linear order (R372, R373), fabric sends (R374, R375), pipes (R376) and reductions at a stack (R377). -/

namespace Sys2Proof.Machine

/-! ## Checks on the word (Tables 20-4, 15-12) -/

/-- The stack-agent unit of a COP (Table 20-4): 0 gather, 1 reduction, 2 conversion, 3 stream; none for a channel's. -/
def copUnit (cop : Nat) : Option Nat :=
  if cop = 8 ∨ cop = 9 then some 3 else if cop = 0x0A then some 0 else if cop = 0x0B then some 1
  else if cop = 0x0C then some 2 else none

/-- The checks on the word's own fields. -/
def copCheck (cop : Nat) (w : CWord) (r : Nat) : Option Nat :=
  let ch := w.ch.toNat
  if w.rsv ≠ 0 ∨ (cop = 0x0D ∧ (w.tsra ≠ 0 ∨ w.tsrsp = true)) then some 0x25
  else if decide (w.mod ≠ 0 ∨ (w.tsrsp = true ∧ 32768 ≤ w.tsra.toNat)) ||
      (match copUnit cop with
       | none => decide (ch ≠ r - 2)
       | some _ => decide (ch < 16)) then some 0x26
  else none

/-- The physical die and stack of the agent that a word names, or that it names none of the partition (0x13; R75, R84). -/
def State.agentOf (s : State) (c cop : Nat) (w : CWord) : Except Nat (Option (Nat × Nat)) :=
  match copUnit cop with
  | none => .ok none
  | some u =>
    let vd := (w.ch.toNat - 16) / 4
    let stack := w.ch.toNat % 4
    match localDie (s.vdie c vd) with
    | none => .error 0x13
    | some d =>
      let bit := 4 * (4 * d + stack) + u
      if bmem (s.fn (s.core c).fn).part.agents bit && !bmem s.retiredAgents bit then .ok (some (d, stack)) else .error 0x13

/-! ## Checks on the record (R281, R370) -/

/-- COPs that use a TSR field. -/
def usesSsp (cop : Nat) : Bool := [1, 2, 3, 4, 6, 7, 9, 0x0B].contains cop
def usesDsp (cop : Nat) : Bool := [1, 2, 3, 4, 5, 8, 0x0A, 0x0C].contains cop
def usesFab (cop : Nat) : Bool := decide (cop = 6 ∨ cop = 7)
def usesMode (cop : Nat) : Bool := [2, 5, 0x0C].contains cop
def usesIndex (cop : Nat) : Bool := [3, 4, 0x0A].contains cop

/-- A format code that is reserved; 0x3F is not. -/
def codeReserved (code : Nat) : Bool := decide (code ≠ 0x3F) && (codeFmt code).isNone

/-- The format relation of a COP (Table 20-4). -/
def fmtsFit (cop : Nat) (t : Tsr) : Bool :=
  decide (t.sfmt ≠ 0x3F ∧ t.dfmt ≠ 0x3F) &&
  (if [1, 3, 4, 6, 8, 9, 0x0A].contains cop then decide (t.sfmt = t.dfmt)
   else if cop = 7 then decide (t.sfmt = t.dfmt) && (reduceFmt t.sfmt).isSome
   else if cop = 5 then decide (t.sfmt = 0)
   else if cop = 0x0B then decide (t.sfmt ≠ 7) && [0, 1, 2, 4].contains t.dfmt
   else true)

/-- A reserved byte or bit, or a field that the COP does not use, is not zero (R281). -/
def tsrUnused (cop : Nat) (t : Tsr) : Bool :=
  let fl := t.flags
  let z (used : Bool) (v : Nat) : Bool := !used && decide (v ≠ 0)
  decide (64 ≤ t.sfmt ∨ 64 ≤ t.dfmt ∨ 2 ^ 57 ≤ t.src ∨ (if t.dfab then 2 ^ 48 else 2 ^ 57) ≤ t.dst ∨ 1024 ≤ t.peer
    ∨ t.at 19 1 ≠ 0 ∨ t.at 23 1 ≠ 0 ∨ 512 ≤ fl ∨ 65536 ≤ t.semid ∨ t.at 40 24 ≠ 0)
    || ((upto 16).drop t.ndim).any (fun i => decide (t.at (64 + 16 * i) 16 ≠ 0))
    || (t.ssp && !usesSsp cop) || (t.dsp && !usesDsp cop) || (t.dfab != usesFab cop)
    || z (decide (cop = 6)) t.vc || (t.sig && !usesFab cop) || z (usesMode cop) t.mode
    || z (usesFab cop) t.peer || z (usesFab cop) t.region || z (usesFab cop) t.semid
    || z (usesFab cop || usesIndex cop) t.delta || z (decide (cop = 7 ∨ cop = 0x0B)) t.slot
    || z (decide (cop = 7)) t.ncontrib || z (decide (cop = 7)) t.cindex
    || (decide (cop = 5) && (decide (2 ^ 32 ≤ t.src) || t.dims.any (fun d => decide (d.sstr ≠ 0))))
    || (decide (cop = 8) && (!t.dsp || decide (32 ≤ t.dst) || t.dims.any (fun d => decide (d.dstr ≠ 0))))
    || (decide (cop = 9) && (!t.ssp || decide (32 ≤ t.src) || t.dims.any (fun d => decide (d.sstr ≠ 0))))

/-- Every element address on one side is a multiple of the element size (R281): the base and each stride that is taken, or,
where the outermost dimension takes its indices from `ix`, those with the base. -/
def strideFits (base : Nat) (z : Nat) (ds : List (Nat × Int)) (ix : Option (List Int)) : Bool :=
  let ok (e : Nat × Int) : Bool := decide (e.1 ≤ 1) || decide (e.2 % z = 0)
  match ix with
  | none => decide (base % z = 0) && ds.all ok
  | some l =>
    let st := (ds.getLastD (1, 0)).2
    ds.dropLast.all ok && (decide ((base : Int) % z = 0 ∧ st % z = 0) || l.all (fun o => decide (((base : Int) + o * st) % z = 0)))

/-- Bytes of an element for alignment: 1 for a 4-bit format, whose strides count elements (R280). -/
def alignOf (code : Nat) : Nat := if nibbleFmt code then 1 else codeBytes code

/-- Dense strides of a CRED destination (R375). -/
def denseFrom (z : Int) : List Dim → Bool
  | [] => true
  | d :: ds => decide (d.dstr = z) && denseFrom ((d.ext : Int) * d.dstr) ds

/-- The TSR is invalid for the COP (R281, R370, R373, R375, R377); `ix` is its index array. -/
def tsrInvalid (cop : Nat) (t : Tsr) (ix : List Int) : Bool :=
  let n := t.count
  decide (t.ndim = 0 ∨ 16 < t.ndim) || tsrUnused cop t || !fmtsFit cop t || decide (2 ^ 62 ≤ n)
    || (usesIndex cop && decide (2 ^ 21 ≤ t.delta ∨ t.delta % 4 ≠ 0))
    || (decide (n ≠ 0) &&
        ((decide (cop ≠ 5 ∧ cop ≠ 9) &&
            !strideFits t.src (alignOf t.sfmt) (t.dims.map (fun d => (d.ext, d.sstr))) (if cop = 3 ∨ cop = 0x0A then some ix else none))
         || (decide (cop ≠ 8) &&
            !strideFits t.dst (alignOf t.dfmt) (t.dims.map (fun d => (d.ext, d.dstr))) (if cop = 4 then some ix else none))))
    || (decide (cop = 7) && (!denseFrom (codeBytes t.dfmt : Nat) t.dims || decide (262144 < n) || decide (t.ncontrib < 2 ∨ 16 < t.ncontrib)
         || decide (t.ncontrib ≤ t.cindex)))
    || (decide (cop = 7 ∨ cop = 0x0B) && decide (256 ≤ t.slot))

/-- The first failing check on a record, in the order of Table 15-12. -/
def tsrCheck (cop : Nat) (t : Tsr) (ix : List Int) : Option Nat :=
  if codeReserved (t.sfmt % 64) || codeReserved (t.dfmt % 64) then some 0x10
  else if usesMode cop && decide (5 ≤ t.mode) then some 0x22
  else if tsrInvalid cop t ix then some 0
  else none

/-! ## Elements (R372, R373) -/

/-- A copy word as it runs. -/
structure CRun where
  c : Nat
  r : Nat
  seq : BitVec 32
  cop : Nat
  t : Tsr
  /-- the die and stack of its agent -/
  stack : Option (Nat × Nat)
  deriving DecidableEq, Repr

/-- Why an element is not moved: the word ends with an XCODE, or an access stops. -/
inductive CFail where
  | code (x : Nat)
  | stop (e : Stop)
  deriving DecidableEq, Repr

/-- The format of a code that the checks have passed. -/
def goodFmt (code : Nat) : Fmt := (codeFmt code).getD .f32

/-- The indices of linear element `i`, innermost dimension first (R280). -/
def digitsOf : List Dim → Nat → List Nat
  | [], _ => []
  | d :: ds, i => i % d.ext :: digitsOf ds (i / d.ext)

/-- The half-byte position of element `i`: base + Σ index × stride, the outermost index taken from the index array where
the word gathers or scatters on that side. -/
def CRun.pos (x : CRun) (s : State) (i : Nat) (src : Bool) : Int :=
  let code := if src then x.t.sfmt else x.t.dfmt
  let unit : Int := if nibbleFmt code then 1 else 2
  let ix := digitsOf x.t.dims i
  let indexed := if src then decide (x.cop = 3 ∨ x.cop = 0x0A) else decide (x.cop = 4)
  let last := x.t.dims.length - 1
  ((x.t.dims.zip ix).zipIdx).foldl (fun (a : Int) (e : (Dim × Nat) × Nat) =>
    let n : Int := if indexed && decide (e.2 = last) then s.indexAt x.c x.t e.1.2 else (e.1.2 : Nat)
    a + n * (if src then e.1.1.sstr else e.1.1.dstr) * unit) (2 * ((if src then x.t.src else x.t.dst) : Nat))

/-- The half-byte position of element `i` in the slots of pipe `q` from slot `first` on (R376). -/
def CRun.pipePos (x : CRun) (s : State) (i : Nat) (code q first : Nat) : Nat :=
  let p := (s.core x.c).pipe q
  let b := i * (goodFmt code).nibs
  let size := 64 * p.slotG.toNat
  2 * p.slotAt ((first + b / size) % p.nslots q) + b % size

/-- Whether an element at this half-byte position lies within the scratchpad: 0x2B otherwise. -/
def inScratch (pos : Int) (f : Fmt) : Bool := decide (0 ≤ pos ∧ pos + f.nibs ≤ 0x400000)

/-- The page of an element at a VA, checked to lie on the agent's stack where `on` asks it (0x29). -/
def CRun.page (x : CRun) (s : State) (pos : Int) (f : Fmt) (acc : AccKind) (on : Bool) : Except CFail (Trans × Nat) :=
  let va := low 58 pos / 2
  match s.engPage x.c va f.bytes acc x.stack.isSome with
  | .error e => .error (.stop e)
  | .ok t =>
    match on, x.stack with
    | true, some (d, k) =>
      if t.mtype = .dev ∧ t.at va / 2 ^ 36 = 4 * d + k then .ok (t, va) else .error (.code 0x29)
    | _, _ => .ok (t, va)

/-- The source element's raw bits. -/
def CRun.read (x : CRun) (s : State) (i : Nat) : Except CFail (State × Nat) :=
  let f := goodFmt x.t.sfmt
  if x.cop = 5 then .ok (s, x.t.src % 2 ^ 32)
  else if x.cop = 9 then
    let q := x.t.src % 32
    .ok (s, s.elemAt x.c f (x.pipePos s i x.t.sfmt q ((s.core x.c).pipe q).head))
  else
    let p := x.pos s i true
    if x.t.ssp then (if inScratch p f then .ok (s, s.elemAt x.c f p.toNat) else .error (.code 0x2B))
    else match x.page s p f .read (decide (x.cop = 8 ∨ x.cop = 0x0A ∨ x.cop = 0x0C)) with
      | .error e => .error e
      | .ok (t, va) =>
        let v := ofBytes (s.readVia t va f.bytes)
        .ok (s.shareLine (s.core x.c).fn (if x.stack.isSome then keyHome (t.line va) else dieOf x.c) none t va, if f.bits = 4 then nbits v (4 * (low 58 p % 2)) 4 else v)

/-- The element as it is written: the bits, or the value rounded (R372); the flags. -/
def CRun.convert (x : CRun) (s : State) (i v : Nat) : Nat × NumFlags :=
  if usesMode x.cop then
    roundVal (goodFmt x.t.dfmt) ((modeOf x.t.mode).getD .rne) false (engDraw (s.core x.c).strand.engSeed x.seq i)
      ((goodFmt x.t.sfmt).val v)
  else (v, 0)

/-- Write an element at a VA through its page, past the caches for a stack agent (R101); the other half of a byte is kept. -/
def CRun.store (x : CRun) (s : State) (t : Trans) (va : Nat) (pos : Int) (f : Fmt) (v : Nat) : State :=
  let bs := if f.bits = 4 then
      let b := ofBytes (s.readVia t va 1)
      [BitVec.ofNat 8 (if low 58 pos % 2 = 0 then b / 16 * 16 + v % 16 else b % 16 + v % 16 * 16)]
    else toBytes f.bytes v
  if x.stack.isSome then s.writeUncached (s.core x.c).fn t va bs else s.storeOn (s.core x.c).fn (dieOf x.c) none t va bs

/-- The index of element `i` lies within the scratchpad, where the word takes one (R372, R373): 0x2B otherwise. -/
def CRun.indexIn (x : CRun) (i : Nat) : Bool :=
  !usesIndex x.cop || decide (x.t.delta + 4 * (digitsOf x.t.dims i).getLastD 0 + 4 ≤ 0x200000)

/-- Element `i`: read, converted or added, written (R372, R377). -/
def CRun.element (x : CRun) (s : State) (i : Nat) : Except CFail (State × NumFlags) :=
  match (if x.indexIn i then x.read s i else .error (.code 0x2B)) with
  | .error e => .error e
  | .ok (s, v) =>
    let f := goodFmt x.t.dfmt
    let p := x.pos s i false
    if x.cop = 8 then
      let o := x.convert s i v
      let q := x.t.dst % 32
      .ok (s.putElem x.c f (x.pipePos s i x.t.dfmt q (if q = 31 then 0 else ((s.core x.c).pipe q).tail)) o.1, o.2)
    else if x.t.dsp then
      let o := x.convert s i v
      if inScratch p f then .ok (s.putElem x.c f p.toNat o.1, o.2) else .error (.code 0x2B)
    else match x.page s p f .write (decide (x.cop = 9 ∨ x.cop = 0x0B)) with
      | .error e => .error e
      | .ok (t, va) =>
        let o := if x.cop = 0x0B then
            finish f .rne false 0 (vadd (f.val (ofBytes (s.readVia t va f.bytes))) ((goodFmt x.t.sfmt).val v))
          else x.convert s i v
        .ok (x.store s t va p f o.1, o.2)

/-- Elements from `i` on; `k` are left. -/
def CRun.elements (x : CRun) : Nat → Nat → State → NumFlags → State × Nat × NumFlags × Option CFail
  | 0, i, s, fl => (s, i, fl, none)
  | k + 1, i, s, fl =>
    match x.element s i with
    | .error e => (s, i, fl, some e)
    | .ok (s, f) => CRun.elements x k (i + 1) s (fl ||| f)

/-! ## Running a word -/

/-- PROG and the flags so far of the word in progress (R154, R225). -/
def State.copyMark (s : State) (c r : Nat) (n : BitVec 32) (done : Nat) (fl : NumFlags) : State :=
  let m := s.mark c r n
  (s.setMark c r n done (markAwt m) (markDone m)).onRing c r (fun g => { g with
    cflags := g.markedFlags n fl, begun := true, resets := if n = g.rhead ∧ markProg m ≠ done then 0 else g.resets })

/-- A copy word ends with an engine status exception once it is at RHEAD: a word that holds one never leaves RHEAD, and CWP
holds (R188, R266); words before it that are in progress end first. -/
def State.copyExc (s : State) (c r : Nat) (n : BitVec 32) (x : Nat) : State :=
  if n = ((s.core c).ring r).rhead then s.engineExc c r n x
  else s.onRing c r (fun g => if g.wait = .none then { g with wait := .held } else g)

/-- The word has completed: it is confirmed at once (R141). -/
def CRun.complete (x : CRun) (s : State) (raise : BitVec 10) (prog : Nat) (fl : NumFlags) (moves : List PipeMove) : State :=
  (s.launchWord x.c x.r { seq := x.seq, flags := fl, raise := raise, prog := prog, moves := moves }).confirmLast x.c x.r

/-- The scratch that the word writes, as the package's intervals (R166). -/
def CRun.destSpans (x : CRun) (s : State) : List (Nat × Nat) :=
  let f := goodFmt x.t.dfmt
  let pos (i : Nat) : Nat :=
    if x.cop = 8 then
      let q := x.t.dst % 32
      x.pipePos s i x.t.dfmt q (if q = 31 then 0 else ((s.core x.c).pipe q).tail)
    else (x.pos s i false).toNat
  if x.cop = 8 || x.t.dsp then
    (upto x.t.count).map (fun i => (x.c * 2 ^ 32 + pos i / 2, x.c * 2 ^ 32 + (pos i + f.nibs + 1) / 2))
  else []

/-- The word ends or waits at an element; while it waits, the scratch it writes is pending (R166). -/
def CRun.halt (x : CRun) (s : State) (e : CFail) : State :=
  match e with
  | .code v => s.copyExc x.c x.r x.seq v
  | .stop e => (s.onRing x.c x.r (fun g => { g with spans := x.destSpans s })).engStop x.c x.r x.stack e

/-- Elements from the mark to the end (R372, R378). -/
def CRun.move (x : CRun) (s : State) (raise : BitVec 10) (moves : List PipeMove) : State :=
  let g := (s.core x.c).ring x.r
  let start := markProg (s.mark x.c x.r x.seq)
  let fl0 := if start ≠ 0 then g.flagsOf x.seq else 0
  let (s, i, fl, e) := x.elements (x.t.count - start) start s fl0
  let s := s.copyMark x.c x.r x.seq i fl
  match e with
  | some e => x.halt s e
  | none => x.complete s raise i fl moves

/-! ## Pipes and regions (R376) -/

/-- The bytes of a region descriptor: base and length, and whether it is marked for this use; none where it is malformed
(Table 8-1). DESIGN CHOICE (log 84): a descriptor with a reserved bit set, whose treatment no rule states, covers
nothing. -/
def regionOf (bs : List Byte) (wr : Bool) : Option (Nat × Nat) :=
  let v := ofBytes bs
  let rank := nbits v 72 8
  let elems := (upto rank).foldl (fun n i => n * nbits v (128 + 32 * i) 32) 1
  if rank = 0 ∨ 4 < rank ∨ nbits v 82 46 ≠ 0 ∨ 2 ^ 57 ≤ nbits v 0 64 ∨ !nbit v (if wr then 81 else 80) then none
  else (codeFmt (nbits v 64 8)).map (fun f => (nbits v 0 64, (elems * f.bits + 7) / 8))

/-- The hull of a word's elements on its VA side: the lowest byte and the byte after the highest. -/
def CRun.hull (x : CRun) (src : Bool) : Int × Int :=
  let code := if src then x.t.sfmt else x.t.dfmt
  let h := hullOf (x.t.dims.map (fun d => (d.ext, if src then d.sstr else d.dstr)))
  let base : Int := ((if src then x.t.src else x.t.dst) : Nat)
  if nibbleFmt code then (base + h.1 / 2, base + h.2 / 2 + 1) else (base + h.1, base + h.2 + (codeBytes code : Nat))

/-- Whether a descriptor of the node, from number `i` on, covers the interval; a read of the descriptors that fails stops
the word. `k` are left. -/
def CRun.covered (x : CRun) (s : State) (opVa : Nat) (lo hi : Int) (wr : Bool) : Nat → Nat → Except Stop Bool
  | 0, _ => .ok false
  | k + 1, i =>
    match s.engReadSpan x.c ((opVa + 32 * i) % 2 ^ 57) 32 with
    | .error e => .error e
    | .ok (_, bs) =>
      match regionOf bs wr with
      | some (b, n) => if (b : Int) ≤ lo ∧ hi ≤ (b : Int) + n then .ok true else CRun.covered x s opVa lo hi wr k (i + 1)
      | none => CRun.covered x s opVa lo hi wr k (i + 1)

/-- The device's own read of OPVA waits on a fault, as an access of the node (R116). -/
def CRun.waitRegion (x : CRun) (s : State) (n : TaskNode) (va : Nat) (acc : AccKind) (f : WalkFail) : State :=
  let k := s.core x.c
  let p := s.fault (.node n.fn n.q n.idx) none (dieOf x.c) k.fn k.ctx va acc f
  let p' := p.1.fault (.ring x.c x.r) none (dieOf x.c) k.fn k.ctx va acc f
  p'.1.onRing x.c x.r (fun g => { g with wait := .nodeFault p'.2 })

/-- A word of the same COP and pipe that the ring enqueued before is still in progress: the slots are taken in sequence
order (R149, R376). -/
def CRun.behind (x : CRun) (s : State) : Bool :=
  let g := (s.core x.c).ring x.r
  g.jobs.any (fun j => decide (seqDist g.rhead j.seq < seqDist g.rhead x.seq) &&
    (match j.chosen with
     | some (n, t) => decide (n = j.seq ∧ copOf (s.slotWord x.c x.r n) = x.cop ∧
         (if x.cop = 8 then Tsr.dst t % 32 = x.t.dst % 32 else Tsr.src t % 32 = x.t.src % 32))
     | none => false))

/-- CSUB and CDRAIN: the pipe, the region, the wait for slots, the elements (R376). -/
def CRun.stream (x : CRun) (s : State) (raise : BitVec 10) : State :=
  let wr := decide (x.cop = 8)
  let q := (if wr then x.t.dst else x.t.src) % 32
  let p := (s.core x.c).pipe q
  let bits := x.t.count * (goodFmt x.t.sfmt).bits
  let slot := 256 * p.slotG.toNat
  let k := if slot = 0 then 0 else bits / slot
  -- an extent of 0: nothing is written, and the word completes with its raise (R281)
  if x.t.count = 0 then x.complete s raise 0 0 []
  else if slot = 0 ∨ bits % slot ≠ 0 ∨ k = 0 ∨ p.nslots q < k ∨ (if wr then p.prod else p.cons) ≠ 7 then
    s.copyExc x.c x.r x.seq 0x11
  else
    let h := x.hull wr
    let run (s : State) : State :=
      let ready := if wr then decide (q = 31) || decide (k ≤ s.pipeFree x.c x.r q) else decide (if q = 31 then p.fill ≠ 0 else k ≤ p.fill)
      if ready && !x.behind s then x.move s raise [if wr then .push q k else .pop q k]
      else s.onRing x.c x.r (fun g => { g with wait := .pipe, spans := x.destSpans s })
    if ((s.core x.c).ring x.r).wait = .pipe then run s
    else match s.nodeOf x.c with
      | none => s.copyExc x.c x.r x.seq 0x2A
      | some n =>
        match x.covered s n.launch.opVa h.1 h.2 (!wr) n.launch.opcnt 0 with
        | .ok true => run (s.onRing x.c x.r (fun g => { g with begun := true }))
        | .ok false => s.copyExc x.c x.r x.seq 0x2A
        | .error (.walk va acc f) => x.waitRegion s n va acc f
        | .error e => s.engStop x.c x.r none e

/-! ## Fabric words (R374, R375) -/

/-- The packet being filled: the half-byte region offset of its first element, its half-bytes, its elements. -/
structure Fill where
  at0 : Int := 0
  nibs : List Nat := []
  elems : Nat := 0
  deriving DecidableEq, Repr

/-- Bytes of a packet being filled; the half of a byte that no element fills is a free value (log 10). -/
def Fill.bytes (p : Fill) (tick : Nat) : List Byte :=
  let free (k : Nat) : Nat := (Config.undefByte tick k).toNat % 16
  let l := if p.at0 % 2 = 1 then free 0 :: p.nibs else p.nibs
  let l := if l.length % 2 = 1 then l ++ [free 1] else l
  (upto (l.length / 2)).map (fun i => BitVec.ofNat 8 (l.getD (2 * i) 0 + 16 * l.getD (2 * i + 1) 0))

/-- The header of a word's data packets. DESIGN CHOICE (log 31): a TSR has no field for the target function; DSTFN is the
number of the function that sends. -/
def CRun.header (x : CRun) (s : State) : Packet :=
  { type := if x.cop = 6 then 1 else 3, fmt := if x.cop = 6 then 0 else BitVec.ofNat 8 x.t.dfmt,
    srcPeer := BitVec.ofNat 16 s.fabric.peer, dstFn := BitVec.ofNat 8 (s.core x.c).fn, region := BitVec.ofNat 8 x.t.region,
    slot := if x.cop = 6 then 0 else BitVec.ofNat 16 x.t.slot,
    count := if x.cop = 6 then 0 else BitVec.ofNat 32 (x.t.ncontrib + 256 * x.t.cindex) }

/-- The virtual channel of a word's packets (Table 3-3). -/
def CRun.vc (x : CRun) : Nat := if x.cop = 6 then x.t.vc else 4

/-- Send the packet being filled. -/
def CRun.flush (x : CRun) (s : State) (xfer : Nat) (p : Fill) : State :=
  if p.elems = 0 then s
  else
    let bs := p.bytes s.tick
    s.sendPacket xfer x.vc { x.header s with
      xfer := BitVec.ofNat 16 xfer, offset := BitVec.ofInt 48 (p.at0 / 2), len := BitVec.ofNat 16 bs.length, payload := bs } p.elems

/-- Elements from `i` on are cut into packets of consecutive offsets and at most 2,048 bytes; `k` are left. At one that
stops, what has been cut goes out (R372). -/
def CRun.cut (x : CRun) (xfer : Nat) : Nat → Nat → State → Fill → State × Option CFail
  | 0, _, s, p => (x.flush s xfer p, none)
  | k + 1, i, s, p =>
    match x.read s i with
    | .error e => (x.flush s xfer p, some e)
    | .ok (s, v) =>
      let f := goodFmt x.t.sfmt
      let at1 := x.pos s i false
      let ns := (upto f.nibs).map (fun j => nbits v (4 * j) 4)
      if p.elems ≠ 0 ∧ at1 = p.at0 + p.nibs.length ∧ p.at0 % 2 + p.nibs.length + f.nibs ≤ 4096 then
        CRun.cut x xfer k (i + 1) s { p with nibs := p.nibs ++ ns, elems := p.elems + 1 }
      else CRun.cut x xfer k (i + 1) (x.flush s xfer p) { at0 := at1, nibs := ns, elems := 1 }

/-- The packets of a word that are not sent yet, its SIGNAL packet last. -/
def CRun.sendRest (x : CRun) (s : State) (t : Transfer) : State × Option CFail :=
  if t.done then (s, none)
  else
    let start := t.packets.foldl (fun n p => n + p.elems) 0
    let r := x.cut t.xfer (x.t.count - start) start s {}
    match r.2 with
    | some e => (r.1, some e)
    | none =>
      let sent := match r.1.transferOf x.c x.r x.seq with
        | some t => t.packets.length
        | none => 0
      let s := if x.t.sig then
          r.1.sendPacket t.xfer x.t.vc { x.header r.1 with
            type := 2, fmt := 0, slot := 0, xfer := BitVec.ofNat 16 t.xfer, count := BitVec.ofNat 32 sent,
            delta := BitVec.ofNat 32 x.t.delta, semid := BitVec.ofNat 32 x.t.semid } 0
        else r.1
      (s.onTransfer t.xfer (fun t => { t with done := true }), none)

/-- A transfer under way: send the rest, then wait for the answers; the word ends when the last is in (R36). -/
def CRun.transfer (x : CRun) (s : State) (raise : BitVec 10) : State :=
  match s.transferOf x.c x.r x.seq with
  | none => s
  | some t =>
    match x.sendRest s t with
    | (s, some e) =>
      let s := s.onRing x.c x.r (fun g => { g with begun := true })
      -- an element that ends the word: those before it are written first, and CWP stands at it (R372)
      let answered := (s.transferOf x.c x.r x.seq).all (fun t => t.packets.all Sent.answered)
      let status := (s.transferOf x.c x.r x.seq).bind Transfer.status
      match e with
      | .code v => if answered then x.halt s (.code (status.getD v)) else s.onRing x.c x.r (fun g => { g with wait := .fabric })
      | .stop e => x.halt s (.stop e)
    | (s, none) =>
      match s.transferOf x.c x.r x.seq with
      | none => s
      | some t =>
        if t.packets.all Sent.answered then
          match t.status with
          | some e => (s.onRing x.c x.r (fun g => { g with wait := .none, begun := true })).copyExc x.c x.r x.seq e
          | none =>
            x.complete (s.onFabric (fun f => { f with transfers := f.transfers.filter (fun u => decide (u.xfer ≠ t.xfer)) }))
              raise x.t.count 0 []
        else s.onRing x.c x.r (fun g => { g with wait := .fabric, begun := true })

/-- CSEND and CRED: NO_ROUTE sends nothing (R27, R374). -/
def CRun.send (x : CRun) (s : State) (raise : BitVec 10) : State :=
  match s.transferOf x.c x.r x.seq with
  | none =>
    if (s.portsTo (s.core x.c).fn x.t.peer).isEmpty then s.copyExc x.c x.r x.seq 1
    else x.transfer (s.beginTransfer x.c x.r x.seq x.t.peer) raise
  | some _ => x.transfer s raise

/-! ## Reductions at a stack (R377) -/

/-- The word of ring `e.2` of core `e.1` that comes to its agent: its sequence, and for an SRED the SLOT of its record. -/
def State.comer (s : State) (e : Nat × Nat) : BitVec 32 × Option Nat :=
  let g := (s.core e.1).ring e.2
  match g.newJob with
  | none => (g.next, none)
  | some j => (j.seq, if copOf (s.slotWord e.1 e.2 j.seq) = 0x0B then j.chosen.map (fun p => Tsr.slot p.2) else none)

/-- A word that an agent has taken is in progress: it is retained at or after RHEAD and not DONE (R377, R378). -/
def State.holdLive (s : State) (h : AgentHold) : Bool :=
  let k := s.core h.core
  let g := k.ring h.ring
  k.resident && decide (k.gen = h.gen ∧ seqDist g.rhead h.seq < seqDist g.rhead g.rtail) && !markDone (s.mark h.core h.ring h.seq)

/-- The words that agent `key` has in progress. -/
def State.inAgent (s : State) (key : Nat) : List AgentHold := (sget {} s.agents key).holds.filter s.holdLive

/-- The word at hand of ring `e.2` of core `e.1` is in progress at agent `key`: after a reset it comes again (R378). -/
def State.heldAt (s : State) (key : Nat) (e : Nat × Nat) : Bool :=
  (s.inAgent key).any (fun h => decide (h.core = e.1 ∧ h.ring = e.2 ∧ h.seq = (s.comer e).1))

/-! ## A word at its sequence (R371) -/

/-- The record of a word is chosen once, when it reaches its sequence, and cached (R202, R392); versions cached before every
RCFENCE that a retained word follows serve no word any more. -/
def State.chooseRecord (s : State) (c r : Nat) (n : BitVec 32) (agent : Option Nat) (key : Nat) (t : Tsr × Nat) : State :=
  s.onRing c r (fun g =>
    let oldest := g.snaps.foldl (fun m e => min m e.fence) g.fence
    { g with
      chosen := some (n, t.1)
      cache := { key := key, at' := s.tick, ver := t.2, agent := agent, tsr := t.1 } :: g.cache.filter (fun v => decide (oldest ≤ v.at')) })

/-- Run a word whose await has passed. -/
def CRun.run (x : CRun) (s : State) (raise : BitVec 10) : State :=
  if x.cop = 6 ∨ x.cop = 7 then x.send s raise
  else if x.cop = 8 ∨ x.cop = 9 then x.stream s raise
  else x.move s raise []

/-! ## Turns at a stack agent (R74) -/

/-- The words that wait for agent `key`: those whose rings still do. -/
def State.agentQueue (s : State) (key : Nat) : List (Nat × Nat) :=
  (sget {} s.agents key).waiting.filter (fun e => ((s.core e.1).ring e.2).inWait .agent)

/-- How far function `f` comes after the function `last` in the round robin. -/
def turnDist (last f : Nat) : Nat := (f + 63 - last % 64) % 64

/-- The words that agent `key` may take now: at a reduction unit no SRED whose SLOT another word in progress or an earlier
arrival names; one that is in progress itself comes first (R377). -/
def State.agentReady (s : State) (key : Nat) : List (Nat × Nat) :=
  let q := s.agentQueue key
  let slot (e : Nat × Nat) : Option Nat := (s.comer e).2
  (q.zipIdx.filter (fun e => s.heldAt key e.1 || (slot e.1).isNone ||
    ((s.inAgent key).all (fun h => decide (h.slot ≠ slot e.1)) &&
      (q.take e.2).all (fun x => decide (slot x ≠ slot e.1))))).map Prod.fst

/-- The word that agent `key` takes next: of the owner whose turn it is, the first that came (R74). -/
def State.agentNext (s : State) (key : Nat) : Option (Nat × Nat) :=
  let last := (sget {} s.agents key).last
  let far (e : Nat × Nat) : Nat := turnDist last (s.core e.1).fn
  (s.agentReady key).foldl (fun b e => match b with
    | none => some e
    | some b => if far e < far b then some e else some b) none

/-- A word arrives at agent `key`. -/
def State.agentJoin (s : State) (key c r : Nat) : State :=
  let q := (s.agentQueue key).filter (fun e => decide (e ≠ (c, r)))
  ({ s with agents := sset {} s.agents key { sget {} s.agents key with waiting := q ++ [(c, r)] } } : State).onRing c r
    (fun g => { g with wait := .agent })

/-- Agent `key` takes the word of ring `r` of core `c`. -/
def State.agentTake (s : State) (key c r : Nat) : State :=
  let w := s.comer (c, r)
  let q : AgentQueue := { sget {} s.agents key with
    waiting := (s.agentQueue key).filter (fun e => decide (e ≠ (c, r))), last := (s.core c).fn
    holds := (s.inAgent key).filter (fun h => decide (h.core ≠ c ∨ h.ring ≠ r ∨ h.seq ≠ w.1))
      ++ [{ core := c, ring := r, seq := w.1, gen := (s.core c).gen, slot := w.2 }] }
  ({ s with agents := sset {} s.agents key q } : State).onRing c r
    (fun g => { g with wait := .none, begun := true })

/-- A word at its agent: it arrives, waits for the turn of its function, and runs once it is taken. -/
def CRun.atAgent (x : CRun) (s : State) (key : Nat) (raise : BitVec 10) : State :=
  let g := (s.core x.c).ring x.r
  if g.begun then x.run s raise
  else if g.wait ≠ .agent then s.agentJoin key x.c x.r
  else if s.agentNext key = some (x.c, x.r) then x.run (s.agentTake key x.c x.r) raise
  else s

/-- A copy word whose await has passed: a channel's word runs, a stack agent's takes its turn (R74). -/
def CRun.start (x : CRun) (s : State) (raise : BitVec 10) : State :=
  match x.stack, copUnit x.cop with
  | some (d, k), some u => x.atAgent s (4 * (4 * d + k) + u) raise
  | _, _ => x.run s raise

/-- A copy word at the next sequence of C ring `r` of core `c`: its checks, its record, its await, its elements. -/
def State.copyWord (s : State) (c r cop : Nat) (w : CWord) : State :=
  let g := (s.core c).ring r
  let n := g.next
  if g.stopped || decide (4 ≤ g.flight.length) then s
  else match g.wait with
  | .nodeFailed perm =>
    if n = g.rhead then (s.failNodeOf c 5 (failInfo (if perm then 5 else 4) 0)).engineExc c r n 0x2A else s
  | .failed perm => s.copyExc c r n (if perm then 0x21 else 0x20)
  | _ =>
    match copCheck cop w r with
    | some x => s.copyExc c r n x
    | none =>
      match s.agentOf c cop w with
      | .error x => s.copyExc c r n x
      | .ok stack =>
        if cop = 0x0D then
          match s.beginWord c r none w.await w.raise with
          | .stop s => s
          | .go s => (s.launchWord c r { seq := n, raise := w.raise }).confirmLast c r
        else
          let word := (cform (BitVec.ofNat 7 cop) w).setWidth 192
          let rec0 : Chk ((Tsr × Nat) × Bool) := match g.chosen with
            | some (m, t) => if m = n then .ok ((t, 0), false) else (s.recordFor c r n word).map (fun t => (t, true))
            | none => (s.recordFor c r n word).map (fun t => (t, true))
          match rec0 with
          | .error e => s.engStop c r stack e
          | .ok (t, fresh) =>
            match (if fresh then tsrCheck cop t.1 (s.indices c cop t.1) else none) with
            | some x => s.copyExc c r n x
            | none =>
              let agent := stack.map (fun p => 4 * (4 * p.1 + p.2) + (copUnit cop).getD 0)
              let s := if fresh then s.chooseRecord c r n agent (recordKey word) t else s
              match s.beginWord c r none w.await w.raise with
              | .stop s => s
              | .go s => CRun.start { c := c, r := r, seq := n, cop := cop, t := t.1, stack := stack } s w.raise

/-- A copy word of the moving ring. -/
def State.copy (s : State) (cop : Nat) (w : CWord) : Out :=
  .next (s.copyWord s.actor.core (s.engineRing 2 5) cop w)

/-! ## The words -/

/-- CCOPY (R372). -/
def execCcopy (word : CWord) (s : State) : Out := s.copy 0x01 word

/-- CCVT (R372). -/
def execCcvt (word : CWord) (s : State) : Out := s.copy 0x02 word

/-- CGATH (R373). -/
def execCgath (word : CWord) (s : State) : Out := s.copy 0x03 word

/-- CSCAT (R373). -/
def execCscat (word : CWord) (s : State) : Out := s.copy 0x04 word

/-- CFILL (R372). -/
def execCfill (word : CWord) (s : State) : Out := s.copy 0x05 word

/-- CSEND (R374). -/
def execCsend (word : CWord) (s : State) : Out := s.copy 0x06 word

/-- CRED (R375). -/
def execCred (word : CWord) (s : State) : Out := s.copy 0x07 word

/-- CSUB (R376). -/
def execCsub (word : CWord) (s : State) : Out := s.copy 0x08 word

/-- CDRAIN (R376). -/
def execCdrain (word : CWord) (s : State) : Out := s.copy 0x09 word

/-- SGATH (R373). -/
def execSgath (word : CWord) (s : State) : Out := s.copy 0x0A word

/-- SRED (R377). -/
def execSred (word : CWord) (s : State) : Out := s.copy 0x0B word

/-- SCVT (R372). -/
def execScvt (word : CWord) (s : State) : Out := s.copy 0x0C word

/-- CNOP (R370). -/
def execCnop (word : CWord) (s : State) : Out := s.copy 0x0D word

end Sys2Proof.Machine
end

