-- ==== Sys2Proof/Machine/Misc.lean ====
section
/-! DEFINITION. The MISC group: status registers (R269, R303), VDQ (R304, R85), SFLAG (R305) and RDID (R306). -/

namespace Sys2Proof.Machine

/-- A PC register with its VALID bit (Table 13-3). -/
def validPc (p : Option Va) : Word :=
  match p with
  | some v => v.setWidth 64 ||| 0x8000000000000000
  | none => 0

/-- VDIEMAPi: entries 8i to 8i + 7 (R81). -/
def Ctx.vdieWord (x : Ctx) (i : Nat) : Word :=
  BitVec.ofNat 64 (ofBytes ((upto 8).map (fun j => x.vdie (8 * i + j) &&& 0xBF)))

/-- THMODE (Table 9-11). -/
def Strand.thmode (t : Strand) : Word :=
  BitVec.ofNat 64 (t.full.toNat + 2 * t.aliasOn.toNat + 4 * t.revoke.toNat + 8 * t.spdbg.toNat)

/-- SRSEED (Table 12-6). -/
def Strand.srseed (t : Strand) : Word := t.strState ++ t.engSeed

/-- TRAPVEC (Table 14-2). -/
def Strand.trapvec (t : Strand) : Word := t.trapVec.setWidth 64 ||| (if t.trapVecValid then 0x8000000000000000 else 0)

/-- CTXID (Table 15-3). -/
def Core.ctxid (k : Core) : Word := BitVec.ofNat 64 (k.ctx % 4096 + k.fn % 64 * 4096)

/-- SCOPEPOL (Table 11-3). -/
def Fn.scopepol (f : Fn) : Word := BitVec.ofNat 64 (f.winok.toNat + 2 * f.sysok.toNat)

/-- The value of a status register (Table 15-2); 0 for a number that names none. -/
def State.status (s : State) (num : Nat) : Word :=
  let k := s.me
  let t := k.strand
  match num with
  | 0x000 => t.trapPc.setWidth 64
  | 0x001 => t.trapCause.setWidth 64
  | 0x002 => t.trapInfo
  | 0x003 => t.trapvec
  | 0x004 => bit64 t.inHandler
  | 0x005 => validPc t.demandPc
  | 0x006 => validPc t.creatorPc
  | 0x010 => t.thmode
  | 0x011 => t.leaseMax.setWidth 64
  | 0x012 => t.flags.setWidth 64
  | 0x013 => t.srseed
  | 0x014 => k.ctxid
  | 0x020 => s.wdog.setWidth 64
  | 0x021 => s.rollPeriod.setWidth 64
  | 0x022 => (s.fn k.fn).scopepol
  | 0x030 => BitVec.ofNat 64 s.cycle
  | n => if 0x18 ≤ n ∧ n ≤ 0x1F then (s.ctx k.ctx).vdieWord (n - 0x18) else 0
where
  /-- 1 or 0. -/
  bit64 (b : Bool) : Word := if b then 1 else 0

/-- MFS d, NAME (R303). -/
def execMfs (d : Reg) (num : BitVec 12) (s : State) : Out := .next (s.result d (s.status num.toNat))

/-- The nearest value within [lo, hi] (R164, R178). -/
def clampTo (lo hi v : Nat) : Nat := min (max v lo) hi

/-- Set entries 8i to 8i + 7 of VDIEMAP in one step; bit 6 of an entry is reserved (R81). -/
def Ctx.setVdieWord (x : Ctx) (i : Nat) (v : Word) : Ctx :=
  { x with vdiemap := (upto 8).foldl (fun m j =>
      sset (vdieDefault (8 * i + j)) m (8 * i + j) (v.extractLsb' (8 * j) 8 &&& 0xBF)) x.vdiemap }

/-- ENGSEED or STRSTATE: zero is stored as 1 (R221). -/
def seedOf (v : BitVec 32) : BitVec 32 := if v = 0 then 1 else v

/-- Whether every field of a status register is RO to a strand (Table 15-2). -/
def statusRo (num : Nat) : Bool :=
  decide (num = 1 ∨ num = 2 ∨ num = 4 ∨ num = 5 ∨ num = 6 ∨ num = 0x14 ∨ num = 0x22 ∨ num = 0x30)

/-- MTS d, NAME: the RW fields take s[d] under the register's own rules (R269, R303). -/
def State.mts (s : State) (num : Nat) (v : Word) : Chk State :=
  let k := s.me
  if statusRo num then .error (.event 2 0)
  else if (num = 0x20 ∨ num = 0x21) ∧ k.fn ≠ 0 then .error (.event 2 0)
  else match num with
    | 0x000 => .ok (s.onStrand (fun t => { t with trapPc := v.setWidth 57 &&& ~~~3 }))
    | 0x003 => .ok (s.onStrand (fun t => { t with trapVec := v.setWidth 57 &&& ~~~3, trapVecValid := v.getLsbD 63 }))
    | 0x010 => .ok (s.onStrand (fun t => { t with full := v.getLsbD 0, aliasOn := v.getLsbD 1, revoke := v.getLsbD 2, spdbg := v.getLsbD 3 }))
    | 0x011 => .ok (s.onStrand (fun t => { t with leaseMax := BitVec.ofNat 13 (clampTo 1 4096 (field v 0 13)) }))
    | 0x012 => .ok (s.onStrand (fun t => { t with flags := v.setWidth 6 }))
    | 0x013 =>
      -- STRSTATE changes at once, ENGSEED only once no retained vector or matrix word uses mode SR; matrix words never
      -- do (R221)
      let u := s.onStrand (fun t => { t with strState := seedOf (v.extractLsb' 32 32) })
      let waits := decide (seedOf (v.setWidth 32) ≠ k.strand.engSeed) && s.anyRetained s.actor.core 0 (usesSr k)
      if waits then .error (.again (u.demandIf s.actor.core waits))
      else .ok (u.onStrand (fun t => { t with engSeed := seedOf (v.setWidth 32) }))
    | 0x020 => .ok { s with wdog := BitVec.ofNat 32 (clampTo 65536 (2 ^ 32 - 1) (field v 0 32)) }
    | 0x021 => .ok { s with rollPeriod := BitVec.ofNat 32 (clampTo 10000 1000000 (field v 0 32)) }
    | n => if 0x18 ≤ n ∧ n ≤ 0x1F then .ok (s.onCtx k.ctx (fun x => x.setVdieWord (n - 0x18) v)) else .ok s

/-- MTS. -/
def execMts (d : Reg) (num : BitVec 12) (s : State) : Out :=
  .next (s.run ((s.mts num.toNat (s.get d)).map State.retire))

/-! ## Distances (R85, R16) -/

/-- Dies joined by a link (R9). -/
def linked (a b : Nat) : Bool := decide (a ≠ b ∧ a + b ≠ 3)

/-- Whether the link between two dies carries traffic: it exists and its traffic has not moved (R16, R17). -/
def State.linkUp (s : State) (a b : Nat) : Bool :=
  linked a b && !(s.reroutedLinks.contains (a, b) || s.reroutedLinks.contains (b, a))

/-- The die that traffic between the two dies of a diagonal pair passes first along the row: the routes 0→1→3, 3→2→0,
1→0→2 and 2→3→1 (R16). -/
def rowDie (a : Nat) : Nat := a ^^^ 1

/-- The dies that traffic passes on its way (R16): none between linked dies; the die along the row of a diagonal pair, or
the one along the column where the row's route has lost a link; the two others where two dies have lost their link.
DESIGN CHOICE (log 87): R16 speaks of one retired link; where more are retired these are still the routes. -/
def State.via (s : State) (a b : Nat) : List Nat :=
  if a = b ∨ s.linkUp a b = true then []
  else if linked a b then [3 - b, 3 - a]
  else if s.linkUp a (rowDie a) && s.linkUp (rowDie a) b then [rowDie a]
  else [3 - rowDie a]

/-- The route between two dies of the package: the dies passed, its ends among them (R16). -/
def State.route (s : State) (a b : Nat) : List Nat := if a = b then [a] else a :: s.via a b ++ [b]

/-- Hops of the current route between two dies of the package: 0 to 3 (R16). -/
def State.hops (s : State) (a b : Nat) : Nat := (s.route a b).length - 1

/-- The distance of R85 between two captured entries. -/
def State.distance (s : State) (x y : Option (BitVec 32)) : Nat :=
  match x, y with
  | some a, some b =>
    let ra := a.getLsbD 15
    let rb := b.getLsbD 15
    if !ra && !rb then s.hops (field a 0 2) (field b 0 2)
    else if ra && rb && decide (field a 2 10 = field b 2 10) then
      (if field a 0 2 = field b 0 2 then 0 else if linked (field a 0 2) (field b 0 2) then 1 else 2)
    else 16 * max (field a 12 3) (field b 12 3)
  | _, _ => 0xFFFFFFFF

/-- VDQ d, a, b (R304). -/
def execVdq (d a b : Reg) (s : State) : Out :=
  let v (r : Reg) := if 63 < (s.get r).toNat then none else s.vdie s.actor.core (s.get r).toNat
  .next (s.result d (BitVec.ofNat 64 (s.distance (v a) (v b))))

/-- SFLAG d, a: read FLAGS and clear those that s[a] selects, in one step (R305). -/
def execSflag (d a : Reg) (s : State) : Out :=
  let f := s.strand.flags
  .next ((s.onStrand (fun t => { t with flags := t.flags &&& ~~~((s.get a).setWidth 6) })).result d (f.setWidth 64))

/-- The identity values of Table 16-11. -/
def State.identity (s : State) (sel : Nat) : Nat :=
  let c := s.actor.core
  match sel with
  | 0 => coreInDie c
  | 1 => dieOf c
  | 2 => c
  | 3 => dieOf c * 2 ^ 38 + coreInDie c * 2 ^ 32
  | 4 => s.me.rank
  | 5 => (s.gangCores c).length
  | 6 => match s.gang s.me.gang with
    | some g => g.inst
    | none => 0
  | _ => match s.nodeOf c with
    | some n => n.peer
    | none => s.fabric.peer

/-- RDID d, #sel (R306). -/
def execRdid (d : Reg) (sel : BitVec 6) (s : State) : Out :=
  .next (s.result d (BitVec.ofNat 64 (s.identity sel.toNat)))

end Sys2Proof.Machine
end

