-- ==== Sys2Proof/Machine/Sync.lean ====
section
/-! DEFINITION. Leases (R314, R177), fences (R315, R197), semaphores (R316 to R318), hardware wait queues (R319, R179)
and the gang barrier (R320). -/

namespace Sys2Proof.Machine

/-! ## Leases (R177, R314) -/

/-- Whether core `c`'s L1 holds a line in E or M. -/
def State.ownedInL1 (s : State) (c line : Nat) : Bool :=
  (s.dirLine line).l1.any (fun x => decide (x.core = c ∧ (x.st = .e ∨ x.st = .m)))

/-- LEASE: the refusals of R314, then the line is held exclusively for LEASEMAX cycles; while its L1 has no place for the line
it waits. -/
def execLease (h : BitVec 4) (a : Reg) (s : State) : Out :=
  let c := s.actor.core
  let k := s.me
  let ea := s.strand.ea h.toNat (s.get a) 0
  .next (s.run (
    if h = 15 then
      if 2 ^ 40 ≤ ea then .error (.event 7 ea)
      else if !s.admits k.fn k.ctx (ea / 2 ^ 32) || (placeOf (ea % 2 ^ 32)).isNone then .error (.event 2 ea)
      else .error (.event 0x0A (ea / 64 * 64))
    else do
      let p ← s.handlePage h.toNat ea .read
      need (!p.1.isWindow) (.event 0x13 ea)
      need (decide (p.1.mtype ≠ .hosts) && !p.1.l2atom && (s.leaseOf c).isNone) (.event 0x0A (ea / 64 * 64))
      s.accessCheck k.fn (some c) p.1 ea 1 false
      let s := (s.keepHandle h.toNat p.2).ownLine k.fn (dieOf c) (some c) .e p.1 ea
      if s.ownedInL1 c (p.1.line ea) then .ok () else .error .stall
      .ok ((s.onStrand (fun t =>
        { t with lease := some (p.1.line ea), leaseEnd := s.cycle + t.leaseMax.toNat })).retire)))

/-- The lease of core `c` ends, as expired or at the host's request (R177). -/
def State.endLease (s : State) (c : Nat) : State :=
  s.onStrandOf c (fun t => { t with lease := none })

/-- UNLEASE: 1 if no lease is held or it had already ended, else 0; the lease ends (R177). -/
def execUnlease (d : Reg) (s : State) : Out :=
  let held := (s.leaseOf s.actor.core).isSome
  .next ((s.onStrand (fun t => { t with lease := none })).result d (if held then 0 else 1))

/-- LEASE_EXPIRY: the lease ends after LEASEMAX cycles (R177). -/
def execLeaseExpiry (core : Nat) (s : State) : Out := .next (s.endLease core)

/-! ## Fences (R197, R198, R315) -/

/-- FENCE: the scope policy and window checks; every earlier access of the strand has been performed, because an
instruction is one step. -/
def execFence (kind : BitVec 2) (scope : BitVec 3) (win : Reg) (s : State) : Out :=
  let f := s.me.fn
  .next (s.run do
    need (decide (scope.toNat < 6)) (.event 1 (wordOf (.fence kind scope win)).toNat)
    need (decide (scope ≠ 4) || (s.fn f).winok) (.event 2 0)
    need (decide (scope ≠ 5) || (s.fn f).sysok) (.event 2 0)
    need (decide (scope ≠ 4) || (match s.window win.toNat with
      | some w => w.participant f
      | none => false)) (.event 0x13 win.toNat)
    .ok s.retire)

/-- RCFENCE: every record cached for the core's channels is stale (R315). -/
def execRcfence (s : State) : Out := .next (s.dropRecords s.actor.core).retire

/-! ## Semaphores (R316 to R318) -/

/-- SWAIT delivers a matching engine exception, succeeds, or waits: GE in arrival order, EQ watching every later value
(R317). -/
def execSwait (eq : Bool) (a b : Reg) (s : State) : Out :=
  let c := s.actor.core
  let v : BitVec 32 := (s.get b).setWidth 32
  .next (s.run do
    let k ← s.semId c (s.get a)
    match s.pendingOn c k with
    | some r => .ok (s.deliverAt c r)
    | none =>
      let go : Bool := if eq then decide (s.sem k = v) else !s.semQueued k && decide (v.toNat ≤ (s.sem k).toNat)
      if go then .ok ((if eq || decide (v = 0) then s else s.semWrite k (s.sem k - v)).retire)
      else
        let w : SemWaiter := { core := c, ring := none, key := k, eq := eq, c := v }
        .ok (({ s with semWaiters := s.semWaiters ++ [w] }).onStrand
        (fun t => { t with status := .waitSem k, stalled := true })))

/-- SSIG: a signed, saturating addition (Table 17-4). -/
def execSsig (a b : Reg) (s : State) : Out :=
  .next (s.run do
    let k ← s.semId s.actor.core (s.get a)
    need (!plannerSlot k) (.event 1 (wordOf (.ssig a b)).toNat)
    .ok ((s.semAdd k (sint 16 (s.get b).toNat)).retire))

/-- SREAD. -/
def execSread (d a : Reg) (s : State) : Out :=
  .next (s.run do
    let k ← s.semId s.actor.core (s.get a)
    .ok (s.result d ((s.sem k).setWidth 64)))

/-- SINIT. -/
def execSinit (a b : Reg) (s : State) : Out :=
  .next (s.run do
    let k ← s.semId s.actor.core (s.get a)
    need (!plannerSlot k) (.event 1 (wordOf (.sinit a b)).toNat)
    .ok ((s.semWrite k ((s.get b).setWidth 32)).retire))

/-- SALIAS: the binding of R145 with the physical die, once no retained word names the slot (R318). -/
def execSalias (n a : Reg) (s : State) : Out :=
  let c := s.actor.core
  let v := s.get a
  .next (s.run do
    need (decide (n.toNat < 32)) (.event 1 (wordOf (.salias n a)).toNat)
    let b : BitVec 32 ← (if v.getLsbD 31 then do
        let k ← s.semId c v
        .ok (BitVec.ofNat 32 (k + 2 ^ 31))
      else .ok 0)
    let s := s.demandIf c ((upto 6).any (fun r => s.anyRetained c r (namesSlot r (96 + n.toNat))))
    if (upto 6).any (fun r => s.anyRetained c r (namesSlot r (96 + n.toNat))) then .error (.again s)
    else .ok ((s.onCore c (fun k => { k with aliases := sset 0 k.aliases n.toNat b })).retire))

/-- SEMAPHORE_WAKE: the waiter that a semaphore's value satisfies, in arrival order: an EQ watcher that has matched, else
the first queued waiter if the value is large enough (R144, R317). An engine's await sets AWT with the subtraction. -/
def State.semServe (s : State) (k : Nat) : State :=
  match s.semWaiters.find? (fun w => decide (w.key = k) && w.eq && w.matched) with
  | some w =>
    ({ s with semWaiters := s.semWaiters.filter (fun x => decide (x ≠ w)) }).onStrandOf w.core Strand.retired
  | none =>
    match s.semWaiters.find? (fun w => decide (w.key = k) && !w.eq) with
    | none => s
    | some w =>
      if w.c.toNat ≤ (s.sem k).toNat then
        let s := { s with semWaiters := s.semWaiters.filter (fun x => decide (x ≠ w)) }
        let s := if w.c = 0 then s else s.semWrite k (s.sem k - w.c)
        match w.ring with
        | none => s.onStrandOf w.core Strand.retired
        | some r =>
          let n := ((s.core w.core).ring r).awaitSeq
          (s.setMark w.core r n (markProg (s.mark w.core r n)) true (markDone (s.mark w.core r n))).onRing w.core r Ring.awaited
      else s

/-- SEMAPHORE_WAKE. -/
def execSemaphoreWake (die idx : Nat) (s : State) : Out := .next (s.semServe (semKey (die % 4) (idx % 65536)))

/-! ## Hardware wait queues (R179, R319) -/

/-- The page of the wait record `i` of the moving strand's context; an index that software has corrupted stays within the
area of 4,096 records (R180). -/
def State.recordPage (s : State) (i : Nat) (acc : AccKind) : Chk (Trans × Nat) :=
  let k := s.me
  let va := ((s.ctx k.ctx).waitVa + 16 * (i % 4096)) % 2 ^ 57
  match walk s k.fn k.ctx va acc with
  | .error f => .error (stopWalk va acc f)
  | .ok t =>
    match s.accessCheck k.fn (some s.actor.core) t va 2 acc.writes with
    | .error e => .error e
    | .ok _ => .ok (t, va)

/-- Wait record `i` (Table 10-5), its low 16 bits. -/
def State.waitRecord (s : State) (i : Nat) : Chk Nat := do
  let p ← s.recordPage i .read
  .ok (ofBytes (s.readVia p.1 p.2 2))

/-- Write the low bytes of wait record `i`: the next waiter's index + 1, WOKEN, USED. -/
def State.setWaitRecord (s : State) (i next : Nat) (woken used : Bool) : Chk State := do
  let p ← s.recordPage i .write
  .ok (s.storeVia p.1 p.2 (toBytes 2 (next % 8192 + (if woken then 8192 else 0) + (if used then 16384 else 0))))

/-- The lowest record from `i` on with USED = 0; `n` records are left. -/
def State.freeRecord (s : State) (i : Nat) : Nat → Chk (Option Nat)
  | 0 => .ok none
  | n + 1 =>
    match s.waitRecord i with
    | .error e => .error e
    | .ok r => if nbit r 14 then State.freeRecord s (i + 1) n else .ok (some i)

/-- A queue word's fields: count, head + 1, tail + 1 (Table 10-5). -/
def qCount (q : Nat) : Nat := nbits q 0 13
def qHead (q : Nat) : Nat := nbits q 13 13
def qTail (q : Nat) : Nat := nbits q 26 13

/-- A queue word with these fields; the reserved bits stay. -/
def qWord (q count head tail : Nat) : Nat :=
  count % 8192 + head % 8192 * 2 ^ 13 + tail % 8192 * 2 ^ 26 + q / 2 ^ 39 * 2 ^ 39

/-- The page of a queue word after the checks of R307 and the sites that R179 refuses. -/
def State.queuePage (s : State) (h ea : Nat) : Chk (Trans × Handle) :=
  let k := s.me
  if h = 15 then do
    let _ ← s.onChip k.fn k.ctx ea 8 true
    .error (.event 9 ea)
  else do
    let p ← s.pageOf h ea 8 .write
    need (decide (p.1.mtype = .dev) && !p.1.l2atom) (.event 9 ea)
    need (!p.1.isWindow) (.event 0x13 ea)
    s.aliasGate s.actor.core false ea (ea + 8)
    s.accessCheck k.fn (some s.actor.core) p.1 ea 8 true
    .ok p

/-- The last write of an instruction on a queue word: the log must hold its page too (R88, R307). -/
def State.putQueue (s : State) (t : Trans) (ea v : Nat) : Chk State := do
  s.accessCheck s.me.fn (some s.actor.core) t ea 8 true
  .ok (s.storeVia t ea (toBytes 8 v))

/-- WAITQ: claims a record, appends it and suspends the strand until a WAKE removes it; a restored strand whose record a WAKE
removed meanwhile clears USED and gets 0 (R179, R180). -/
def execWaitq (d : Reg) (h : BitVec 4) (a : Reg) (s : State) : Out :=
  let ea := s.strand.ea h.toNat (s.get a) 0
  .next (s.run (
    match s.strand.record with
    | some r => do
      let v ← s.waitRecord r
      if nbit v 13 then do
        let s ← s.setWaitRecord r 0 false false
        .ok ((s.onStrand (fun t => { t with record := none })).result d 0)
      else .ok (s.onStrand (fun t => { t with status := .waitQueue r d, stalled := true, record := none }))
    | none => do
      let p ← s.queuePage h.toNat ea
      let s := s.keepHandle h.toNat p.2
      if (s.ctx s.me.ctx).waitVa = 0 then .ok ((s.noteWrite s.me.fn p.1 ea).result d 2)
      else match ← s.freeRecord 0 4096 with
        | none => .ok ((s.noteWrite s.me.fn p.1 ea).result d 1)
        | some r => do
          let q := ofBytes (s.readVia p.1 ea 8)
          let s ← s.setWaitRecord r 0 false true
          let s ← (if qCount q = 0 then s.putQueue p.1 ea (qWord q 1 (r + 1) (r + 1))
            else do
              let t := qTail q - 1
              let v ← s.waitRecord t
              let s ← s.setWaitRecord t (r + 1) (nbit v 13) (nbit v 14)
              s.putQueue p.1 ea (qWord q (qCount q + 1) (qHead q) (r + 1)))
          .ok (s.onStrand (fun t => { t with status := .waitQueue r d, stalled := true }))))

/-- The strand of the moving strand's context that is suspended with wait record `i`, and its destination. -/
def State.sleeper (s : State) (i : Nat) : Option (Nat × Reg) :=
  s.cores.findSome? (fun e => match e.2.strand.status with
    | .waitQueue r d => if e.2.resident && decide (e.2.ctx = s.me.ctx ∧ r = i) then some (e.1, d) else none
    | _ => none)

/-- Remove the first `n` waiters of a queue word: the word that is left. A suspended strand is woken: its WAITQ clears its
record and returns 0; in another waiter's record WOKEN is set, for its strand to find (R179, R180). -/
def State.wakeFirst (s : State) (q : Nat) : Nat → Chk (State × Nat)
  | 0 => .ok (s, q)
  | n + 1 => do
    let h := qHead q - 1
    let v ← s.waitRecord h
    let s ← (match s.sleeper (h % 4096) with
      | some (c, d) => do
        let s ← s.setWaitRecord h 0 false false
        .ok (s.onStrandOf c (fun t => (t.set d 0).retired))
      | none => s.setWaitRecord h (nbits v 0 13) true (nbit v 14))
    let count := qCount q - 1
    State.wakeFirst s (qWord q count (if count = 0 then 0 else nbits v 0 13) (qTail q)) n

/-- WAKE: removes min(s[b], count) waiters and gives their number (R179, R319); in a context with no wait-record area no
queue has a waiter. It counts as a write also where it removes none (R307). -/
def execWake (d : Reg) (h : BitVec 4) (a b : Reg) (s : State) : Out :=
  let ea := s.strand.ea h.toNat (s.get a) 0
  .next (s.run do
    let p ← s.queuePage h.toNat ea
    let q := ofBytes (s.readVia p.1 ea 8)
    let n := if (s.ctx s.me.ctx).waitVa = 0 then 0 else min (s.get b).toNat (qCount q)
    let s := s.keepHandle h.toNat p.2
    if n = 0 then .ok ((s.noteWrite s.me.fn p.1 ea).result d 0)
    else do
      let r ← s.wakeFirst q n
      let s ← r.1.putQueue p.1 ea r.2
      .ok (s.result d (BitVec.ofNat 64 n)))

/-! ## The gang barrier (R320) -/

/-- A strand that counts as arrived: in the BAR, or past EXIT. -/
def Strand.atBar (t : Strand) : Bool := decide (t.status = .waitBar ∨ t.status = .exited)

/-- Release the strands in a BAR once every strand of the gang has arrived. -/
def State.barRelease (s : State) (cores : List Nat) : State :=
  if cores.all (fun c => ((s.core c).strand).atBar) then
    cores.foldl (fun s c => if (s.core c).strand.status = .waitBar then s.onStrandOf c Strand.retired else s) s
  else s

/-- BAR. -/
def execBar (s : State) : Out :=
  let s := s.onStrand (fun t => { t with status := .waitBar, stalled := true, barArr := t.barArr + 1 })
  .next (s.barRelease (s.gangCores s.actor.core))

end Sys2Proof.Machine
end

