-- ==== Sys2Proof/Machine/Tile.lean ====
section
/-! DEFINITION. The tile instructions (R327 to R345): appends to the thunk table, map registers, demands, names, queries
and the arena. -/

namespace Sys2Proof.Machine

/-! ## Names and reasons -/

/-- A refused tile instruction: 0x01 with the word and the reason of Table 18-3 (R329). -/
def refusedTile (i : Instr) (reason : Nat) : Stop := .event 1 ((wordOf i).toNat + reason * 2 ^ 32)

/-- The node that a tile register names. -/
def Strand.tile (t : Strand) (r : Reg) : Option Nat := sfind t.tiles r.toNat

/-- Make a tile register name a node, or none. -/
def Strand.setTile (t : Strand) (r : Reg) (n : Option Nat) : Strand :=
  match n with
  | some n => { t with tiles := sput t.tiles r.toNat n }
  | none => { t with tiles := serase t.tiles r.toNat }

/-- The node that an operand register names, or reason 1. -/
def State.operand (s : State) (i : Instr) (r : Reg) : Chk (Nat × Node) :=
  match s.strand.tile r with
  | some n => .ok (n, (s.me.thunks).node n)
  | none => .error (refusedTile i 1)

/-- A format code after R330: 0x3F reads the format table at the top loop entry's count register mod 64. -/
def State.resolveFmt (s : State) (f : BitVec 6) : BitVec 6 :=
  if f = 0x3F then
    let e := match s.strand.loops with
      | l :: _ => (s.strand.get l.reg).toNat % 64
      | [] => 0
    sget 0 s.me.fmtTab e
  else f

/-- A format that a node may have: neither reserved nor E8S (R334, R335, R337). -/
def nodeFmt (f : BitVec 6) : Bool := (fmtOf f).isSome && decide (f ≠ 7)

/-- Append a node (R328): its operands gain a USE before the old node of `td` loses its name. -/
def State.append (s : State) (td : Reg) (node : Node) (leaves : List CamEntry) : Chk State := do
  let c := s.actor.core
  let i ← s.nodeGate c
  let t := s.thunks c
  let node := { node with names := 1, uses := 0, nflags := 0, cseq := t.cseq, creatorPc := s.strand.pc, arena := none }
  let t := (t.setNode i node).addUses node.opnd
  let t := { t with cseq := t.cseq + 1, joinAll := false
                    cam := leaves.foldl (fun cam e => camInsert cam { e with leaves := [i] }) t.cam }
  let t := match s.strand.tile td with
    | some k => t.dropName k
    | none => t
  .ok ((s.onThunks c (fun _ => t)).onStrand (fun x => x.setTile td (some i)))

/-- Append a node and retire. -/
def State.appendNode (s : State) (td : Reg) (node : Node) (leaves : List CamEntry) : Chk State :=
  (s.append td node leaves).map State.retire

/-! ## Tile descriptors (R332, R333) -/

/-- A tile descriptor (Table 18-4). -/
structure TileDesc where
  base : Nat
  fmt : BitVec 6
  rank : Nat
  scaled : Bool
  ext : List Nat
  str : List Int
  scstr : Int
  scbase : Nat
  /-- a reserved bit is set -/
  reserved : Bool
  deriving DecidableEq, Repr

/-- The descriptor in 64 bytes. -/
def TileDesc.of (bs : List Byte) : TileDesc :=
  let at' (b n : Nat) : Nat := ofBytes ((bs.drop b).take n)
  { base := at' 0 8 % 2 ^ 57, fmt := BitVec.ofNat 6 (at' 8 1), rank := at' 9 1, scaled := nbit (at' 10 1) 0,
    ext := (upto 4).map (fun d => at' (16 + 4 * d) 4), str := 0 :: (upto 3).map (fun d => sint 32 (at' (32 + 4 * d) 4)),
    scstr := sint 32 (at' 44 4), scbase := at' 48 8 % 2 ^ 57,
    reserved := decide (at' 0 8 / 2 ^ 57 ≠ 0 ∨ at' 8 1 / 64 ≠ 0 ∨ at' 10 1 / 2 ≠ 0 ∨ at' 11 5 ≠ 0 ∨
      at' 48 8 / 2 ^ 57 ≠ 0 ∨ at' 56 8 ≠ 0) }

/-- The invalid cases of R332 that need no format. -/
def TileDesc.bad (d : TileDesc) : Bool :=
  d.reserved || decide (d.rank = 0 ∨ 4 < d.rank) || d.ext.any (fun e => decide (e = 0)) ||
    (upto 4).any (fun i => decide (d.rank ≤ i) && decide (d.ext.getD i 1 ≠ 1 ∨ d.str.getD i 0 ≠ 0))

/-- The interval of a descriptor (R333) in its resolved format. -/
def TileDesc.interval (d : TileDesc) (f : BitVec 6) : Int × Int :=
  let h := hullOf (((d.ext.zip d.str)).drop 1)
  let row : Int := ((d.ext.getD 0 1 * nibs f + 1) / 2 : Nat)
  ((d.base : Int) + h.1, (d.base : Int) + row + h.2)

/-- The scale interval: the hull of the A and the B layout (R333). -/
def TileDesc.scales (d : TileDesc) : (Int × Int) × (Int × Int) :=
  let lay (outer inner : Nat) : Int × Int :=
    let h := hullOf [(outer, d.scstr)]
    ((d.scbase : Int) + h.1, (d.scbase : Int) + (inner : Nat) + h.2)
  (lay (d.ext.getD 1 1) ((d.ext.getD 0 1 + 31) / 32), lay ((d.ext.getD 1 1 + 31) / 32) (d.ext.getD 0 1))

/-- The hull of two intervals. -/
def hull2 (a b : Int × Int) : Int × Int := (min a.1 b.1, max a.2 b.2)

/-- The intervals of a descriptor: its own and, where it is SCALED, its scales'. -/
def TileDesc.intervals (d : TileDesc) (f : BitVec 6) : List (Int × Int) :=
  d.interval f :: (if d.scaled then [hull2 d.scales.1 d.scales.2] else [])

/-- The space and alignment rules of R332 and R333: reason 5, then 0x03, then 0x07. -/
def TileDesc.place (d : TileDesc) (i : Instr) (sp : Bool) (f : BitVec 6) : Chk Unit := do
  let iv := d.intervals f
  need (!iv.any (fun r => decide (r.1 < 0) || (!sp && decide ((2 ^ 57 : Nat) < r.2)))) (refusedTile i 5)
  let z : Nat := max 1 (nibs f / 2)
  need (decide (d.base % z = 0 ∧ d.scbase % z = 0 ∧ d.scstr % z = 0) && d.str.all (fun v => decide (v % z = 0)))
    (.event 3 d.base)
  match iv.find? (fun r => sp && decide ((0x200000 : Int) < r.2)) with
  | some r => .error (.event 7 (r.2 - 1).toNat)
  | none => .ok ()

/-- Walk every page of [va, hi) (R334): a failure waits, and a window page gives 0x13. -/
def State.walkPages (s : State) (hi : Nat) : Nat → Nat → Chk Unit
  | 0, _ => .ok ()
  | n + 1, va =>
    if hi ≤ va then .ok ()
    else match s.transOn s.actor.core va .read with
      | .error f => .error (stopWalk va .read f)
      | .ok t => if t.isWindow then .error (.event 0x13 va) else s.walkPages hi n (t.base + t.size)

/-- TLD and TLDS (R334). -/
def State.leaf (s : State) (i : Instr) (td a : Reg) (sp : Bool) : Chk State := do
  let c := s.actor.core
  let addr ← recordAt (s.get a) 32 64
  let d := TileDesc.of (s.sread c addr 64)
  need (!d.bad) (refusedTile i 5)
  let f := s.resolveFmt d.fmt
  need (nodeFmt f) (refusedTile i 3)
  d.place i sp f
  let iv := d.intervals f
  if !sp then
    for r in iv do
      s.walkPages r.2.toNat ((r.2 - r.1).toNat / 4096 + 2) r.1.toNat
  let main := d.interval f
  let node : Node :=
    { kind := if sp then .tlds else .tld, fmt := f, rank := d.rank, ext := d.ext,
      body := .leaf main.1.toNat main.2.toNat d.base (((nibs f / 2 : Nat) : Int) :: d.str.drop 1)
        (if d.scaled then some (d.scbase, d.scstr) else none) }
  s.appendNode td node (iv.map (fun r => { scratch := sp, lo := r.1.toNat, hi := r.2.toNat, leaves := [] }))

def execTld (td a : Reg) (s : State) : Out := .next (s.run (s.leaf (.tld td a) td a false))
def execTlds (td a : Reg) (s : State) : Out := .next (s.run (s.leaf (.tlds td a) td a true))

/-! ## TFILL (R335) -/

/-- TFILL. -/
def execTfill (td a : Reg) (fmt : BitVec 6) (s : State) : Out :=
  .next (s.run (do
    let f := s.resolveFmt fmt
    need (nodeFmt f) (refusedTile (.tfill td a fmt) 3)
    let r1 := roundRne .bf16 (Fmt.f32.val (field (s.get a) 0 32))
    let r2 := match fmtOf f with
      | some g => (roundRne g (Fmt.bf16.val r1.1)).2
      | none => 0
    let node : Node := { kind := .tfill, fmt := f, rank := 1, ext := [1, 1, 1, 1],
                         body := .fill (BitVec.ofNat 32 (r1.1 * 65536)) }
    let s ← s.append td node []
    pure (s.orFlags (r1.2 ||| r2)).retire))

/-! ## Matrix products (R336) -/

/-- The formats that a matrix word accepts (R227). -/
def matFmt (f : BitVec 6) : Bool :=
  match fmtOf f with
  | some .i8 | some .h4s | some .h4u | some .bf16 | some .f16 | some (.b8 _ _ _) => true
  | _ => false

/-- The scale interval of a leaf in the layout of its role (R333, R336); none for a node that is not a scaled leaf. -/
def Node.roleScales (n : Node) (isA : Bool) : Option (Int × Int) :=
  match n.body with
  | .leaf _ _ _ _ (some (base, str)) =>
    let e0 := n.extents.getD 0 1
    let e1 := n.extents.getD 1 1
    let outer := if isA then e1 else (e1 + 31) / 32
    let inner := if isA then (e0 + 31) / 32 else e0
    let h := hullOf [(outer, str)]
    some ((base : Int) + h.1, (base : Int) + (inner : Nat) + h.2)
  | _ => none

/-- TMM and TMMS. -/
def State.product (s : State) (i : Instr) (scaled : Bool) (ofmt : BitVec 3) (td ta tb : Reg) : Chk State := do
  let (na, a) ← s.operand i ta
  let (nb, b) ← s.operand i tb
  let ea := a.extents
  let eb := b.extents
  need (decide (ea.getD 0 1 = eb.getD 1 1 ∧ ea.drop 2 = [1, 1] ∧ eb.drop 2 = [1, 1])) (refusedTile i 4)
  need (matFmt a.fmt && matFmt b.fmt) (refusedTile i 3)
  need (!a.scalar && !b.scalar) (refusedTile i 2)
  let body ←
    if scaled then
      match a.roleScales true, b.roleScales false with
      | some x, some y => pure (Body.scales x.1 x.2 y.1 y.2)
      | _, _ => Except.error (refusedTile i 7)
    else pure Body.none
  s.appendNode td { kind := if scaled then .tmms else .tmm, fmt := ofmt.setWidth 6, rank := 2,
                    ext := [eb.getD 0 1, ea.getD 1 1, 1, 1], opnd := [na, nb], body := body } []

def execTmm (ofmt : BitVec 3) (td ta tb : Reg) (s : State) : Out :=
  .next (s.run (s.product (.tmm ofmt td ta tb) false ofmt td ta tb))
def execTmms (ofmt : BitVec 3) (td ta tb : Reg) (s : State) : Out :=
  .next (s.run (s.product (.tmms ofmt td ta tb) true ofmt td ta tb))

/-! ## Elementwise nodes (R337) -/

/-- Operands of an elementwise node: equal extents (reason 2) and equal formats of the non-scalar value operands
(reason 3), under the scalar rule; the format and shape of the result. `vals` are the operands that carry values. -/
def elementwiseShape (i : Instr) (all vals : List Node) (refused : List (BitVec 6)) : Chk Node := do
  let shaped := all.filter (fun n => !n.scalar)
  let ref := shaped.headD (vals.headD {})
  need (shaped.all (fun n => decide (n.extents = ref.extents))) (refusedTile i 2)
  let typed := vals.filter (fun n => !n.scalar)
  let f := ((typed ++ shaped).headD (vals.headD {})).fmt
  need (typed.all (fun n => decide (n.fmt = f)) && !refused.contains f) (refusedTile i 3)
  .ok { fmt := f, rank := ref.rank, ext := ref.ext }

/-- A TEW member. -/
def State.tew (s : State) (i : Instr) (sub : Nat) (td ta tb : Reg) : Out :=
  .next (s.run (do
    let (na, a) ← s.operand i ta
    let (nb, b) ← s.operand i tb
    let n ← elementwiseShape i [a, b] [a, b] [7]
    s.appendNode td { n with kind := .tew, sub := sub, opnd := [na, nb] } []))

def execTewAdd (td ta tb : Reg) (s : State) : Out := s.tew (.tewAdd td ta tb) 0 td ta tb
def execTewSub (td ta tb : Reg) (s : State) : Out := s.tew (.tewSub td ta tb) 1 td ta tb
def execTewMul (td ta tb : Reg) (s : State) : Out := s.tew (.tewMul td ta tb) 2 td ta tb
def execTewDiv (td ta tb : Reg) (s : State) : Out := s.tew (.tewDiv td ta tb) 3 td ta tb
def execTewMax (td ta tb : Reg) (s : State) : Out := s.tew (.tewMax td ta tb) 4 td ta tb
def execTewMin (td ta tb : Reg) (s : State) : Out := s.tew (.tewMin td ta tb) 5 td ta tb

/-- A TUN member; the transcendentals refuse I8 and I32 (Table 18-5). -/
def State.tun (s : State) (i : Instr) (sub : Nat) (td ta : Reg) : Out :=
  .next (s.run (do
    let (na, a) ← s.operand i ta
    let n ← elementwiseShape i [a] [a] (if sub < 6 then [3, 4, 7] else [7])
    s.appendNode td { n with kind := .tun, sub := sub, opnd := [na] } []))

def execTunExp (td ta : Reg) (s : State) : Out := s.tun (.tunExp td ta) 0 td ta
def execTunLog (td ta : Reg) (s : State) : Out := s.tun (.tunLog td ta) 1 td ta
def execTunRcp (td ta : Reg) (s : State) : Out := s.tun (.tunRcp td ta) 2 td ta
def execTunRsq (td ta : Reg) (s : State) : Out := s.tun (.tunRsq td ta) 3 td ta
def execTunTanh (td ta : Reg) (s : State) : Out := s.tun (.tunTanh td ta) 4 td ta
def execTunSilu (td ta : Reg) (s : State) : Out := s.tun (.tunSilu td ta) 5 td ta
def execTunNeg (td ta : Reg) (s : State) : Out := s.tun (.tunNeg td ta) 6 td ta
def execTunAbs (td ta : Reg) (s : State) : Out := s.tun (.tunAbs td ta) 7 td ta

/-- TCVT. -/
def execTcvt (mode : BitVec 3) (td ta : Reg) (fmt : BitVec 6) (s : State) : Out :=
  let i : Instr := .tcvt mode td ta fmt
  .next (s.run (do
    let (na, a) ← s.operand i ta
    let f := s.resolveFmt fmt
    need (nodeFmt f) (refusedTile i 3)
    s.appendNode td { kind := .tcvt, sub := mode.toNat, fmt := f, rank := a.rank, ext := a.ext, opnd := [na] } []))

/-- TSEL: the condition is the node that td names on entry. -/
def execTsel (td ta tb : Reg) (s : State) : Out :=
  let i : Instr := .tsel td ta tb
  .next (s.run (do
    let (nc, c) ← s.operand i td
    let (na, a) ← s.operand i ta
    let (nb, b) ← s.operand i tb
    let n ← elementwiseShape i [c, a, b] [a, b] [7]
    s.appendNode td { n with kind := .tsel, opnd := [nc, na, nb] } []))

/-- TRED (R338). -/
def execTred (isMax : Bool) (axis : BitVec 2) (td ta : Reg) (s : State) : Out :=
  let i : Instr := .tred isMax axis td ta
  .next (s.run (do
    let (na, a) ← s.operand i ta
    need (!a.scalar && decide (a.fmt ≠ 4 ∧ a.fmt ≠ 7)) (refusedTile i 3)
    s.appendNode td { kind := .tred, sub := axis.toNat + (if isMax then 4 else 0), fmt := a.fmt, rank := a.rank,
                      ext := a.extents.set axis.toNat 1, opnd := [na] } []))

/-! ## Index maps (R339, R340) -/

/-- A map register of zeros. -/
def zeroMap : List Int := List.replicate 20 0

/-- Map register `m`. -/
def Strand.mapReg (t : Strand) (m : Nat) : List Int := sget zeroMap t.maps m

/-- Write map register `m`. -/
def Strand.setMap (t : Strand) (m : Nat) (v : List Int) : Strand := { t with maps := sset zeroMap t.maps m v }

/-- TMAP: EXT_c is s[sr][16c + 15 : 16c], 0 standing for 65,536. -/
def execTmap (td ta : Reg) (m : BitVec 4) (sr : BitVec 5) (s : State) : Out :=
  let i : Instr := .tmap td ta m sr
  .next (s.run (do
    let (na, a) ← s.operand i ta
    let v := s.get (sr.setWidth 6)
    let ext := (upto 4).map (fun c => let e := field v (16 * c) 16; if e = 0 then 65536 else e)
    let rank := (upto 4).foldl (fun r c => if ext.getD c 1 ≠ 1 then c + 1 else r) 1
    s.appendNode td { kind := .tmap, fmt := a.fmt, rank := rank, ext := ext, opnd := [na],
                      body := .map (s.strand.mapReg m.toNat) } []))

/-- MAPSET m, a: 20 signed 32-bit coefficients at s[a]. -/
def execMapset (m a : BitVec 6) (s : State) : Out :=
  .next (s.run (do
    let addr ← recordAt (s.get a) 16 80
    let v := (upto 20).map (fun i => sint 32 (s.sval s.actor.core (addr + 4 * i) 4))
    pure ((s.onStrand (fun t => t.setMap m.toNat v)).retire)))

/-- MAPROW m, a, b, #row. -/
def execMaprow (row : BitVec 2) (m a b : BitVec 6) (s : State) : Out :=
  let r := (upto 4).map (fun c => sint 16 (field (s.get a) (16 * c) 16)) ++ [sint 32 (field (s.get b) 0 32)]
  let old := s.strand.mapReg m.toNat
  .next ((s.onStrand (fun t => t.setMap m.toNat
    (old.take (5 * row.toNat) ++ r ++ old.drop (5 * row.toNat + 5)))).retire)

/-! ## Demands (R341, R342, R242) -/

/-- The lowest ring of core `c` with an exception pending on a planned word that satisfies `p`. -/
def State.pendingPlanned (s : State) (c : Nat) (p : PlannedWord → Bool) : Option Nat :=
  (upto 6).find? (fun r =>
    let g := (s.core c).ring r
    g.pendx && (match (s.thunks c).plannedWord r g.xseq with
      | some w => p w
      | none => false))

/-- A demanding instruction whose plan `id` is decided: it returns when its last word has been written, or, waiting,
when its last join is confirmed; waiting, it delivers an exception of its own words (R242). -/
def State.awaitPlan (s : State) (id : Nat) (wait : Bool) : State :=
  let c := s.actor.core
  let s := s.pump c
  let t := s.thunks c
  let stay := s.onStrand (fun x => { x with status := .waitPlan id, stalled := true })
  if wait then
    match s.pendingPlanned c (fun w => decide (w.plan = id)) with
    | some r => s.deliverAt c r
    | none => if t.plans.any (fun p => decide (p.id = id)) then stay else s.retire
  else if t.queue.any (fun q => decide (q.plan = id)) then stay else s.retire

/-- A destination descriptor for a node (R341 step 4): reason 5, reason 3 for a table entry with no format (R330), then 0x03
and 0x07; its place. -/
def State.destination (s : State) (i : Instr) (n : Node) (d : TileDesc) (sp : Bool) : Chk (Loc × (Int × Int)) := do
  let f := s.resolveFmt d.fmt
  need (!d.bad && !d.scaled) (refusedTile i 5)
  need (decide (d.fmt ≠ 0x3F) || (fmtOf f).isSome) (refusedTile i 3)
  need (decide (f = n.fmt) && decide (d.ext = n.extents) &&
    !(decide (nibs f = 1) && decide (d.ext.getD 0 1 % 2 = 1))) (refusedTile i 5)
  d.place i sp f
  .ok ({ sp := sp, base := (2 * d.base : Nat), str := ((nibs f : Nat) : Int) :: (d.str.drop 1).map (fun x => 2 * x), fmt := f },
    d.interval f)

/-- Decide a demand and wait for it. -/
def State.startPlan (s : State) (d : Demand) (wait : Bool) : Chk State :=
  match s.demand s.actor.core d with
  | .error e => .error e
  | .ok (s, id) => .ok (s.awaitPlan id wait)

/-- TSTORE and TSTORE.SP: the node's whole extent, after the alias check. -/
def execTstore (sp : Bool) (ta b : Reg) (s : State) : Out :=
  let i : Instr := .tstore sp ta b
  match s.strand.status with
  | .waitPlan id => .next (s.awaitPlan id false)
  | _ => .next (s.run (do
      let (n, node) ← s.operand i ta
      let addr ← recordAt (s.get b) 32 64
      let (loc, iv) ← s.destination i node (TileDesc.of (s.sread s.actor.core addr 64)) sp
      s.aliasGate s.actor.core sp iv.1.toNat iv.2.toNat
      s.startPlan { node := n, box := node.whole, dest := .place loc, pc := s.strand.pc } false))

/-- FORCE and FORCE.W: the cut box of a demand record (Table 18-6). -/
def execForce (wait : Bool) (ta b : Reg) (s : State) : Out :=
  let i : Instr := .force wait ta b
  let c := s.actor.core
  match s.strand.status with
  | .waitPlan id => .next (s.awaitPlan id wait)
  | _ =>
    match (if wait then s.pendingPlanned c (fun _ => true) else none) with
    | some r => .next (s.deliverAt c r)
    | none => .next (s.run (do
        let (n, node) ← s.operand i ta
        let addr ← recordAt (s.get b) 32 128
        let bs := s.sread c addr 128
        let at' (o k : Nat) : Nat := ofBytes ((bs.drop o).take k)
        let kind := at' 33 1
        let semv := nbit (at' 32 1) 7
        let slot := at' 32 1 % 128
        need (decide (kind ≤ 2) && decide (at' 34 30 = 0) && (decide (kind ≠ 0) || decide (at' 64 64 = 0))) (refusedTile i 5)
        let dest ←
          if kind = 0 then pure DemandDest.arena
          else do
            let r ← s.destination i node (TileDesc.of (bs.drop 64)) (decide (kind = 2))
            pure (DemandDest.place r.1)
        need (!(semv && decide (80 ≤ slot ∧ slot ≤ 95))) (refusedTile i 6)
        let box := cutBox ((upto 4).map (fun d => ((at' (8 * d) 4 : Int), (at' (8 * d + 4) 4 : Int)))) node.extents
        s.startPlan { node := n, box := box, dest := dest, slot := if semv then some slot else none, pc := s.strand.pc }
          wait))

/-! ## Names, queries and the arena (R343 to R345) -/

/-- TDROP. -/
def execTdrop (ta : Reg) (s : State) : Out :=
  let c := s.actor.core
  .next (match s.strand.tile ta with
    | some n => ((s.onThunks c (fun t => t.dropName n)).onStrand (fun t => t.setTile ta none)).retire
    | none => s.retire)

/-- KIND codes (Table 13-1). -/
def NodeKind.code : NodeKind → Nat
  | .free => 0
  | .tld => 1
  | .tlds => 2
  | .tfill => 3
  | .tmm => 4
  | .tmms => 5
  | .tew => 6
  | .tun => 7
  | .tcvt => 8
  | .tred => 9
  | .tsel => 10
  | .tmap => 11
  | .mat => 12

/-- A property of a node (Table 18-7, selectors 1 to 6). -/
def Node.query (n : Node) (sel : Nat) : Nat :=
  match sel with
  | 1 => n.kind.code + n.fmt.toNat * 2 ^ 8 + n.rank * 2 ^ 16 + n.names * 2 ^ 24 + n.uses * 2 ^ 32
  | 2 => n.extents.getD 0 1 + n.extents.getD 1 1 * 2 ^ 32
  | 3 => n.extents.getD 2 1 + n.extents.getD 3 1 * 2 ^ 32
  | 4 => n.nflags.toNat
  | 5 => match n.arena with
    | some g => g + 2 ^ 16
    | none => 0
  | _ => n.creatorPc.toNat

/-- TQRY d, ta, #sel. -/
def execTqry (d ta : Reg) (sel : BitVec 3) (s : State) : Out :=
  let t := s.me.thunks
  let v := match sel.toNat, s.strand.tile ta with
    | 0, some n => n + 256
    | 7, _ => (256 - t.liveNodes.length) + t.between % 65536 * 2 ^ 16 + (if t.plans.isEmpty then 0 else 2 ^ 32)
    | k, some n => (t.node n).query k
    | _, none => 0
  .next (s.result d (BitVec.ofNat 64 v))

/-- TARENA a, b. -/
def execTarena (a b : Reg) (s : State) : Out :=
  let c := s.actor.core
  let first := field (s.get a) 0 16
  let count := field (s.get b) 0 17
  let t := s.thunks c
  .next (s.run (do
    need t.plans.isEmpty (.again (s.pump c))
    need (decide (first + count ≤ 65536)) (.event 7 (32 * (first + count) - 1))
    need t.persist.isEmpty (.event 0x0C 0)
    pure ((s.onThunks c (fun t => { t with arenaFirst := first, arenaCount := count })).retire)))

end Sys2Proof.Machine
end

