-- ==== Sys2Proof/Machine/Save.lean ====
section
/-! DEFINITION. Save slots: the image of Table 14-7, the writes and reads of a slot (R262, R265), the reload of an engine
at its committed mark (R154, R158), and the strand that a slot rebuilds (R267). -/

namespace Sys2Proof.Machine

/-! ## Pieces of memory by virtual address -/

/-- Bytes from `va` cut where a 4 KiB page ends; `fuel` bounds the pieces. -/
def cutPages : Nat → Nat → List Byte → List (Nat × List Byte)
  | 0, _, _ => []
  | fuel + 1, va, bs =>
    if bs.isEmpty then []
    else
      let n := 4096 - va % 4096
      (va % 2 ^ 57, bs.take n) :: cutPages fuel (va + n) (bs.drop n)

/-- Write one piece for a context of function `f`. -/
def State.putPiece (s : State) (f x va : Nat) (bs : List Byte) : Chk State :=
  match walk s f x va .write with
  | .error e => .error (stopWalk va .write e)
  | .ok t =>
    match s.engCheck f t va bs.length true false with
    | .error e => .error e
    | .ok _ => .ok (s.writeUncached f t va bs)

/-- Write pieces in order; every byte already written is kept when one stops (R390). -/
def State.putPieces (f x : Nat) : List (Nat × List Byte) → State → State × Option Stop
  | [], s => (s, none)
  | p :: rest, s =>
    match s.putPiece f x p.1 p.2 with
    | .error e => (s, some e)
    | .ok s => State.putPieces f x rest s

/-- Read `n` bytes at a VA, page by page; `fuel` bounds the pages. -/
def State.getBytes (s : State) (f x : Nat) : Nat → Nat → Nat → Chk (List Byte)
  | 0, _, _ => .ok []
  | fuel + 1, va, n =>
    if n = 0 then .ok []
    else
      let k := min n (4096 - va % 4096)
      match walk s f x (va % 2 ^ 57) .read with
      | .error e => .error (stopWalk (va % 2 ^ 57) .read e)
      | .ok t =>
        match s.engCheck f t (va % 2 ^ 57) k false false with
        | .error e => .error e
        | .ok _ =>
          match State.getBytes s f x fuel (va + k) (n - k) with
          | .error e => .error e
          | .ok bs => .ok (s.readVia t (va % 2 ^ 57) k ++ bs)

/-- Read `n` bytes of a context's memory. -/
def State.vaBytes (s : State) (f x va n : Nat) : Chk (List Byte) := s.getBytes f x (n / 4096 + 2) va n

/-! ## The LIVE descriptor (Table 14-6) -/

/-- Fields of a descriptor. -/
def liveSmask (d : BitVec 768) (n : Nat) : Bool := d.getLsbD n
def liveTmask (d : BitVec 768) (n : Nat) : Bool := d.getLsbD (64 + n)
def liveMmask (d : BitVec 768) (n : Nat) : Bool := d.getLsbD (128 + n)
def liveThunk (d : BitVec 768) : Bool := d.getLsbD 144
def liveRanges (d : BitVec 768) : Nat := field d 152 8
def liveBase (d : BitVec 768) (j : Nat) : Nat := field d (256 + 64 * j) 16
def liveNg (d : BitVec 768) (j : Nat) : Nat := field d (272 + 64 * j) 17

/-- The scratch ranges in use: first granule and granules. -/
def liveSpans (d : BitVec 768) : List (Nat × Nat) := (upto (min (liveRanges d) 8)).map (fun j => (liveBase d j, liveNg d j))

/-- A descriptor that R263 refuses. -/
def liveBad (d : BitVec 768) : Bool :=
  decide (field d 145 7 ≠ 0 ∨ field d 160 96 ≠ 0 ∨ 8 < liveRanges d)
  || (upto 8).any (fun j =>
      if j < liveRanges d then
        decide (field d (289 + 64 * j) 31 ≠ 0 ∨ liveNg d j = 0 ∨ 65536 < liveBase d j + liveNg d j)
      else decide (field d (256 + 64 * j) 64 ≠ 0))

/-- The live bytes of a descriptor (R264). -/
def liveSize (d : BitVec 768) : Nat :=
  4096 + (if liveThunk d then 34880 else 0) + 32 * (liveSpans d).foldl (fun n r => n + r.2) 0

/-- The bytes of a full context (R264). -/
def fullSize : Nat := 3283008

/-! ## The image of a strand (Table 14-7) -/

/-- Eight bytes of each number. -/
def words8 (l : List Nat) : List Byte := l.flatMap (toBytes 8)

/-- An entry of the loop stack as R300 lays it out. -/
def LoopEntry.word (e : LoopEntry) : Nat := e.pc.toNat + e.reg.toNat * 2 ^ 57 + 2 ^ 63

/-- LSTK0 to LSTK2, LSTK0 outermost. -/
def Strand.lstk (t : Strand) : List Nat :=
  (upto 3).map (fun i => match t.loops.reverse[i]? with | some e => e.word | none => 0)

/-- What a save writes beside the strand itself. -/
structure SaveForm where
  full : Bool
  pc : Va
  /-- PYLD count, ranges, U and BAR state are written (R390 leaves them out) -/
  dynamic : Bool := true
  deriving DecidableEq, Repr

/-- How the strand goes on after a restore (log 32): a code and an argument. -/
def Strand.resumeCode (t : Strand) : Nat × Nat :=
  match t.status with
  | .waitBar => (1, 0)
  | .waitQueue _ _ => (2, 0)
  | .paused => (3, 0)
  | .wfe d _ => (4, d.toNat)
  | .waitPlan p => (5, p)
  | .waitFault f => (6, f)
  | .ended => (7, 0)
  | _ => (0, 0)

/-- Bytes 0x0C80 to 0x0CFF (layout: log 32). -/
def State.dynamicBytes (s : State) (c : Nat) (on : Bool) : List Byte :=
  let t := (s.core c).strand
  let u := if (s.core c).rank = 0 then (match s.gang (s.core c).gang with | some g => g.u | none => 0) else 0
  let arrivals := if (s.core c).rank = 0 then ((s.gangCores c).filter (fun d => (s.core d).strand.atBar)).length else 0
  let r := t.resumeCode
  let lived := if t.live.isSome then 1 else 0
  if on then words8 [t.ownLo, t.ownHi, t.chunkLen, (match t.queued with | some i => i + 1 | none => 0), t.barArr, r.1, r.2, t.pylds.toNat, u, arrivals,
                     t.latch.toNat, lived, 0, 0, 0, 0]
  else toBytes 128 0

/-- The header, bytes 0x0000 to 0x007F. -/
def State.headerBytes (s : State) (c : Nat) (m : SaveForm) : List Byte :=
  let k := s.core c
  let t := k.strand
  toBytes 8 m.pc.toNat ++ toBytes 1 (if m.full then 2 else 1) ++ toBytes 1 0 ++ toBytes 2 k.ctx ++ toBytes 2 k.rank
    ++ toBytes 2 (s.gangCores c).length
    ++ words8 [t.flags.toNat, t.thmode.toNat, t.leaseMax.toNat, t.srseed.toNat, t.trapPc.toNat, t.trapCause.toNat,
               t.trapInfo.toNat, t.trapvec.toNat, t.inHandler.toNat, (validPc t.demandPc).toNat, (validPc t.creatorPc).toNat]
    ++ words8 t.lstk

/-- BODY of a node, 80 bytes (Table 13-1). -/
def Body.bytes (b : Body) : List Byte :=
  match b with
  | .none => toBytes 80 0
  | .leaf lo hi base str sc =>
    words8 [lo, hi, base] ++ (upto 4).flatMap (fun i => toBytes 8 (low 64 (str.getD i 0)))
      ++ (match sc with
          | some (b, st) => toBytes 8 b ++ toBytes 4 (low 32 st)
          | Option.none => toBytes 12 0)
      ++ toBytes 12 0
  | .fill v => toBytes 4 v.toNat ++ toBytes 76 0
  | .map m => (upto 20).flatMap (fun i => toBytes 4 (low 32 (m.getD i 0)))
  | .scales al ah bl bh => words8 [low 64 al, low 64 ah, low 64 bl, low 64 bh] ++ toBytes 48 0
  | .mat g => toBytes 2 g ++ toBytes 78 0

/-- A node's 128 bytes (Table 13-1). -/
def Node.bytes (n : Node) : List Byte :=
  toBytes 1 n.kind.code ++ toBytes 1 n.sub ++ toBytes 1 n.fmt.toNat ++ toBytes 1 n.rank
    ++ (upto 4).flatMap (fun i => toBytes 4 (if n.kind = .free then 0 else n.ext.getD i 1))
    ++ (upto 3).flatMap (fun i => toBytes 2 (match n.opnd[i]? with | some o => o + 0x8000 | none => 0))
    ++ toBytes 1 n.nflags.toNat ++ toBytes 1 n.names ++ toBytes 2 n.uses ++ toBytes 2 0 ++ toBytes 4 n.cseq.toNat
    ++ toBytes 4 (n.arena.getD 0) ++ toBytes 8 n.creatorPc.toNat ++ n.body.bytes

/-- The entries of the CAM that cover leaf `i`, its data's and its scales', each plus 1 in a byte; 0 for none. -/
def Thunks.camOf (t : Thunks) (i : Nat) : Nat :=
  match (t.cam.zipIdx).filter (fun e => e.1.leaves.contains i) with
  | [] => 0
  | [e] => e.2 + 1
  | e :: f :: _ => e.2 + 1 + 256 * (f.2 + 1)

/-- The granules of the persistent block that starts at `g`; 0 for none. -/
def Thunks.blockAt (t : Thunks) (g : Option Nat) : Nat :=
  match g with
  | some g => (match t.persist.find? (fun b => decide (b.1 = g)) with | some b => b.2 | none => 0)
  | none => 0

/-- The thunk area, 34,880 bytes: nodes, CAM entries, each leaf's entry, each node's arena blocks, CSEQ, the arena (inner
layout: log 32). -/
def Thunks.bytes (t : Thunks) : List Byte :=
  (upto 256).flatMap (fun i => (t.node i).bytes)
    ++ (upto 64).flatMap (fun j => match t.cam[j]? with
        | some e => words8 [e.lo + (if e.scratch then 2 ^ 63 else 0), e.hi]
        | none => toBytes 16 0)
    ++ (upto 256).flatMap (fun i => toBytes 2 (t.camOf i))
    ++ (upto 256).flatMap (fun i => toBytes 2 (t.blockAt (t.node i).arena))
    ++ words8 [t.cseq.toNat, t.arenaFirst, t.arenaCount] ++ toBytes 40 0

/-- The parts of a slot that a save writes: offset and bytes (R265). -/
def State.slotParts (s : State) (c : Nat) (m : SaveForm) : List (Nat × List Byte) :=
  let k := s.core c
  let t := k.strand
  let d := t.live.getD 0
  let regs := (upto 64).filter (fun n => m.full || liveSmask d n)
  let tiles := (upto 64).filter (fun n => m.full || liveTmask d n)
  let maps := (upto 16).filter (fun n => m.full || liveMmask d n)
  [(0, s.headerBytes c m), (0x80, toBytes 96 d.toNat)]
    ++ regs.map (fun n => (0x100 + 8 * n, toBytes 8 (t.get (BitVec.ofNat 6 n)).toNat))
    ++ [(0x300, words8 ((upto 15).map (fun h =>
          let v := t.handle h
          v.va.toNat + (if v.st = .valid ∨ v.st = .pending ∨ v.st = .revoked then 2 ^ 63 else 0))))]
    ++ tiles.map (fun n => (0x380 + 2 * n, toBytes 2 (match t.tile (BitVec.ofNat 6 n) with | some i => i + 0x8000 | none => 0)))
    ++ maps.map (fun n => (0x400 + 80 * n, (upto 20).flatMap (fun i => toBytes 4 (low 32 ((t.mapReg n).getD i 0)))))
    ++ [(0x900, (upto 96).flatMap (fun i => toBytes 4 (s.sem (semKey (dieOf c) (96 * coreInDie c + i))).toNat)),
        (0xA80, (upto 32).flatMap (fun i => toBytes 4 (sget 0 k.aliases i).toNat)),
        (0xB00, (upto 6).flatMap (fun r => words8 ((upto 8).map (fun o => s.ringReg c r (8 * o))))),
        (0xC80, s.dynamicBytes c m.dynamic)]
    ++ (if m.full || liveThunk d then [(0x1000, k.thunks.bytes)] else [])
    ++ (if m.full then
          [(0x10000, words8 ((upto 0x3000).map (fun i => s.cfgRead c (8 * i)))),
           (0x100000, (upto 0x40000).flatMap (fun i => toBytes 4 (s.accAt c (i / 65536) (i % 65536)).toNat)),
           (0x200000, s.sread c 0 0x200000)]
        else (liveSpans d).map (fun r => (0x200000 + 32 * r.1, s.sread c (32 * r.1) (32 * r.2))))

/-- Write a slot at a VA for the strand of core `c`. -/
def State.writeSlot (s : State) (c va : Nat) (m : SaveForm) : State × Option Stop :=
  State.putPieces (s.core c).fn (s.core c).ctx
    ((s.slotParts c m).flatMap (fun p => cutPages (p.2.length / 4096 + 2) (va + p.1) p.2)) s

/-! ## The reload of an engine (R154, R158) -/

/-- The elements that iteration `it` of a tile-step word writes hold undefined values (R158). -/
def State.spoilStep (s : State) (c : Nat) (w : BitVec 192) (it : Nat) : State :=
  let m := mWordOf w
  let k := s.core c
  match matStep k c (field w 184 8) m (k.lntImage 1 m.lnt.toNat) it with
  | .error _ => s
  | .ok m => (upto m.rows).foldl (fun s i => (upto m.cols).foldl (fun s j =>
      let x := m.elemIx i j
      s.setAcc c m.bank x (Config.undefAcc (2 ^ 32 + s.tick) c (m.bank % 4 * 65536 + x % 65536))) s) s

/-- The elements of a settled bank that the first `n` iterations of an unconfirmed word wrote are undefined (R158). -/
def State.spoilWord (s : State) (c : Nat) (w : BitVec 192) (n : Nat) : State :=
  (upto n).foldl (fun s it => s.spoilStep c w it) s

/-- The unconfirmed words of the M ring that wrote a settled bank. -/
def Core.settledWriters (k : Core) : List (BitVec 32) :=
  (k.ring 1).flight.filterMap (fun f => match f.bank with
    | some b => if k.paired b || k.unsettled.contains b then none else some f.seq
    | none => none)

/-- The working banks of enabled pairs take their snapshots (R158). -/
def Core.unworkPairs (k : Core) : Core :=
  let back (k : Core) (b : Nat) : Core :=
    { k with
      acc := k.acc.filter (fun e => decide (e.1 / 65536 < b)) ++ (bankOf k.acc (b + 1)).map (fun e => (e.1 - 65536, e.2))
        ++ k.acc.filter (fun e => decide (b < e.1 / 65536))
      accZero := if bmem k.accZero (b + 1) then bset k.accZero b else bclr k.accZero b
      accLost := if bmem k.accLost (b + 1) then bset k.accLost b else bclr k.accLost b
      accFrom := sput k.accFrom b (k.accTag (b + 1)) }
  let k := if k.pair01 then back k 0 else k
  if k.pair23 then back k 2 else k

/-- A transfer whose word runs again: the packets answered in order stand, the others are cut and sent again with the same
XFER, from the mark on (R378, R393). -/
def Transfer.rewind (t : Transfer) : Transfer := { t with packets := t.packets.takeWhile Sent.answered, done := false }

/-- Engine `r` of core `c` reloads from its ring: unconfirmed work is discarded and its words run again from their marks
(R154, R158, R378); a channel's record cache is empty (R393). A pending exception stays with its word, at
which the engine stops again (R256). -/
def State.reloadEngine (s : State) (c r : Nat) : State :=
  let s := s.ageMarks c r
  let g := (s.core c).ring r
  let start := if r = 1 then g.rkeep else g.rhead
  let keepX := g.pendx && decide (seqDist start g.xseq < seqDist start g.rtail)
  let s := { s with semWaiters := s.semWaiters.filter (fun w => decide (w.core ≠ c ∨ w.ring ≠ some r)) }
  let s := s.dropWaits (fun a => decide (a = .ring c r))
  let s := if r = 1 then
      let s := (s.core c).settledWriters.foldl (fun s n =>
        let w := s.slotWord c 1 n
        s.spoilWord c w (nestSize ((s.core c).lntImage 1 (field w 139 4)))) s
      let s := if g.begun && g.done ≠ 0 then
          let w := s.slotWord c 1 g.next
          let b := field w 168 2
          if (s.core c).paired b || (s.core c).unsettled.contains b then s else s.spoilWord c w g.done
        else s
      s.onCore c (fun k => { k.unworkPairs with rowprog := 0 })
    else s
  let s := s.onRing c r (fun g => { g with
    next := start, pendx := keepX, wait := .none, flight := [], begun := false, done := 0, facc := 0, rows := [],
    uses := [], spans := [], overlap := false, young := [], hold := none, atCommit := false,
    jobs := [], chosen := none, cache := [] })
  if 2 ≤ r then s.onFabric (fun f => { f with transfers := f.transfers.map (fun t =>
    if t.core = c ∧ t.ring = r then t.rewind else t) })
  else s

/-! ## The strand that a slot rebuilds (R267) -/

/-- A slot as read: the first 4 KiB, the thunk area where it is read, the scratch pieces, and the large regions of a
FULL slot. -/
structure SlotImage where
  head : List Byte
  thunk : Option (List Byte) := none
  scratch : List (Nat × List Byte) := []
  cfg : List Byte := []
  acc : List Byte := []
  loops : List LoopEntry := []
  deriving DecidableEq, Repr

/-- `n` bytes at offset `o` as a number. -/
def bytesAt (bs : List Byte) (o n : Nat) : Nat := ofBytes ((bs.drop o).take n)

/-- KIND of a slot. -/
def SlotImage.kind (i : SlotImage) : Nat := bytesAt i.head 8 1

/-- The descriptor that a slot holds. -/
def SlotImage.desc (i : SlotImage) : BitVec 768 := BitVec.ofNat 768 (bytesAt i.head 0x80 96)

/-- The end address of a loop, from off14 of the LOOP word at its PC (R300). -/
def State.loopEnd (s : State) (f x : Nat) (pc : Va) : Chk Va :=
  match walk s f x pc.toNat .fetch with
  | .error e => .error (stopWalk pc.toNat .fetch e)
  | .ok t =>
    match s.lineFails t.mtype (t.at pc.toNat) 4 false with
    | some l => .error (.integrity (64 * l))
    | none => .ok (pcAdd pc (nbits (ofBytes (s.readVia t pc.toNat 4)) 0 14))

/-- The loop stack that LSTK words give, innermost first. -/
def State.loopsOf (s : State) (f x : Nat) : List Nat → List LoopEntry → Chk (List LoopEntry)
  | [], acc => .ok acc
  | w :: rest, acc =>
    if nbit w 63 then
      match s.loopEnd f x (BitVec.ofNat 57 w) with
      | .error e => .error e
      | .ok l => State.loopsOf s f x rest ({ pc := BitVec.ofNat 57 w, reg := BitVec.ofNat 6 (w / 2 ^ 57), last := l } :: acc)
    else State.loopsOf s f x rest acc

/-- Read the scratch ranges of a descriptor. -/
def State.readSpans (s : State) (f x va : Nat) : List (Nat × Nat) → Chk (List (Nat × List Byte))
  | [] => .ok []
  | r :: rest => do
    let bs ← s.vaBytes f x (va + 0x200000 + 32 * r.1) (32 * r.2)
    let l ← State.readSpans s f x va rest
    .ok ((32 * r.1, bs) :: l)

/-- Read a whole slot at a VA. -/
def State.readSlot (s : State) (f x va : Nat) : Chk SlotImage := do
  let head ← s.vaBytes f x va 0x1000
  let i : SlotImage := { head := head }
  let full : Bool := decide (i.kind = 2)
  let thunk ← (if full || liveThunk i.desc then (s.vaBytes f x (va + 0x1000) 34880).map some else .ok none)
  let spans ← s.readSpans f x va (if full then [(0, 65536)] else liveSpans i.desc)
  let cfg ← (if full then s.vaBytes f x (va + 0x10000) 0x18000 else .ok [])
  let acc ← (if full then s.vaBytes f x (va + 0x100000) 0x100000 else .ok [])
  let loops ← s.loopsOf f x ((upto 3).map (fun n => bytesAt head (104 + 8 * n) 8)) []
  .ok { i with thunk := thunk, scratch := spans, cfg := cfg, acc := acc, loops := loops }

/-- KIND of a node from its code. -/
def nodeKindOf (n : Nat) : NodeKind :=
  match n with
  | 1 => .tld
  | 2 => .tlds
  | 3 => .tfill
  | 4 => .tmm
  | 5 => .tmms
  | 6 => .tew
  | 7 => .tun
  | 8 => .tcvt
  | 9 => .tred
  | 10 => .tsel
  | 11 => .tmap
  | 12 => .mat
  | _ => .free

/-- A node from its 128 bytes; `block` tells whether a persistent block is in its ARENA. -/
def nodeOfBytes (b : List Byte) (block : Bool) : Node :=
  let kind := nodeKindOf (bytesAt b 0 1)
  let w (o n : Nat) : Nat := bytesAt b o n
  let body : Body := match kind with
    | .tld | .tlds => .leaf (w 48 8) (w 56 8) (w 64 8) ((upto 4).map (fun i => sint 64 (w (72 + 8 * i) 8)))
        (if w 104 12 = 0 then none else some (w 104 8, sint 32 (w 112 4)))
    | .tfill => .fill (BitVec.ofNat 32 (w 48 4))
    | .tmap => .map ((upto 20).map (fun i => sint 32 (w (48 + 4 * i) 4)))
    | .tmms => .scales (sint 64 (w 48 8)) (sint 64 (w 56 8)) (sint 64 (w 64 8)) (sint 64 (w 72 8))
    | .mat => .mat (w 48 2)
    | _ => .none
  if kind = .free then {}
  else
    { kind := kind, sub := w 1 1, fmt := BitVec.ofNat 6 (w 2 1), rank := w 3 1, ext := (upto 4).map (fun i => w (4 + 4 * i) 4),
      opnd := ((upto 3).map (fun i => w (20 + 2 * i) 2)).filterMap (fun o => if nbit o 15 then some (o % 256) else none),
      nflags := BitVec.ofNat 6 (w 26 1), names := w 27 1, uses := w 28 2, cseq := BitVec.ofNat 32 (w 32 4),
      arena := if block then some (w 36 2) else none, creatorPc := BitVec.ofNat 57 (w 40 8), body := body }

/-- The thunk table, CAM and arena from the thunk area, over `base`, whose plans in flight stay with the blocks that their
joins free (R250). -/
def thunksOfBytes (base : Thunks) (b : List Byte) : Thunks :=
  let blk (i : Nat) : Nat := bytesAt b (0x8600 + 2 * i) 2
  let covers (i j : Nat) : Bool :=
    decide (bytesAt b (0x8400 + 2 * i) 1 = j + 1 ∨ bytesAt b (0x8401 + 2 * i) 1 = j + 1)
  let node (i : Nat) : Node := nodeOfBytes ((b.drop (128 * i)).take 128) (decide (blk i ≠ 0))
  let nodes := (upto 256).foldl (fun m i => sset {} m i (node i)) ([] : Sparse Node)
  let entry (j : Nat) : CamEntry :=
    { scratch := nbit (bytesAt b (0x8000 + 16 * j) 8) 63, lo := nbits (bytesAt b (0x8000 + 16 * j) 8) 0 63,
      hi := bytesAt b (0x8008 + 16 * j) 8, leaves := (upto 256).filter (fun i => covers i j) }
  { base with
    nodes := nodes
    cam := ((upto 64).map entry).filter (fun e => !e.leaves.isEmpty)
    persist := (upto 256).flatMap (fun i =>
        let n := node i
        let own : List (Nat × Nat) := match n.body with
          | .mat g => [(g, blockGranules n.fmt n.extents)]
          | _ => []
        own ++ (match n.arena with | some g => (if own.any (fun x => decide (x.1 = g)) then [] else [(g, blk i)]) | none => []))
      ++ base.persist.filter (fun x => base.plans.any (fun p => p.frees.contains x.1))
    cseq := BitVec.ofNat 32 (bytesAt b 0x8800 8)
    arenaFirst := bytesAt b 0x8808 8
    arenaCount := bytesAt b 0x8810 8 }

/-- NAMES counts the tile registers that name each node; then R231. -/
def Thunks.rename (t : Thunks) (tiles : Sparse Nat) : Thunks :=
  let t := { t with nodes := t.nodes.map (fun (e : Nat × Node) =>
    (e.1, { e.2 with names := (tiles.filter (fun (x : Nat × Nat) => decide (x.2 = e.1))).length })) }
  t.release (upto 256)

/-- A 57-bit PC register with its VALID bit. -/
def pcOpt (v : Nat) : Option Va := if nbit v 63 then some (BitVec.ofNat 57 v) else none

/-- The strand that a slot gives, over `base`: registers, trap registers and loop stack (R267 step 3, R302); handles
(R184); what its descriptor leaves out is undefined. -/
def SlotImage.strand (i : SlotImage) (base : Strand) (tick : Nat) : Strand :=
  let w (o n : Nat) : Nat := bytesAt i.head o n
  let d := i.desc
  let full := decide (i.kind = 2)
  let reg (n : Nat) : Word := if full || liveSmask d n then BitVec.ofNat 64 (w (0x100 + 8 * n) 8) else Config.undefReg tick n
  let tile (n : Nat) : Option Nat :=
    if (full || (liveThunk d && liveTmask d n)) && nbit (w (0x380 + 2 * n) 2) 15 then some (w (0x380 + 2 * n) 1) else none
  let mp (n : Nat) : List Int :=
    (upto 20).map (fun j => if full || liveMmask d n then sint 32 (w (0x400 + 80 * n + 4 * j) 4)
      else sint 32 (Config.undefReg tick (64 + 20 * n + j)).toNat)
  let handle (h : Nat) : Handle :=
    let v := w (0x300 + 8 * h) 8
    { va := BitVec.ofNat 57 v, st := if nbit v 63 then .revoked else .invalid }
  let tv := w 72 8
  { base with
    pc := BitVec.ofNat 57 (w 0 8) &&& ~~~3
    regs := (upto 64).foldl (fun m n => if n = 0 then m else sset 0 m n (reg n)) []
    handles := (upto 15).foldl (fun m h => sset {} m h (handle h)) []
    tiles := (upto 64).filterMap (fun n => (tile n).map (fun v => (n, v)))
    maps := (upto 16).foldl (fun m n => sset zeroMap m n (mp n)) []
    loops := i.loops
    flags := BitVec.ofNat 6 (w 16 8)
    full := nbit (w 24 8) 0, aliasOn := nbit (w 24 8) 1, revoke := nbit (w 24 8) 2, spdbg := nbit (w 24 8) 3
    leaseMax := BitVec.ofNat 13 (clampTo 1 4096 (nbits (w 32 8) 0 13))
    engSeed := seedOf (BitVec.ofNat 32 (w 40 4)), strState := seedOf (BitVec.ofNat 32 (w 44 4))
    trapPc := BitVec.ofNat 57 (w 48 8) &&& ~~~3, trapCause := BitVec.ofNat 8 (w 56 8), trapInfo := BitVec.ofNat 64 (w 64 8)
    trapVec := BitVec.ofNat 57 tv &&& ~~~3, trapVecValid := nbit tv 63, inHandler := nbit (w 80 8) 0
    demandPc := pcOpt (w 88 8), creatorPc := pcOpt (w 96 8)
    live := if i.kind = 1 || nbit (w (0xC80 + 88) 8) 0 then some d else none
    liveBytes := if i.kind = 1 || nbit (w (0xC80 + 88) 8) 0 then some (liveSize d) else none
    reply := none, stalled := false }

/-- A ring from its block in a slot (Table 9-3); after a LIVE save its sequences meet at RTAIL. -/
def SlotImage.ring (i : SlotImage) (base : Ring) (r : Nat) : Ring :=
  let w (o n : Nat) : Nat := bytesAt i.head (0xB00 + 64 * r + o) n
  let tail := BitVec.ofNat 32 (w 0x10 4)
  let g := { base with baseG := BitVec.ofNat 16 (w 0 2), log2n := BitVec.ofNat 4 (w 2 1) }
  if i.kind = 2 then
    let head := BitVec.ofNat 32 (w 0x08 4)
    { g with next := if r = 1 then BitVec.ofNat 32 (w 0x18 4) else head, rhead := head, rtail := tail, rkeep := BitVec.ofNat 32 (w 0x18 4), rcmt := BitVec.ofNat 32 (w 0x30 4)
             resets := nbits (w 0x20 4) 1 2, cfgerr := nbit (w 0x20 4) 3, pendx := nbit (w 0x20 4) 4
             xcode := BitVec.ofNat 8 (w 0x21 1)
             xseq := head + BitVec.ofNat 32 (low 16 ((w 0x22 2 : Int) - (head.toNat : Int))) }
  else { g with rhead := tail, rtail := tail, rkeep := tail, next := tail, rcmt := tail, cfgerr := nbit (w 0x20 4) 3 }

/-- The engine configuration of a FULL slot, over `k`. -/
def SlotImage.config (i : SlotImage) (k : Core) : Core :=
  let w (o n : Nat) : Nat := bytesAt i.cfg o n
  let lnt (sh : Bool) : Sparse (BitVec 2176) := (upto 32).foldl (fun m j =>
    sset 0 m j (BitVec.ofNat 2176 (w (0x10000 + 0x400 * j + (if sh then 0x200 else 0)) 272))) []
  { k with
    pair01 := nbit (w 0x400 1) 0, pair23 := nbit (w 0x400 1) 1
    mzseq := (upto 4).foldl (fun m b => sset 0 m b (BitVec.ofNat 32 (w (0x408 + 8 * b) 4))) []
    rowprog := w 0x428 8
    pipes := (upto 32).foldl (fun m q =>
      let p := (({} : Pipe).setCfg (w (0x1000 + 16 * q) 8))
      let v := w (0x1008 + 16 * q) 8
      sset {} m q { p with fill := nbits v 0 9, head := nbits v 9 8, tail := nbits v 17 8 }) []
    fmtTab := (upto 64).foldl (fun m e => sset 0 m e (BitVec.ofNat 6 (w (0x2000 + 8 * e) 1))) []
    lntActive := lnt false, lntShadow := lnt true
    acc := (upto 0x40000).map (fun e => (e, BitVec.ofNat 32 (bytesAt i.acc (4 * e) 4))), accZero := 0, accLost := 0
    accFrom := [] }

/-- The core that a slot rebuilds over `base`: what a LIVE slot does not hold takes its gang-start value or is undefined
(R267); `gen` marks the undefined bytes of this restore. -/
def SlotImage.core (i : SlotImage) (base : Core) (tick gen : Nat) : Core :=
  let full := decide (i.kind = 2)
  let k : Core := { base with
    strand := i.strand base.strand tick
    aliases := (upto 32).foldl (fun m a => sset 0 m a (BitVec.ofNat 32 (bytesAt i.head (0xA80 + 4 * a) 4))) []
    rings := (upto 6).foldl (fun m r => sset (ringStart r) m r (i.ring (base.ring r) r)) []
    scratch := i.scratch.foldl (fun m p => uwrite m p.1 p.2) []
    tlb := []
    gen := gen }
  let k := if full then i.config k
    else { k with pipes := [], fmtTab := [], lntActive := [], lntShadow := [], acc := [], accZero := 0, accLost := 0, accFrom := [], pair01 := true,
                  pair23 := true, mzseq := [], rowprog := 0, uncommitted := false, unsettled := [] }
  let t := match i.thunk with
    | some b => thunksOfBytes base.thunks b
    | none => {}
  { k with thunks := if full then t else t.rename k.strand.tiles }

/-- Core `c` takes the core that a slot rebuilds, and its block of semaphores (R267 steps 1 to 4, 6). -/
def State.fillFromSlot (s : State) (c : Nat) (i : SlotImage) (base : Core) : State :=
  let s := (upto 96).foldl (fun s n =>
    s.semWrite (semKey (dieOf c) (96 * coreInDie c + n)) (BitVec.ofNat 32 (bytesAt i.head (0x900 + 4 * n) 4))) s
  let k := i.core base s.tick ((s.core c).gen + 1)
  -- the writes of its semaphores are events of the core (R386)
  s.setCore c { k with strand := { k.strand with latch := k.strand.latch ||| (s.core c).strand.latch } }

end Sys2Proof.Machine
end

