-- ==== Sys2Proof/Machine/SysInstr.lean ====
section
/-! DEFINITION. The SYS group (R380 to R391) and the events that end its waits; the end of a handle's walk (R183). -/

namespace Sys2Proof.Machine

/-! ## Entering and leaving a handler -/

/-- TRAP: the precise event 0x11 with its immediate (R382). -/
def execTrap (n : BitVec 18) (s : State) : Out := .next (s.trap 0x11 n.toNat)

/-- DBGBRK: the precise event 0x15 (R382). -/
def execDbgbrk (s : State) : Out := .next (s.trap 0x15 0)

/-- ERET: PC := TRAPPC and INH := 0; illegal with INH = 0 (R383). -/
def execEret (s : State) : Out :=
  .next (if s.strand.inHandler then s.onStrand Strand.leave else s.trap 1 (wordOf .eret).toNat)

/-! ## Ending the strand (R384) -/

/-- The walks of a strand's pending handles are abandoned (R384). -/
def State.abandonWalks (s : State) (c : Nat) : State :=
  s.dropWaits (fun a => match a with | .handle c' _ => decide (c' = c) | _ => false)

/-- An exception pending on a ring of a strand that has exited ends the node (R165). -/
def State.exitPending (s : State) (c : Nat) : State :=
  match (upto 6).find? (fun r => ((s.core c).ring r).pendx) with
  | some r => s.failNodeOf c 5 (failInfo (engineCause ((s.core c).ring r).xcode) (s.core c).strand.pc)
  | none => s

/-- EXIT: the lease ends, pending walks are abandoned, the loop stack empties, FLAGS goes to CTXFLAGS, and the strand
counts as arrived at every later BAR. -/
def execExit (s : State) : Out :=
  let c := s.actor.core
  let f := s.strand.flags
  let cores := s.gangCores c
  let s := (s.abandonWalks c).onStrand (fun t => { t with lease := none, loops := [], status := .exited, stalled := false })
  .next (((s.orCtxFlags s.me.ctx f).exitPending c).barRelease cores)

/-! ## Idling (R385, R386) -/

/-- PAUSE: nothing is issued for min(max(s[a], 1), 65,535) cycles. -/
def execPause (a : Reg) (s : State) : Out :=
  .next (s.onStrand (fun t => { t with
    status := .paused, stalled := true, wakeAt := s.cycle + min (max (s.get a).toNat 1) 65535 }))

/-- PAUSE_END: the instruction retires. -/
def execPauseEnd (core : Nat) (s : State) : Out :=
  .next (if (s.core core).strand.status = .paused then s.onStrandOf core Strand.retired else s)

/-- WFE returns: s[d] takes a value and the latch clears in the same step. -/
def Strand.wake (t : Strand) (d : Reg) (v : Word) : Strand := { t.set d v with latch := 0 }.retired

/-- WFE: returns the latch at once when it is set, else waits with or without a limit. -/
def execWfe (d a : Reg) (s : State) : Out :=
  let limit := (s.get a).toNat
  .next (if s.strand.latch ≠ 0 then s.onStrand (fun t => t.wake d (t.latch.setWidth 64))
    else s.onStrand (fun t => { t with
      status := .wfe d (decide (limit ≠ 0)), stalled := true, wakeAt := s.cycle + limit }))

/-- WFE_WAKE: the latch is set; it is read and cleared. -/
def execWfeWake (core : Nat) (s : State) : Out :=
  .next (match (s.core core).strand.status with
    | .wfe d _ =>
      if (s.core core).strand.latch ≠ 0 then s.onStrandOf core (fun t => t.wake d (t.latch.setWidth 64)) else s
    | _ => s)

/-- WFE_LIMIT_EXPIRY: the limit passes first and WFE returns the latch, which is 0. -/
def execWfeLimitExpiry (core : Nat) (s : State) : Out :=
  .next (match (s.core core).strand.status with
    | .wfe d true => s.onStrandOf core (fun t => t.wake d (t.latch.setWidth 64))
    | _ => s)

/-! ## Pre-emption points (R388, R389) -/

/-- A save point that has retired: with a save decision pending the strand stops issuing. -/
def State.savePoint (s : State) : State :=
  if s.me.saveAsk then s.onStrand (fun t => { t with status := .saving }) else s

/-- PYLD. -/
def execPyld (s : State) : Out :=
  let s := s.onMe (fun k => { k with pyldAt := (s.cycle :: k.pyldAt).take 2 })
  .next (s.onStrand (fun t => { t with pylds := t.pylds + 1 })).retire.savePoint

/-- LIVE: the descriptor's checks in the order 0x03, 0x07, 0x01, then it is in force. -/
def execLive (a : Reg) (s : State) : Out :=
  .next (s.run do
    let ea ← recordAt (s.get a) 32 96
    let d := BitVec.ofNat 768 (s.sval s.actor.core ea 96)
    need (!liveBad d) (.event 1 (wordOf (.live a)).toNat)
    .ok ((s.onStrand (fun t => { t with live := some d, liveBytes := some (liveSize d) })).retire.savePoint))

/-! ## Software save and reload (R390, R391) -/

/-- The strand that CTXSV's image holds: retired, with s[d] = 1 and SMASK bit d set. -/
def Strand.imaged (t : Strand) (d : Reg) : Strand :=
  let t := (t.set d 1).advance
  if d = 0 then t else { t.set d 1 with live := t.live.map (fun v => bset v d.toNat) }

/-- CTXSV: waits for the rings, writes the slot, then clears s[d]. -/
def execCtxsv (d a : Reg) (s : State) : Out :=
  let c := s.actor.core
  let va := (s.get a).toNat % 2 ^ 57
  .next (
    if va % 0x10000 ≠ 0 then s.trap 3 va
    else
      let s := s.demandKeep c
      if !s.me.ringsEmpty then s.stop (s.again c)
      else
        let t := s.strand
        let i := t.imaged d
        let r := (s.onStrand (fun _ => i)).writeSlot c va { full := t.live.isNone, pc := i.pc, dynamic := false }
        let s := r.1.onStrand (fun _ => t)
        match r.2 with
        | some e => s.stop e
        | none => s.result d 0)

/-- What a reload checks of a slot's header: KIND, then CTXID, rank and gang size (R391). -/
def State.slotCheck (s : State) (c : Nat) (word : Nat) (va : Nat) (i : SlotImage) : Chk Unit := do
  need (decide (i.kind = 1 ∨ i.kind = 2)) (.event 1 word)
  need (decide (bytesAt i.head 10 2 = (s.core c).ctx ∧ bytesAt i.head 12 2 = (s.core c).rank ∧
    bytesAt i.head 14 2 = (s.gangCores c).length)) (.event 2 va)

/-- CTXLD: the strand is rebuilt from a slot; FLAGS accumulate, and what R391 names keeps its value. -/
def execCtxld (a : Reg) (s : State) : Out :=
  let c := s.actor.core
  let va := (s.get a).toNat % 2 ^ 57
  .next (s.run do
    need (decide (va % 0x10000 = 0)) (.event 3 va)
    let head ← s.vaBytes s.me.fn s.me.ctx va 0x1000
    s.slotCheck c (wordOf (.ctxld a)).toNat va { head := head }
    let s := s.demandKeep c
    if s.me.ringsEmpty then .ok () else .error (s.again c)
    let i ← s.readSlot s.me.fn s.me.ctx va
    let f := s.strand.flags
    let s := s.abandonWalks c
    let s := s.fillFromSlot c i s.me
    .ok (s.onStrand (fun t => { t with flags := t.flags ||| f, status := .running, stalled := false })))

/-! ## The end of a handle's walk (R183, R189, R309) -/

/-- WALK_COMPLETE: a pending handle that waits on no fault walks: VALID with the page, or REVOKED where a shootdown
covered it, or a fault is posted and it stays PENDING. -/
def execWalkComplete (core h : Nat) (s : State) : Out :=
  let k := s.core core
  let v := k.strand.handle h
  .next (
    if v.st ≠ .pending ∨ v.fid.isSome then s
    else if v.shot then s.onStrandOf core (fun t => t.setHandle h { v with st := .revoked, shot := false })
    else match walk s k.fn k.ctx v.va.toNat .read with
      | .ok tr =>
        (s.onCore core (fun k => { k with tlb := { fn := k.fn, ctx := k.ctx, tr := tr } :: k.tlb })).onStrandOf core
          (fun t => t.setHandle h { v with st := .valid, tr := tr })
      | .error f =>
        match f.mac with
        | some l => (s.onStrandOf core (fun t => t.setHandle h { v with st := .failed })).integrityFail k.fn (64 * l) (some core)
        | none =>
        let r := s.fault (.handle core h) none 0 k.fn k.ctx v.va.toNat .read f
        r.1.onStrandOf core (fun t => t.setHandle h { v with fid := some r.2 }))

end Sys2Proof.Machine
end

