-- ==== Sys2Proof/Machine/Sched.lean ====
section
/-! DEFINITION. Launch records (R115 to R117), placement (R119 to R121, R125, R403), stride scheduling (R123, R124),
pre-emption (R128, R129), saves and restores of gangs (R262, R267) and the end of instances (R131). -/

namespace Sys2Proof.Machine

/-! ## Launch records (R115, R116) -/

/-- A level word as (COUNT, KIND, CHUNK). -/
def levelOfWord (w : Nat) : Nat × Nat × Nat := (nbits w 0 32, nbits w 32 2, nbits w 36 16)

/-- The level words of a record. -/
def recordLevels (b : List Byte) : List Nat := (upto 6).map (fun l => bytesAt b (64 + 8 * l) 8)

/-- The fields of a launch record (Table 8-1). Alignment bits of SUCCVA and CRVA are ignored (log 34). -/
def launchOf (b : List Byte) : Launch :=
  let csem := bytesAt b 40 4
  { entry := BitVec.ofNat 57 (bytesAt b 0 8), ctx := bytesAt b 8 2 % 4096, gang := bytesAt b 10 1 % 8,
    nlev := bytesAt b 11 1 % 8, idemp := nbit (bytesAt b 12 2) 0, sysrel := nbit (bytesAt b 12 2) 1,
    opcnt := bytesAt b 14 1, predcnt := bytesAt b 16 4, nsucc := bytesAt b 20 4,
    succVa := bytesAt b 24 8 % 2 ^ 57 / 4 * 4, argVa := BitVec.ofNat 64 (bytesAt b 32 8),
    csem := if nbit csem 31 then some (csem % 65536, nbits csem 16 2) else none,
    crVa := bytesAt b 48 8 % 2 ^ 57 / 32 * 32, opVa := bytesAt b 56 8 % 2 ^ 57,
    levels := (recordLevels b).map levelOfWord }

/-- Whether the virtual dies that a launch names are local in a map (R116, R403). -/
def Launch.diesOk (l : Launch) (cap : List (Option (BitVec 32))) : Bool :=
  (upto (min 64 ((l.countOf 2).getD 0))).all (fun i => (localDie (captured (some cap) i)).isSome)
    && (match l.csem with
        | some (_, vd) => (localDie (captured (some cap) vd)).isSome
        | none => true)

/-- A bad record (R116); `ctx` is the queue's context and `cap` its composed map now. -/
def recordBad (b : List Byte) (ctx : Nat) (cap : List (Option (BitVec 32))) : Bool :=
  let l := launchOf b
  let words := recordLevels b
  let used := words.take l.nlev
  let kinds := used.map (fun w => nbits w 32 2)
  let many (k : Nat) : Bool := decide (1 < (kinds.filter (fun x => decide (x = k))).length)
  -- reserved fields
  decide (nbits (bytesAt b 0 8) 57 7 ≠ 0 ∨ nbits (bytesAt b 8 2) 12 4 ≠ 0 ∨ nbits (bytesAt b 10 1) 3 5 ≠ 0
    ∨ nbits (bytesAt b 11 1) 3 5 ≠ 0 ∨ nbits (bytesAt b 12 2) 2 14 ≠ 0 ∨ bytesAt b 15 1 ≠ 0
    ∨ nbits (bytesAt b 40 4) 18 13 ≠ 0 ∨ bytesAt b 44 4 ≠ 0 ∨ bytesAt b 112 16 ≠ 0)
  || (words.drop l.nlev).any (fun w => decide (w ≠ 0))
  || used.any (fun w => nbit w 35 || decide (nbits w 52 12 ≠ 0))
  -- values
  || decide (bytesAt b 0 8 % 4 ≠ 0 ∨ l.ctx ≠ ctx ∨ l.gang = 7 ∨ 6 < l.nlev ∨ 8 < l.opcnt ∨ 1024 < l.nsucc)
  || many 1 || many 2 || many 3 || (kinds.contains 1 && kinds.contains 3)
  || used.any (fun w => nbit w 34 || (if nbits w 32 2 = 3 then decide (nbits w 36 16 = 0) else decide (nbits w 36 16 ≠ 0)))
  || decide (64 < (l.countOf 2).getD 0)
  || !l.diesOk cap

/-- Whether a queue has a record to fetch (R117): enabled, its context live and not failed, its function's node table
not full, and the slot's earlier node over (log 34). -/
def State.canFetch (s : State) (f q : Nat) : Bool :=
  let b := s.queue f (4 + q)
  let x := s.ctx b.ctx.toNat
  b.en && decide (b.dev ≠ b.host) && x.live && decide (x.fn = f) && !x.failed && x.destroying.isNone
    && decide ((s.nodes.filter (fun n => decide (n.fn = f))).length < 4096) && (s.node f q b.dev).isNone

/-- The bytes of the record at a launch queue's head; one that is not mapped reads as all ones (R43), one on a failing line
too, and the failure is the function's (R106). -/
def State.launchBytes (s : State) (f q : Nat) : State × List Byte := s.entryRead f (4 + q)

/-- The decrements held for a slot are taken at its fetch (R118). -/
def State.dropDecs (s : State) (f q idx : Nat) : State :=
  s.onFn f (fun x => { x with decs := x.decs.filter (fun d => !decide (d.1 = q ∧ d.2.1 = idx)) })

/-- A node from a record, with the decrements held for its slot (R117, R118, R132). -/
def State.newNode (s : State) (f q idx : Nat) (l : Launch) : State :=
  let mine := (s.fn f).decs.filter (fun d => decide (d.1 = q ∧ d.2.1 = idx))
  let n : TaskNode := { fn := f, q := q, idx := idx, launch := l, remaining := l.predcnt - mine.length,
                        doomed := mine.any (fun d => d.2.2), instances := l.instances.length }
  let n := if n.remaining = 0 then n.arrive s.nextOrder else n
  let s := s.dropDecs f q idx
  { s with nodes := s.nodes ++ [n], nextOrder := s.nextOrder + 1 }

/-- LAUNCH_RECORD_FETCH: the record at the head enters the node table, or completes with BAD_RECORD (R48, R116). -/
def execLaunchRecordFetch (fn q : Nat) (s : State) : Out :=
  .next (
    if !s.canFetch fn q then s
    else
      let b := s.queue fn (4 + q)
      let idx := b.dev
      let ctx := b.ctx.toNat
      let (s, bytes) := s.launchBytes fn q
      let s := s.onQueue fn (4 + q) (fun b => { b with dev := (b.dev + 1) % b.size })
      if recordBad bytes ctx (s.captureOf ctx) then
        ((s.post fn 2 (cqEntry idx q 2 ctx 4 (bytesAt bytes 48 8))).dropDecs fn q idx).settleNodes
      else (s.newNode fn q idx (launchOf bytes)).settleNodes)

/-! ## Candidates for placement (R119, R125) -/

/-- Cores of a gang shape (Table 8-3). -/
def shapeSize (shape : Nat) : Nat := 2 ^ shape

/-- The core sets of a shape whose lowest cluster is `k` (package-wide, R10), by rank. -/
def coreSets (k shape : Nat) : List (List Nat) :=
  let n := shapeSize shape
  let run (start : Nat) : List Nat := (upto n).map (fun i => start + i)
  if shape < 4 then (upto (8 / n)).map (fun j => run (8 * k + n * j))
  else if shape < 7 ∧ k % 8 % (n / 8) = 0 then [run (8 * k)]
  else []

/-- What may be placed. -/
inductive CandKind where
  /-- an instance never placed -/
  | fresh
  /-- a gang to restart after a discard -/
  | again (gang : Nat)
  /-- a saved gang -/
  | saved (gang : Nat)
  deriving DecidableEq, Repr

/-- A gang that is ready to be placed. -/
structure Candidate where
  kind : CandKind
  fn : Nat
  q : Nat
  idx : Nat
  inst : Nat
  ctx : Nat
  shape : Nat
  die : Option Nat
  bad : Bool
  key : List Nat
  deriving DecidableEq, Repr

/-- Lexicographic order. -/
def keyLess : List Nat → List Nat → Bool
  | [], _ => false
  | _, [] => false
  | a :: l, b :: m => decide (a < b) || (decide (a = b) && keyLess l m)

/-- Insert a candidate in its order. -/
def insertCand (c : Candidate) : List Candidate → List Candidate
  | [] => [c]
  | d :: l => if keyLess c.key d.key then c :: d :: l else d :: insertCand c l

/-- The order of R125: context pass, CTXID, PRIO, queue, pre-empted gangs first, order of readiness, instance. -/
def State.candKey (s : State) (n : TaskNode) (placed : Bool) (inst : Nat) : List Nat :=
  [(s.ctx n.launch.ctx).pass, n.launch.ctx, (s.queue n.fn (4 + n.q)).prio.toNat, n.q, (if placed then 0 else 1), n.order, inst]

/-- Whether a context's gangs may be placed (R91, R93, R257). -/
def State.mayPlace (s : State) (x : Nat) : Bool :=
  let c := s.ctx x
  c.live && c.admitted && !c.failed && !(s.fn c.fn).shed

/-- The candidates of function `f` in order. -/
def State.candidates (s : State) (f : Nat) : List Candidate :=
  let mk (n : TaskNode) (kind : CandKind) (inst : Nat) : Candidate :=
    let cap := n.capture.getD (s.captureOf n.launch.ctx)
    { kind := kind, fn := n.fn, q := n.q, idx := n.idx, inst := inst, ctx := n.launch.ctx, shape := n.launch.gang,
      die := localDie (captured (some cap) inst), bad := n.capture.isNone && !n.launch.diesOk cap,
      key := s.candKey n (decide (kind ≠ .fresh)) inst }
  let of (n : TaskNode) : List Candidate :=
    n.toPlace.map (mk n .fresh) ++ (s.gangsOf n).filterMap (fun g => match g.phase with
      | .ready => some (mk n (.again g.id) g.inst)
      | .saved => if g.fid.isSome then none else some (mk n (.saved g.id) g.inst)
      | _ => none)
  ((s.nodes.filter (fun n => decide (n.fn = f ∧ n.phase = .ready ∧ n.status = 0) && s.mayPlace n.launch.ctx)).flatMap of).foldr
    insertCand []

/-- Whether function `f` owns a healthy cluster. -/
def State.ownsCluster (s : State) (f k : Nat) : Bool := bmem (s.fn f).part.clusters k && !bmem s.retiredClusters k

/-- Cores of a context's gangs that are resident or saved (R262). -/
def State.heldStrands (s : State) (x : Nat) : Nat :=
  (s.gangs.filter (fun g => decide (g.ctx = x ∧ g.phase ≠ .ready))).foldl (fun n g => n + shapeSize g.shape) 0

/-- Whether a free slot will be there for each strand (R262). -/
def State.slotsFor (s : State) (c : Candidate) : Bool :=
  match c.kind with
  | .saved _ => true
  | _ => decide (s.heldStrands c.ctx + shapeSize c.shape ≤ (s.ctx c.ctx).slots)

/-- The core sets that a candidate could ever use through cluster `k`: of its die, in clusters its function owns. An instance
whose virtual die the capture maps to no die of the package is selected wherever its shape fits, and fails there (R403). -/
def State.setsAt (s : State) (c : Candidate) (k : Nat) : List (List Nat) :=
  if c.die = some (k / 8) ∨ (c.die = none ∧ c.bad) then (coreSets k c.shape).filter (fun l => l.all (fun i => s.ownsCluster c.fn (i / 8))) else []

/-- The first gang of 16 to 64 cores of function `f` that would be placed through cluster `k` (R124). -/
def State.bigAt (s : State) (f k : Nat) : Option Candidate :=
  (s.candidates f).find? (fun c => decide (4 ≤ c.shape) && !(s.setsAt c k).isEmpty)

/-- Whether cluster `k` is reserved for a gang of the candidate's function that comes before it in the order of R125: the
cluster's cores are kept for that gang (R124). -/
def State.keptFrom (s : State) (c : Candidate) (k : Nat) : Bool :=
  match (s.cluster k).reserved with
  | some (f, k0) => decide (f = c.fn) && (match s.bigAt f k0 with
      | some b => keyLess b.key c.key
      | none => false)
  | none => false

/-- The cores that a candidate is placed on through cluster `k` now: held clusters that are not kept for another gang, free
cores. -/
def State.fitAt (s : State) (c : Candidate) (k : Nat) : Option (List Nat) :=
  if !s.slotsFor c then none
  else (s.setsAt c k).find? (fun l => l.all (fun i =>
    decide ((s.cluster (i / 8)).holder = some c.fn) && !(s.core i).resident && !(s.core i).inReset)
    && (l.map (fun i => i / 8)).eraseDups.all (fun j => !s.keptFrom c j))

/-- Whether a gang has been passed over in cluster `k` for a whole slice (R125). -/
def State.overdue (s : State) (k : Nat) (c : Candidate) : Bool :=
  (s.cluster k).skipped.any (fun e => decide (e.fn = c.fn ∧ e.q = c.q ∧ e.idx = c.idx ∧ e.inst = c.inst ∧ 2 ≤ e.age))

/-- The first candidate that fits, and those passed over before it; a candidate overdue in the cluster holds back those
after it. -/
def State.pickFrom (s : State) (k : Nat) : List Candidate → List Candidate → Option (Candidate × List Candidate)
  | [], _ => none
  | c :: rest, passed =>
    if (s.fitAt c k).isSome then some (c, passed)
    else if s.overdue k c then none
    else State.pickFrom s k rest (if (s.setsAt c k).isEmpty then passed else passed ++ [c])

/-- What cluster `k` places next for its holder. -/
def State.pick (s : State) (k : Nat) : Option (Candidate × List Candidate) :=
  match (s.cluster k).holder with
  | none => none
  | some f => s.pickFrom k (s.candidates f) []

/-- Record the gangs passed over; the one placed is no longer among them, in any cluster, and its set is reserved no more
(R124, R125). -/
def State.passOver (s : State) (k : Nat) (c : Candidate) (passed : List Candidate) : State :=
  let s := s.onClusters (fun x => { x with
    skipped := x.skipped.filter (fun e => !decide (e.fn = c.fn ∧ e.q = c.q ∧ e.idx = c.idx ∧ e.inst = c.inst))
    reserved := if x.reserved = some (c.fn, k) ∧ 4 ≤ c.shape then none else x.reserved
    reserveDue := x.reserveDue && !decide (x.reserved = some (c.fn, k) ∧ 4 ≤ c.shape) })
  s.onCluster k (fun x =>
    let kept := x.skipped
    { x with skipped := kept ++ (passed.filter (fun d => kept.all (fun e =>
        !decide (e.fn = d.fn ∧ e.q = d.q ∧ e.idx = d.idx ∧ e.inst = d.inst)))).map (fun d =>
          { fn := d.fn, q := d.q, idx := d.idx, inst := d.inst }) })

/-! ## The start of a gang (R120, R121) -/

/-- The bounds of a level for rank `r` of `g` in instance `i` (R121). -/
def boundsOf (lev : Nat × Nat × Nat) (r g i : Nat) : Nat × Nat :=
  match lev.2.1 with
  | 0 => (0, lev.1)
  | 1 => (r * lev.1 / g, (r + 1) * lev.1 / g)
  | 2 => (i, i + 1)
  | _ => (0, 0)

/-- The bounds of level `l`; [0, 0) at or beyond NLEV. -/
def Launch.bounds (n : Launch) (l r g i : Nat) : Nat × Nat :=
  if l < n.nlev then boundsOf (n.levels.getD l (0, 0, 0)) r g i else (0, 0)

/-- The own range at gang start: the SPATIAL_CORE split of the DYNAMIC level (R122). -/
def Launch.ownRange (n : Launch) (r g : Nat) : Nat × Nat :=
  match n.countOf 3 with
  | some c => (r * c / g, (r + 1) * c / g)
  | none => (0, 0)

/-- The scalar registers at gang start (Table 8-4). -/
def Launch.startRegs (n : Launch) (r g i : Nat) : Sparse Word :=
  let put (m : Sparse Word) (k v : Nat) : Sparse Word := sset 0 m k (BitVec.ofNat 64 v)
  let m := put (put (put (put (put [] 1 n.argVa.toNat) 2 r) 3 g) 4 i) 5 n.nlev
  (upto 6).foldl (fun m l =>
    let b := n.bounds l r g i
    put (put m (8 + 2 * l) b.1) (9 + 2 * l) b.2) m

/-- The strand of rank `r` at gang start (R120, R254). -/
def Launch.startStrand (n : Launch) (r g i : Nat) : Strand :=
  { status := .running, pc := n.entry, regs := n.startRegs r g i, ownLo := (n.ownRange r g).1, ownHi := (n.ownRange r g).2 }

/-- The 96 semaphores of a core's own block take a value (R146). -/
def State.zeroBlock (s : State) (c : Nat) : State :=
  (upto 96).foldl (fun s i => s.semWrite (semKey (dieOf c) (96 * coreInDie c + i)) 0) s

/-- Core `c` starts rank `r` of gang `id`. -/
def State.startCore (s : State) (l : Launch) (f id inst r g c : Nat) : State :=
  let p := s.takeCtxFlags l.ctx
  let s := p.1.zeroBlock c
  let t := l.startStrand r g inst
  s.setCore c { gen := (s.core c).gen + 1, resident := true, fn := f, ctx := l.ctx, gang := id, rank := r,
                strand := { t with flags := p.2 }, startAt := s.cycle }

/-- Advance a context's pass by the strides of a gang (R125). -/
def State.chargeCtx (s : State) (x size : Nat) : State :=
  s.onCtx x (fun c => { c with pass := c.pass + size * (2 ^ 20 / max 1 c.weight) })

/-- Start a gang on cores. -/
def State.startGang (s : State) (n : TaskNode) (inst id : Nat) (die : Nat) (cores : List Nat) : State :=
  let size := cores.length
  let g : Gang := { id := id, fn := n.fn, ctx := n.launch.ctx, q := n.q, idx := n.idx, inst := inst, die := die,
                    shape := n.launch.gang, cores := cores, u := (n.launch.countOf 3).getD 0 }
  let s := { s with gangs := s.gangs ++ [g] }
  let s := (cores.zipIdx).foldl (fun s p => s.startCore n.launch n.fn id inst p.2 size p.1) s
  s.chargeCtx n.launch.ctx size

/-- The node captures its map when the first of its gangs is selected; TSTART is then (R83, R403). -/
def TaskNode.select (n : TaskNode) (cap : List (Option (BitVec 32))) (peer now : Nat) : TaskNode :=
  if n.capture.isSome then n else { n with capture := some cap, peer := peer, tstart := now }

/-- GANG_PLACE: the cluster places the first candidate of its holder that fits; a node whose capture fails its checks
completes with BAD_RECORD (R403). A saved gang is placed by GANG_RESTORE. -/
def execGangPlace (die cluster : Nat) (s : State) : Out :=
  let k := 8 * (die % 4) + cluster % 8
  .next (match s.pick k with
    | none => s
    | some (c, passed) =>
      match s.node c.fn c.q c.idx with
      | none => s
      | some n =>
        let cap := n.capture.getD (s.captureOf c.ctx)
        if c.bad then
          (s.onNode c.fn c.q c.idx (fun n => { n.fail 4 0 with capture := some cap })).completeNode c.fn c.q c.idx
        else match c.kind, s.fitAt c k with
          | .fresh, some cores =>
            let s := (s.passOver k c passed).onNode c.fn c.q c.idx (fun n =>
              { n.select cap s.fabric.peer s.cycle with toPlace := n.toPlace.filter (fun i => decide (i ≠ c.inst)) })
            { s with nextGang := s.nextGang + 1 }.startGang n c.inst s.nextGang (k / 8) cores
          | .again id, some cores =>
            let s := s.passOver k c passed
            { s with gangs := s.gangs.filter (fun g => decide (g.id ≠ id)) }.startGang n c.inst id (k / 8) cores
          | _, _ => s)

/-! ## The pre-emption choice (R128, R129) -/

/-- Cycles of one microsecond (R2). -/
def usCycles : Nat := 1300

/-- The lengths of a core's level ranges multiplied, the DYNAMIC one with its own range and chunk (R128). -/
def State.iterations (s : State) (n : TaskNode) (g : Gang) (c : Nat) : Nat :=
  let k := s.core c
  let t := k.strand
  (upto n.launch.nlev).foldl (fun a l =>
    let lev := n.launch.levels.getD l (0, 0, 0)
    if lev.2.1 = 3 then a * (t.ownHi - t.ownLo + t.chunkLen)
    else
      let b := n.launch.bounds l k.rank (shapeSize g.shape) g.inst
      a * (b.2 - b.1)) 1

/-- The cycles between a core's last two PYLDs, or from the strand's start to its only one; from its restore to now where the
PYLDs were all before it (log 86). -/
def Core.pace (k : Core) (now : Nat) : Nat :=
  match k.pyldAt with
  | a :: b :: _ => a - b
  | [a] => a - k.startAt
  | [] => now - k.startAt

/-- The drain estimate over every core of the gang; none where some core has retired no PYLD (R128). -/
def State.drainEstimate (s : State) (n : TaskNode) (g : Gang) : Option Nat :=
  g.cores.foldl (fun m c =>
    let k := s.core c
    match m with
    | none => none
    | some v =>
      if k.strand.pylds = 0 then none else some (max v ((s.iterations n g c - k.strand.pylds.toNat) * k.pace s.cycle))) (some 0)

/-- The save estimate, in bytes. -/
def State.saveEstimate (s : State) (g : Gang) : Nat :=
  g.cores.foldl (fun m c => max m ((s.core c).strand.liveBytes.getD fullSize)) 0

/-- Bytes that 100 GB/s moves within `d` cycles of 1.3 GHz fit `b` bytes. -/
def bytesFit (b d : Nat) : Bool := decide (b * 13 ≤ d * 1000)

/-- Every core of a gang is asked to save, with the limit of 20 µs (R129). -/
def State.askSave (s : State) (g : Gang) : State :=
  let s := s.onGang g.id (fun g => { g with phase := .saving })
  g.cores.foldl (fun s c => s.onCore c (fun k => { k with saveAsk := true, saveBy := s.cycle + 20 * usCycles })) s

/-- Discard a gang: it stops at once and its instance waits to restart from ENTRY (R129). -/
def State.discard (s : State) (g : Gang) : State :=
  let s := s.endGang g
  let s := { s with gangs := s.gangs ++ [{ g with
    cores := [], phase := .ready, u := 0, slots := [], ranges := [], drainBy := 0, deadline := 0, fid := none }] }
  s.onNode g.fn g.q g.idx (fun n => { n with discards := n.discards + 1 })

/-- Table 8-5 for a gang with deadline `d`: `drain` allows row 1. -/
def State.preempt (s : State) (g : Gang) (d : Nat) (drain : Bool) : State :=
  match s.node g.fn g.q g.idx with
  | none => s
  | some n =>
    let fits := match s.drainEstimate n g with
      | some e => decide (e ≤ d)
      | none => false
    if drain && fits then s.onGang g.id (fun g => { g with phase := .draining, drainBy := s.cycle + d, deadline := d })
    else if bytesFit (s.saveEstimate g) d then s.askSave g
    else if n.launch.idemp then s.discard g
    else (s.onNode g.fn g.q g.idx (fun n => { n with dlmiss := n.dlmiss + 1 })).askSave g

/-- The gangs with a core in cluster `k` which no decision has reached. -/
def State.gangsIn (s : State) (k : Nat) : List Gang :=
  s.gangs.filter (fun g => decide (g.phase = .running) && g.cores.any (fun c => decide (c / 8 = k)))

/-- The deadline PDL of the cluster that decides a gang's fate: the lowest of its set (R126, R128). -/
def State.pdlOf (s : State) (g : Gang) : Nat := (s.cluster ((g.cores.headD 0) / 8)).pdl * usCycles

/-- DRAIN_DEADLINE: a gang that has not completed its drain is decided again by rows 2 to 4, against the same deadline D. -/
def execDrainDeadline (gang : Nat) (s : State) : Out :=
  .next (match s.gang gang with
    | some g => if g.phase = .draining then s.preempt g g.deadline false else s
    | none => s)

/-! ## Stride scheduling (R123, R124) -/

/-- Tickets of `f` in cluster `k`. -/
def State.tickets (s : State) (f k : Nat) : Nat := sget 0 (s.fn f).part.tickets k

/-- Whether `f` has work in cluster `k`: a ready gang that fits the cluster, or a gang resident there. -/
def State.hasWork (s : State) (k f : Nat) : Bool :=
  s.ownsCluster f k &&
    (s.cores.any (fun e => e.2.resident && decide (e.2.fn = f ∧ e.1 / 8 = k))
      || (s.candidates f).any (fun c => !(s.setsAt c k).isEmpty))

/-- The functions with work in cluster `k`. -/
def State.eligible (s : State) (k : Nat) : List Nat := (upto 64).filter (s.hasWork k)

/-- Pass of `f` in a cluster. -/
def Cluster.pass (c : Cluster) (f : Nat) : Nat := sget 0 c.passes f

/-- The least of a list of passes; 0 for none. -/
def leastPass (l : List Nat) : Nat :=
  match l with
  | [] => 0
  | a :: m => m.foldl min a

/-- Functions that gain work after having none take the least pass of those eligible before them, if theirs is less. -/
def Cluster.letIn (c : Cluster) (now : List Nat) : Cluster :=
  let old := now.filter c.hadWork.contains
  let floor := leastPass (old.map c.pass)
  { c with
    passes := (now.filter (fun f => !c.hadWork.contains f)).foldl (fun m f => sset 0 m f (max (sget 0 m f) floor)) c.passes
    hadWork := now }

/-- Functions that gain work in a cluster are let in at once (R123). -/
def State.settleWork (s : State) : State :=
  (upto 32).foldl (fun s k =>
    if s.fns.all (fun e => !bmem e.2.part.clusters k) then s
    else
      let now := s.eligible k
      if now = (s.cluster k).hadWork then s else s.onCluster k (fun c => c.letIn now)) s

/-- A reservation stands while its function has a gang of 16 to 64 cores that fits the set of its lowest cluster (R124). -/
def State.standing (s : State) (r : Nat × Nat) : Bool := (s.bigAt r.1 r.2).isSome

/-- The function a cluster selects: the one that a multi-cluster gang reserved it for since its last selection, else the
lowest pass, then the lowest number (R123, R124). -/
def Cluster.choose (c : Cluster) (now : List Nat) : Option Nat :=
  match if c.reserveDue then c.reserved else none with
  | some (f, _) => some f
  | none =>
    now.foldl (fun best f =>
      match best with
      | none => some f
      | some b => if c.pass f < c.pass b then some f else some b) none

/-- The clusters of the set of the first gang of 16 to 64 cores that the selected function places through cluster `k` are
reserved for it, until the gang starts: each selects the function at its next slice end (R124). DESIGN CHOICE (log 33): so
does the lowest one itself, which R124 does not say; without it its own slice could end before every cluster is held. -/
def State.reserve (s : State) (k f : Nat) : State :=
  match s.bigAt f k with
  | some c =>
    (upto (shapeSize c.shape / 8)).foldl (fun s i =>
      s.onCluster (k + i) (fun x => if x.reserveDue then x else { x with reserved := some (f, k), reserveDue := true })) s
  | none => s

/-- The gang that the selection of `f` in cluster `k` is for, and the cluster that it is placed through: the one that the
cluster is reserved for, else the first that it may hold. -/
def State.soughtIn (s : State) (k f : Nat) : Option (Candidate × Nat) :=
  let first := ((s.candidates f).find? (fun c => !(s.setsAt c k).isEmpty)).map (fun c => (c, k))
  match (s.cluster k).reserved with
  | some (g, k0) => if g = f then ((s.bigAt f k0).map (fun c => (c, k0))).or first else first
  | none => first

/-- Which resident gangs give way: all of another function, and those of other contexts when the context now selected
has a gang that fits no free core (R125; log 33). -/
def State.giveWay (s : State) (k f : Nat) : List Gang :=
  let others := (s.gangsIn k).filter (fun g => decide (g.fn ≠ f))
  match s.soughtIn k f with
  | some (c, k0) =>
    let mine := (s.gangsIn k).filter (fun g => decide (g.fn = f ∧ g.ctx ≠ c.ctx ∧ (s.ctx c.ctx).pass < (s.ctx g.ctx).pass))
    if (s.fitAt c k0).isSome then others else others ++ mine
  | none => others

/-- A cluster selects a function and takes back the cores of the gangs that give way. -/
def State.selectIn (s : State) (k : Nat) : State :=
  let now := s.eligible k
  let s := s.onCluster k (fun c =>
    let c := c.letIn now
    let stands := c.reserved.any s.standing
    { c with reserved := if stands then c.reserved else none, reserveDue := c.reserveDue && stands })
  match (s.cluster k).choose now with
  | none => s.onCluster k (fun c => { c with holder := none, since := s.cycle })
  | some f =>
    let s := s.onCluster k (fun c => { c with holder := some f, reserveDue := false, since := s.cycle })
    ((s.giveWay k f).foldl (fun s g => s.preempt g (s.pdlOf g) true) s).reserve k f

/-- SLICE_END: the pass of the function that held the cluster for `cycles` cycles grows, new settings apply, passed-over
gangs of the holder age, and the cluster selects; it waits while the holder's CTX_SWITCH is in progress (R94, R123, R126). -/
def execSliceEnd (die cluster cycles : Nat) (s : State) : Out :=
  let k := 8 * (die % 4) + cluster % 8
  .next (
    let c := s.cluster k
    let busy := match c.holder with
      | some f => (s.fn f).switching.isSome
      | none => false
    if busy then s
    else
      let passes := match c.holder with
        | some f =>
          let t := s.tickets f k
          if t = 0 then c.passes else sset 0 c.passes f (c.pass f + 2 ^ 20 / t * cycles / (c.slice * usCycles))
        | none => c.passes
      let s := s.onCluster k (fun c => { c with
        passes := passes, slice := s.slice, pdl := s.pdl, skipped := c.skipped.map (fun e => if some e.fn = c.holder then { e with age := e.age + 1 } else e) })
      s.selectIn k)

/-- CLUSTER_IDLE_SELECT: an idle cluster selects at once (R123). -/
def execClusterIdleSelect (die cluster : Nat) (s : State) : Out :=
  let k := 8 * (die % 4) + cluster % 8
  .next (if (s.cluster k).holder.isNone then s.selectIn k else s)

/-! ## Saves (R129, R130, R262, R266) -/

/-- The ranks of a gang that have been saved or have nothing to save. -/
def Gang.settled (g : Gang) : Bool := decide (g.slots.length = shapeSize g.shape)

/-- What the exited strand of a core leaves. -/
def Core.exitedRank (k : Core) : ExitedRank :=
  { own := (k.strand.ownLo, k.strand.ownHi), chunk := k.strand.chunkLen, pylds := k.strand.pylds, liveBytes := k.strand.liveBytes,
    pyldAt := k.pyldAt, startAt := k.startAt }

/-- Once every rank is saved the gang leaves its cores, and the range and block of each core whose strand had exited are kept
with it (R122, R146); a gang whose strands have all exited completes instead. -/
def State.finishSave (s : State) (id : Nat) : State :=
  match s.gang id with
  | none => s
  | some g =>
    if !g.settled then s
    else if g.slots.all (fun e => e.2.isNone) then
      let s := s.onGang id (fun g => { g with phase := .running, slots := [], ranges := [] })
      g.cores.foldl (fun s c => s.onCore c (fun k => { k with saveAsk := false, saveBegun := false })) s
    else
      let blocks := g.slots.filterMap (fun e => match e.2 with
        | some _ => none
        | none =>
          let c := g.cores.getD e.1 0
          some (e.1, (upto 96).map (fun i => s.sem (semKey (dieOf c) (96 * coreInDie c + i))), (s.core c).aliases))
      let ranges := g.slots.filterMap (fun e => match e.2 with
        | some _ => none
        | none => some (e.1, (s.core (g.cores.getD e.1 0)).exitedRank))
      let s := g.cores.foldl State.clearCore s
      s.onGang id (fun g => { g with phase := .saved, cores := [], ranges := ranges, blocks := blocks })

/-- What the device keeps beside a FULL slot, and its waits and transfers under the slot's own key (R55, R155). -/
def State.park (s : State) (c slot : Nat) : State :=
  let k := s.core c
  let move (a : Agent) : Agent := match a with
    | .strand d => if d = c then .parked k.ctx slot 0 else a
    | .ring d r => if d = c then .parked k.ctx slot (r + 1) else a
    | _ => a
  { s with
    parked := s.parked ++ [{ ctx := k.ctx, slot := slot, core := k }]
    faults := s.faults.map (fun r => { r with waiters := r.waiters.map move })
    fabric := { s.fabric with transfers := s.fabric.transfers.map (fun t =>
      if t.core = c then { t with core := parkKey k.ctx slot } else t) } }

/-- Every engine stops at its last committed mark; one that waits on a fault for its next word still waits (R129). -/
def State.haltEngines (s : State) (c : Nat) : State :=
  (upto 6).foldl (fun s r =>
    let s := s.onRing c r (fun g => g.focus g.rhead)
    let g := (s.core c).ring r
    let start := if r = 1 then g.rkeep else g.rhead
    match g.wait.fid with
    | some fid =>
      if g.next = start ∧ g.flight = [] then
        let waits (e : FaultRec) : Bool := decide (e.fid = fid) && e.waiters.contains (.ring c r)
        let keep := s.faults.filter waits
        let was := g.wait
        let s := (s.reloadEngine c r).onRing c r (fun g => { g with wait := was })
        { s with faults := s.faults.map (fun e =>
            if keep.any (fun x => decide (x.fid = e.fid ∧ x.owner = e.owner)) then { e with waiters := e.waiters ++ [.ring c r] } else e) }
      else s.reloadEngine c r
    | none => s.reloadEngine c r) s

/-- The lowest free slot of a context (R262). -/
def Ctx.freeSlot (x : Ctx) : Nat := ((upto x.slots).find? (fun i => !x.used.contains i)).getD 0

/-- A rank of a gang has its slot, or none where its strand has exited. -/
def State.setRank (s : State) (c : Nat) (slot : Option Nat) : State :=
  let k := s.core c
  (s.onGang k.gang (fun g => { g with slots := sput g.slots k.rank slot })).finishSave k.gang

/-- The save of core `c` is the last of its gang. -/
def State.lastToSave (s : State) (c : Nat) : Bool :=
  match s.gang (s.core c).gang with
  | some g => decide (g.slots.length + 1 = shapeSize g.shape)
  | none => false

/-- What the slots of the ranks saved before the last one take with it: the semaphores, which raises may have changed
since, the own range, of which steals may have taken a part (R402), and rank 0's U (R130, R146). -/
def State.latePieces (s : State) (g : Gang) : List (Nat × List Byte) :=
  g.slots.flatMap (fun e => match e.2 with
    | none => []
    | some slot =>
      let c := g.cores.getD e.1 0
      let va := (s.ctx g.ctx).slotVa slot
      (va + 0x900, (upto 96).flatMap (fun i => toBytes 4 (s.sem (semKey (dieOf c) (96 * coreInDie c + i))).toNat))
        :: (va + 0xC80, toBytes 8 (s.core c).strand.ownLo ++ toBytes 8 (s.core c).strand.ownHi)
        :: (if e.1 = 0 then [(va + 0xC80 + 64, toBytes 8 g.u)] else []))

/-- Write them, where the save of core `c` is its gang's last. -/
def State.writeLate (s : State) (c : Nat) : State × Option Stop :=
  match s.gang (s.core c).gang with
  | none => (s, none)
  | some g => if s.lastToSave c then State.putPieces g.fn g.ctx (s.latePieces g) s else (s, none)

/-- A save that stops at a write: it waits on the fault, or its function fails (R262). -/
def State.saveStops (s : State) (c : Nat) (e : Stop) : State :=
  let k := s.core c
  match e with
  | .walk va acc f =>
    let p := s.fault (.save c) none 0 k.fn k.ctx va acc f
    p.1.onCore c (fun k => { k with saveBegun := true, saveFid := some p.2 })
  | .integrity dpa => s.integrityFail k.fn dpa (some c)
  | _ => s.onCore c (fun k => { k with saveBegun := true })

/-- Save the strand of core `c`: its lease and its pending walks end, the slot is written, and the core waits for the
gang. A write that faults makes the save wait (R262). -/
def State.saveCore (s : State) (c : Nat) (full : Bool) : State :=
  let s := (s.abandonWalks c).endLease c
  let s := if full then s.haltEngines c else s
  let k := s.core c
  let slot := (s.ctx k.ctx).freeSlot
  let r := s.writeSlot c ((s.ctx k.ctx).slotVa slot) { full := full, pc := k.strand.pc }
  let r := match r.2 with
    | some e => (r.1, some e)
    | none => r.1.writeLate c
  match r.2 with
  | some e => r.1.saveStops c e
  | none =>
    let s := r.1.onCtx k.ctx (fun x => { x with used := x.used ++ [slot] })
    let s := if full then s.park c slot else s
    let s := { s with semWaiters := s.semWaiters.filter (fun w => decide (w.core ≠ c)) }
    (s.onStrandOf c (fun t => { t with status := .saved })).setRank c (some slot)

/-- Whether a core's save may be taken now. -/
def Core.mustSave (k : Core) : Bool := k.resident && k.saveAsk && k.saveFid.isNone && decide (k.strand.status ≠ .saved)

/-- GANG_SAVE: at a save point with every ring empty the strand is saved, LIVE where a descriptor is in force; a strand
past EXIT whose rings are empty has nothing to save (R129, R130, R388). -/
def execGangSave (core : Nat) (s : State) : Out :=
  let s := s.demandKeep core
  let k := s.core core
  .next (
    if !k.mustSave || !k.ringsEmpty || (upto 6).any (fun r => (k.ring r).pendx) then s
    else if k.strand.status = .saving then s.saveCore core k.strand.live.isNone
    else if k.strand.status = .exited then
      (match s.gang k.gang with
       | some g =>
         if (sfind g.slots k.rank).isSome then s
         else match s.writeLate core with
           | (s, none) => s.setRank core none
           | (s, some e) => s.saveStops core e
       | none => s)
    else s)

/-- SAVE_TIMEOUT: a core with no save point within 20 µs is saved with its full context. The save waits for an
outstanding AtomicOp, for a reset of an engine (R130), for an answer to a steal request that the strand has still to take
(R122), and for a word that cannot be replayed (log 35). -/
def execSaveTimeout (core : Nat) (s : State) : Out :=
  let k := s.core core
  let held := decide (k.strand.status = .waitHosts)
    || (upto 6).any (fun r => decide ((k.ring r).wait = .reset)) || !k.replayable || k.strand.reply.isSome
  .next (if !k.mustSave || held || decide (k.strand.status = .exited) then s else s.saveCore core true)

/-! ## Restores (R267) -/

/-- The fresh core of a rank of a gang. -/
def Gang.freshCore (g : Gang) (r gen now : Nat) : Core :=
  { gen := gen, resident := true, fn := g.fn, ctx := g.ctx, gang := g.id, rank := r, startAt := now }

/-- What the device kept for a slot. -/
def State.parkedAt (s : State) (x slot : Nat) : Option Parked :=
  s.parked.find? (fun p => decide (p.ctx = x ∧ p.slot = slot))

/-- The waits and transfers of a slot are core `c`'s again. -/
def State.unpark (s : State) (x slot c : Nat) : State :=
  let move (a : Agent) : Agent := match a with
    | .parked x' i u => if x' = x ∧ i = slot then (if u = 0 then .strand c else .ring c (u - 1)) else a
    | _ => a
  let mine := s.fabric.transfers.filter (fun t => decide (t.core = parkKey x slot))
  let s := { s with
    faults := s.faults.map (fun r => { r with waiters := r.waiters.map move })
    fabric := { s.fabric with transfers := s.fabric.transfers.map (fun t =>
      if t.core = parkKey x slot then { t with core := c } else t) } }
  mine.foldl (fun s t => s.resend t.xfer (fun _ => true)) s

/-- How a restored strand goes on (R180, R387; log 32): in its BAR, its queue, past its PAUSE, out of its WFE, at its
plan or its fault, or issuing. -/
def Strand.resume (t : Strand) (queued : Option Nat) (code arg : Nat) : Strand :=
  match code with
  | 1 => { t with status := .waitBar }
  | 3 => t.retired
  | 4 => t.wake (BitVec.ofNat 6 arg) 0xF
  | 5 => { t with status := .waitPlan arg }
  | 6 => { t with status := .waitFault arg, record := queued }
  | 7 => { t with status := .ended }
  | _ => { t with record := queued }.issue

/-- The dynamic state that a slot holds beside the registers. -/
def SlotImage.dynamic (i : SlotImage) (t : Strand) : Strand :=
  let w (o : Nat) : Nat := bytesAt i.head (0xC80 + o) 8
  let t := { t with ownLo := w 0, ownHi := w 8, chunkLen := w 16, barArr := w 32, pylds := BitVec.ofNat 32 (w 56),
                    latch := BitVec.ofNat 4 (w 80) }
  t.resume (if w 24 = 0 then none else some (w 24 - 1)) (w 40) (w 48)

/-- One rank of a gang is rebuilt on core `c` from its slot. -/
def State.restoreRank (s : State) (g : Gang) (r slot c : Nat) (i : SlotImage) : State :=
  let p := s.parkedAt g.ctx slot
  let gen := (s.core c).gen + 1
  let fresh := g.freshCore r gen s.cycle
  let base := match p with
    | some p => if i.kind = 2 then { p.core with rank := r, saveAsk := false, saveBegun := false, saveFid := none } else fresh
    | none => fresh
  let flags := s.takeCtxFlags g.ctx
  let s := flags.1.fillFromSlot c i base
  let s := s.onStrandOf c (fun t => i.dynamic { t with flags := t.flags ||| flags.2 })
  let s := if r = 0 then s.onGang g.id (fun g => { g with u := bytesAt i.head (0xC80 + 64) 8 }) else s
  let s := s.unpark g.ctx slot c
  let s := match p.bind Parked.event with
    | some (code, info) => (s.onStrandOf c (fun t => { t with status := .running })).trapOf c code info
    | none =>
      -- a fault wait lasts only while its fault is outstanding
      match (s.core c).strand.status with
      | .waitFault f =>
        if s.faults.any (fun e => decide (e.fid = f) && e.waiters.contains (.strand c)) then s
        else s.onStrandOf c Strand.issue
      | _ => s
  s.releaseSlot g.ctx slot

/-- A rank whose strand had exited takes a core again, with its semaphores and alias bindings (R130, R146) and what the
estimates of its gang count (R128). -/
def State.restoreExited (s : State) (g : Gang) (r c : Nat) : State :=
  let e := sget {} g.ranges r
  let k := g.freshCore r ((s.core c).gen + 1) s.cycle
  let b := (sfind g.blocks r).getD ([], [])
  let s := (upto 96).foldl (fun s i => s.semWrite (semKey (dieOf c) (96 * coreInDie c + i)) (b.1.getD i 0)) s
  s.setCore c { k with
    strand := { status := .exited, ownLo := e.own.1, ownHi := e.own.2, chunkLen := e.chunk, pylds := e.pylds, liveBytes := e.liveBytes }
    aliases := b.2, pyldAt := e.pyldAt, startAt := e.startAt }

/-- The slots of a gang's ranks, all read before any strand resumes. -/
def State.readSlots (s : State) (g : Gang) : List (Nat × Option Nat) → Chk (List (Nat × Nat × SlotImage))
  | [] => .ok []
  | (_, none) :: rest => State.readSlots s g rest
  | (r, some slot) :: rest => do
    let i ← s.readSlot g.fn g.ctx ((s.ctx g.ctx).slotVa slot)
    let l ← State.readSlots s g rest
    .ok ((r, slot, i) :: l)

/-- Rebuild every rank of a saved gang on cores. -/
def State.restoreOn (s : State) (g : Gang) (cores : List Nat) (images : List (Nat × Nat × SlotImage)) : State :=
  let s := s.onGang g.id (fun g => { g with phase := .running, cores := cores, slots := [], ranges := [], blocks := [] })
  let s := g.slots.foldl (fun s e => match e.2 with
    | none => s.restoreExited g e.1 (cores.getD e.1 0)
    | some _ => s) s
  let s := images.foldl (fun s e => s.restoreRank g e.1 e.2.1 (cores.getD e.1 0) e.2.2) s
  (s.chargeCtx g.ctx cores.length).barRelease cores

/-- GANG_RESTORE: a saved gang that is the cluster's next is restored, all or none, on the same die; a read that faults
makes the restore wait (R129, R267). -/
def execGangRestore (gang die cluster : Nat) (s : State) : Out :=
  let k := 8 * (die % 4) + cluster % 8
  .next (match s.gang gang, s.pick k with
    | some g, some (c, passed) =>
      match s.fitAt c k with
      | some cores =>
        if c.kind ≠ .saved gang then s
        else match s.readSlots g g.slots with
          | .ok images => (s.passOver k c passed).restoreOn g cores images
          | .error (.walk va acc f) =>
            let p := s.fault (.restore gang) none 0 g.fn g.ctx va acc f
            p.1.onGang gang (fun g => { g with fid := some p.2 })
          | .error (.integrity dpa) => s.integrityFail g.fn dpa none
          | .error _ => s
      | none => s
    | _, _ => s)

/-- A save or restore whose fault is answered FAIL: the gang is discarded if its node is idempotent, else the node is
FAULTED with FAILINFO 0x05 (R262). -/
def State.saveFailed (s : State) (g : Gang) : State :=
  match s.node g.fn g.q g.idx with
  | none => s
  | some n =>
    if n.launch.idemp then s.discard g
    else (s.onNode g.fn g.q g.idx (fun n => n.fail 5 5)).completeNode g.fn g.q g.idx

/-! ## The end of an instance (R131) -/

/-- Whether every strand of a gang has retired EXIT. -/
def State.allExited (s : State) (g : Gang) : Bool :=
  !g.cores.isEmpty && g.cores.all (fun c => decide ((s.core c).strand.status = .exited))

/-- INSTANCE_COMPLETE: a node that has failed completes; an instance completes once every strand has exited and every
ring is empty; the node completes with its last instance. -/
def execInstanceComplete (gang : Nat) (s : State) : Out :=
  .next (match s.gang gang with
    | none => s
    | some g =>
      match s.node g.fn g.q g.idx with
      | none => s
      | some n =>
        if n.status ≠ 0 then s.completeNode g.fn g.q g.idx
        else if !s.allExited g then s
        else
          let s := g.cores.foldl State.demandKeep s
          if g.cores.all (fun c => (s.core c).ringsEmpty) then
            let s := (s.endGang g).onNode g.fn g.q g.idx (fun n => { n with doneCount := n.doneCount + 1 })
            if n.doneCount + 1 = n.instances then s.completeNode g.fn g.q g.idx else s
          else s)

end Sys2Proof.Machine
end

