-- ==== Sys2Proof/Machine/Resets.lean ====
section
/-! DEFINITION. Engine, core and die resets (R67 to R70, R146, R158 to R163), the errors that reach the banks
(R257 to R260), and the illegal-instruction event (R272). -/

namespace Sys2Proof.Machine

/-! ## Core resets (R67 to R69) -/

/-- A reset takes a node: all of its instances stop, and it waits for the end of the reset. -/
def State.resetNode (s : State) (n : TaskNode) (m : ResetMark) : State :=
  (s.stopNode n).onNode n.fn n.q n.idx (fun n => { n with toPlace := [], reset := some m })

/-- A core reset begins (R67): the strand's node stops everywhere; the core is cleared and stays out of use. A node that
has failed already completes. -/
def State.coreReset (s : State) (c : Nat) : State :=
  if (s.core c).inReset then s
  else
    let pc := (s.core c).strand.pc
    let s := match s.nodeOf c with
      | none => s
      | some n =>
        if n.status ≠ 0 then s.completeNode n.fn n.q n.idx
        else s.resetNode n { die := false, unit := c, pc := pc }
    (s.clearCore c).onCore c (fun k => { k with inReset := true })

/-- The outcome of a node at the end of the reset that took it: an idempotent one is requeued at most 3 times and is
placed again in full, otherwise it completes with the reset's status (R67, R69). -/
def State.resetOutcome (s : State) (n : TaskNode) (m : ResetMark) : State :=
  if n.phase = .completing then s
  else if n.launch.idemp && decide (n.requeues < 3) then
    s.onNode n.fn n.q n.idx (fun n => { n with
      requeues := n.requeues + 1, doneCount := 0, toPlace := n.launch.instances, phase := .ready, reset := none })
  else
    (s.onNode n.fn n.q n.idx (fun n => { n.fail (if m.die then 2 else 1) (failInfo (if m.die then 0x24 else 0x23) m.pc) with
      reset := none })).completeNode n.fn n.q n.idx

/-- The outcomes of every node that a reset took. -/
def State.resetOutcomes (s : State) (die : Bool) (unit : Nat) : State :=
  s.nodes.foldl (fun s n =>
    match n.reset with
    | some m => if m.die = die ∧ m.unit = unit then s.resetOutcome n m else s
    | none => s) s

/-- CORE_RESET_DONE: the core is free and its node is requeued or failed; within a die reset this is the die's matter
(R67, R68). -/
def execCoreResetDone (core : Nat) (s : State) : Out :=
  .next (
    if !(s.core core).inReset || s.dieResets.any (fun e => decide (e.1 = dieOf core)) then s
    else (s.onCore core (fun k => { k with inReset := false })).resetOutcomes false core)

/-! ## Die resets (R67, R68, R70, R146) -/

/-- The cores of die `d`. -/
def coresOf (d : Nat) : List Nat := (upto 64).map (fun i => 64 * d + i)

/-- A die reset begins: every node with a gang resident on the die stops everywhere, core resets on the die are absorbed,
and its cores are out of use. -/
def State.dieReset (s : State) (d : Nat) (cid : Option (BitVec 16)) : State :=
  let s := { s with dieResets := s.dieResets ++ [(d, cid)] }
  let s := { s with nodes := s.nodes.map (fun (n : TaskNode) => match n.reset with
    | some m => if !m.die && decide (dieOf m.unit = d) then { n with reset := some { m with die := true, unit := d } } else n
    | none => n) }
  let here (n : TaskNode) : List Nat := ((s.gangsOf n).flatMap Gang.cores).filter (fun c => decide (dieOf c = d))
  let s := s.nodes.foldl (fun s' n =>
    match here n with
    | [] => s'
    | c :: _ =>
      if n.status ≠ 0 then s'.completeNode n.fn n.q n.idx
      else s'.resetNode n { die := true, unit := d, pc := (s.core c).strand.pc }) s
  (coresOf d).foldl (fun s c => (s.clearCore c).onCore c (fun k => { k with inReset := true })) s

/-- Every semaphore of a die is 0 and every alias binding to the die is cleared (R146). -/
def State.clearDieSems (s : State) (d : Nat) : State :=
  let s := s.sems.foldl (fun s e => if e.1 / 65536 = d then s.semWrite e.1 0 else s) s
  s.cores.foldl (fun s e =>
    if e.2.aliases.any (fun a => decide (field a.2 16 2 = d)) then
      s.onCore e.1 (fun k => { k with aliases := k.aliases.filter (fun a => !decide (field a.2 16 2 = d)) })
    else s) s

/-- DIE_RESET_DONE: once the die has come to its last accepted power state, or under the clamp to the clamp state, by the
transition of R21: the semaphores of the die are 0, its cores are free, its nodes are requeued or failed, and the command that asked for the reset completes (R67 to R70, R24, R146). -/
def execDieResetDone (die : Nat) (s : State) : Out :=
  let d := die % 4
  .next (
    if s.dieResets.all (fun e => decide (e.1 ≠ d)) then s
    else if !s.settled d then (if (s.pow d).phase = .steady then s.nextPower d else s)
    else
      let mine := s.dieResets.filter (fun e => decide (e.1 = d))
      let s := { s with dieResets := s.dieResets.filter (fun e => decide (e.1 ≠ d)) }
      let s := (coresOf d).foldl (fun s c => s.onCore c (fun k => { k with inReset := false })) (s.clearDieSems d)
      let s := s.resetOutcomes true d
      mine.foldl (fun s e => match e.2 with
        | some cid => s.postAdm 0 cid.toNat 0 0 0
        | none => s) s)

/-- ARBITER_ALARM: an alarm of the die's Arbiter is recorded and resets the die (R67, R257). DESIGN CHOICE (log 95): the
record has KIND 4, UNIT 0, FN 0 and ADDR 0. -/
def execArbiterAlarm (die : Nat) (s : State) : Out :=
  .next ((s.bankError (die % 4) 5 { cause := 0x24, kind := 4, unit := 0, fn := 0, addr := 0 } true).dieReset (die % 4) none)

/-! ## Engine resets (R158 to R163) -/

/-- A core reset that the Arbiter takes of itself: its record stands in the core's cluster bank before the strand stops
(R160, R162, R257). DESIGN CHOICE (log 95): the record has KIND 4 and ADDR 0. -/
def State.coreFault (s : State) (c : Nat) : State :=
  if (s.core c).inReset then s
  else
    let e : ErrorReport := { cause := 0x23, kind := 4, unit := BitVec.ofNat 16 (coreInDie c),
                             fn := BitVec.ofNat 6 (s.core c).fn, addr := 0 }
    (s.bankError (dieOf c) (6 + coreInDie c / 8) e true).coreReset c

/-- The Arbiter resets the engine of ring `r`; `counts` for every cause but a rolling reset. A cause during a reset is
absorbed; the third counted reset of one word, or one that meets a non-replayable vector word, resets the core (R160 to
R162). -/
def State.resetEngine (s : State) (c r : Nat) (counts : Bool) : State :=
  let k := s.core c
  let g := k.ring r
  if !k.resident || k.inReset || decide (g.wait = .reset) || decide (k.strand.status = .saved) then s
  else if counts && (!g.replayable || decide (2 ≤ g.resets)) then s.coreFault c
  else (s.reloadEngine c r).onRing c r (fun g => { g with
    wait := .reset, roll := false, resets := if counts then g.resets + 1 else g.resets })

/-! ## Resets of stack agents (R378) -/

/-- The stack agent that a `ring` of 6 or more names: number 4 × stack + unit of the core's die (log 95). -/
def agentKey (core ring : Nat) : Nat := 16 * dieOf core + (ring - 6) % 16

/-- What agent `key` cached for the rings is gone (R393). -/
def State.dropCached (s : State) (key : Nat) : State :=
  s.cores.foldl (fun s e => (upto 4).foldl (fun s i =>
    if (((s.core e.1).ring (i + 2)).cache).any (fun v => decide (v.agent = some key)) then
      s.onRing e.1 (i + 2) (fun g => { g with cache := g.cache.filter (fun v => decide (v.agent ≠ some key)) })
    else s) s) s

/-- A word in progress at an agent starts again from its mark: its record is read again, its await stays taken (R378). A
counted reset of the word at RHEAD counts there (R162). -/
def Ring.restartWord (g : Ring) (n : BitVec 32) (counts : Bool) : Ring :=
  { g.onJobs (fun j => if j.seq = n then { seq := n } else j) with
    resets := if counts && decide (n = g.rhead ∧ g.resets < 3) then g.resets + 1 else g.resets }

/-- The Arbiter resets agent `key`: its words in progress start again from their marks, those that wait for it still wait,
and the third counted reset of one word resets its core (R162, R163, R378). -/
def State.resetAgent (s : State) (key : Nat) (counts : Bool) : State :=
  let live := s.inAgent key
  let third := live.filter (fun h => let g := (s.core h.core).ring h.ring; counts && decide (h.seq = g.rhead ∧ 2 ≤ g.resets))
  let t := live.foldl (fun s h => s.onRing h.core h.ring (fun g => g.restartWord h.seq counts)) (s.dropCached key)
  let t := if (sget {} t.agents key).roll then
      { t with agents := sset {} t.agents key { sget {} t.agents key with roll := false } }
    else t
  third.foldl (fun s h => s.coreFault h.core) t

/-- A wait in which an engine makes no progress by right (R161). -/
def EngWait.excused (w : EngWait) : Bool :=
  match w with
  | .await | .pipe | .held | .fault _ | .nodeFault _ => true
  | _ => false

/-- Whether agent `key` has a word in progress that waits on nothing of the kind. -/
def State.agentStuck (s : State) (key : Nat) : Bool :=
  (s.inAgent key).any (fun h => ((s.core h.core).ring h.ring).allJobs.any (fun j => decide (j.seq = h.seq) && !j.wait.excused))

/-- A cause of Table 9-8 at the engine of ring `ring`, or at the stack agent that a `ring` of 6 or more names. -/
def State.resetUnit (s : State) (core ring : Nat) (counts : Bool) : State :=
  if ring < 6 then s.resetEngine core ring counts else s.resetAgent (agentKey core ring) counts

/-- WATCHDOG_EXPIRY: the ring is not empty and its engine waits on no await, pipe, fault or held write (R161). -/
def execWatchdogExpiry (core ring : Nat) (s : State) : Out :=
  let g := (s.core core).ring ring
  let held := if ring < 6 then g.empty || g.allJobs.all (fun j => j.wait.excused) else !s.agentStuck (agentKey core ring)
  .next (if held then s else s.resetUnit core ring true)

/-- PARITY_ERROR: an error in an engine's control logic (R161). -/
def execParityError (core ring : Nat) (s : State) : Out := .next (s.resetUnit core ring true)

/-- PROTOCOL_ALARM: inconsistent ring registers or engine state (R161). -/
def execProtocolAlarm (core ring : Nat) (s : State) : Out := .next (s.resetUnit core ring true)

/-- STRIKE_REPORT: a strike resets the struck engine; on storage under ECC it is corrected in place (R159). -/
def execStrikeReport (core : Nat) (unit : StruckUnit) (s : State) : Out :=
  .next (match unit with
    | .vector => s.resetEngine core 0 true
    | .matrix => s.resetEngine core 1 true
    | .protectedStorage => s)

/-- Whether the engine of ring `r` is at a boundary of R163: an empty ring, else for V and C a point between words, for
V with none unconfirmed, and for M the end of a commit. -/
def Core.boundary (k : Core) (r : Nat) : Bool :=
  let g := k.ring r
  g.empty || (g.flight.isEmpty && g.jobs.isEmpty && decide (g.wait = .none) && (if r = 1 then g.atCommit else !g.begun))

/-- ROLLING_RESET: at its turn an engine is reset at its next boundary; no work is lost and nothing is counted (R163).
A `ring` of 6 or more is the turn of a stack agent: it is reset between two words, and the words that wait for it still
wait. -/
def execRollingReset (core ring : Nat) (s : State) : Out :=
  let r := ring
  .next (
    if 6 ≤ r then
      (let key := agentKey core r
       if (s.inAgent key).isEmpty then s.resetAgent key false
       else { s with agents := sset {} s.agents key { sget {} s.agents key with roll := true } })
    else if !(s.core core).resident then s
    else if (s.core core).boundary r then s.resetEngine core r false
    else s.onRing core r (fun g => { g with roll := true }))

/-- ENGINE_RESET_DONE: the engine, reloaded, runs its retained words again from their marks (R158, R161). -/
def execEngineResetDone (core ring : Nat) (s : State) : Out :=
  .next (
    if ((s.core core).ring (ring % 6)).wait = .reset then s.onRing core (ring % 6) (fun g => { g with wait := .none }) else s)

/-! ## Errors (R257 to R260) -/

/-- CORRECTED_ERROR: the bank takes it, and nothing else changes (R260). -/
def execCorrectedError (die bank : Nat) (err : ErrorReport) (s : State) : Out :=
  .next (s.bankError (die % 4) (bank % 16) err false)

/-- What an uncorrectable error does after its record is written (R67, R106, R257): `c` is the core that a record of
kinds 1 to 4 names. -/
def State.uncorrected (s : State) (d : Nat) (e : ErrorReport) (c : Nat) : State :=
  let atCore := decide (1 ≤ e.kind.toNat ∧ e.kind.toNat ≤ 4)
  let who := if atCore then some c else none
  match e.cause.toNat with
  | 0x23 => s.coreReset c
  | 0x24 => s.dieReset d none
  | 0x21 =>
    -- the failing line is poisoned (R107)
    let s := if e.kind = 7 ∨ e.kind = 8 ∨ e.kind = 12 then s.poisonAll (s.failing (e.addr.toNat / 64)) else s
    s.failFunction e.fn.toNat 0x21 who
  | 0x20 =>
    if e.kind = 6 ∨ e.kind = 9 then s.dieReset d none
    else if atCore then
      let s' := if (s.core c).resident then s.failContext (s.core c).ctx 0x20 who else s
      if e.kind = 3 then s'.coreReset c else s'
    else s.failFunction e.fn.toNat 0x20 none
  | 0x22 => if (s.core c).resident then s.failContext (s.core c).ctx 0x22 who else s
  | _ => s

/-- UNCORRECTABLE_ERROR: recorded with event 8, and the machine fault of its cause (R257, R258). -/
def execUncorrectableError (die bank : Nat) (err : ErrorReport) (s : State) : Out :=
  let d := die % 4
  .next ((s.bankError d (bank % 16) err true).uncorrected d err (64 * d + err.unit.toNat % 64))

/-- ERROR_BANK_STATUS_READ: the record is read; the STATUS word is answered (R259). -/
def execErrorBankStatusRead (die bank : Nat) (s : State) : Out :=
  let k := 16 * (die % 4) + bank % 16
  .next { s with
    answer := toBytes 8 (s.bankStatus k)
    banks := sset {} s.banks k { sget {} s.banks k with read := (sget {} s.banks k).valid } }

/-- Clear the record and both counts of bank `k` = 16 × die + bank (R259). -/
def State.clearBank (s : State) (k : Nat) : State := { s with banks := serase s.banks k }

/-- ERROR_BANK_CLEAR: the record and both counts are cleared (R259). -/
def execErrorBankClear (die bank : Nat) (s : State) : Out := .next (s.clearBank (16 * (die % 4) + bank % 16))

/-! ## The illegal-instruction event (R272) -/

/-- ILLEGAL_INSTRUCTION: the strand takes 0x01 with the word. -/
def execIllegalInstruction (word : BitVec 32) (s : State) : Out := .next (s.trap 1 word.toNat)

end Sys2Proof.Machine
end

