-- ==== Sys2Proof/Machine/Start.lean ====
section
/-! DEFINITION. Package resets and starts (R59 to R64, R67, R71, R95), function-level resets (R41, R55, R92, R94), and
the change of a die-to-die route (R16, R17). -/

namespace Sys2Proof.Machine

/-! ## Package resets (R67, R71) -/

/-- The host address of a node's completion record, where its page is a host page (R71). -/
def State.hostRecord (s : State) (n : TaskNode) : Option Nat :=
  if n.launch.crVa = 0 then none
  else match walk s n.fn n.launch.ctx n.launch.crVa .write with
    | .ok t => if t.mtype = .dev then none else some (t.at n.launch.crVa)
    | .error _ => none

/-- What outlives a package reset of the ports: their retirement. -/
def Fabric.afterReset (f : Fabric) : Fabric :=
  { ports := (f.ports.filter (fun e => e.2.retired)).map (fun e => (e.1, { retired := true })) }

/-- A package reset: everything in flight is lost and every register takes its reset value. The always-on domain keeps
its journal, digest and calibration; host memory, retired units and what has been signalled to the host stay. -/
def State.packageReset (s : State) : State :=
  let lost := s.nodes.map (fun n => (n, s.hostRecord n))
  { State.reset with
    config := { s.config with journal := s.config.journal ++ lost }
    start := { State.reset.start with forceCold := s.start.forceCold }
    hostMem := s.hostMem
    retiredClusters := s.retiredClusters
    retiredGroups := s.retiredGroups
    retiredAgents := s.retiredAgents
    reroutedLinks := s.reroutedLinks ++ s.movingLinks
    fabric := s.fabric.afterReset
    msix := s.msix, answer := s.answer, answerStatus := s.answerStatus
    cycle := s.cycle, tick := s.tick, inputs := s.inputs, actor := s.actor }

/-- SUPPLY_LOSS: a package reset; without the always-on domain the journal, the digest and the calibration are gone
(R24, R71). -/
def execSupplyLoss (alwaysOnLost : Bool) (s : State) : Out :=
  let s := s.packageReset
  .next (
    if alwaysOnLost then
      { s with
        config := { s.config with journal := [], digest := none, calibrated := false, frames := [] }
        start := { s.start with forceCold := false } }
    else s)

/-- JUNCTION_POWER_REMOVAL: above 120 °C the management controller removes power, a package reset (R23). -/
def execJunctionPowerRemoval (s : State) : Out := .next s.packageReset

/-! ## Starts (R59 to R62) -/

/-- A start of one kind begins at step 1; one in progress is abandoned (R62). -/
def State.beginStart (s : State) (warm : Bool) : State :=
  let s := s.packageReset
  { s with start := { step := 1, warm := warm, loaded := s.tick } }

/-- COLD_START (R59). -/
def execColdStart (s : State) : Out := .next (s.beginStart false)

/-- WARM_START: forced to be cold after a digest mismatch (R59, R61). -/
def execWarmStart (s : State) : Out := .next (s.beginStart (!s.start.forceCold))

/-- START as a word (Table 5-2). -/
def Start.word (t : Start) : Nat :=
  t.step + 8 * t.done.toNat + 16 * t.fail.toNat + 32 * t.warm.toNat + 64 * t.forceCold.toNat + 256 * t.code + 65536 * t.ports.toNat

/-- What the host reads at an address of the serial management bus: START at 0x10 (R62). -/
def State.managementRead (s : State) (addr : Nat) : Option Nat := if addr = 0x10 then some s.start.word else none

/-! ### The configuration record (R63, R64, Table 5-3) -/

/-- Fields of the record. -/
def recSerial (r : List Byte) : Word := BitVec.ofNat 64 (bytesAt r 0 8)
def recSvn (r : List Byte) : BitVec 32 := BitVec.ofNat 32 (bytesAt r 8 4)
def recOptions (r : List Byte) : BitVec 32 := BitVec.ofNat 32 (bytesAt r 12 4)
def recFloor (r : List Byte) (d : Nat) : Nat := bytesAt r (16 + 2 * d) 2

/-- The bits of harvest group `g`, and how many logical units it presents: 8 of a cluster's 9 cores, 64 of a die's 72
slices, 12 of a stack's 14 pseudo-channel groups. -/
def harvestGroup (r : List Byte) (g : Nat) : Nat × Nat :=
  if g < 32 then (nbits (bytesAt r (24 + 64 * (g / 8)) 9) (9 * (g % 8)) 9, 8)
  else if g < 36 then (bytesAt r (24 + 64 * (g - 32) + 9) 9, 64)
  else (nbits (bytesAt r (24 + 64 * ((g - 36) / 4) + 18) 7) (14 * ((g - 36) % 4)) 14, 12)

/-- Harvest groups of the package. -/
def harvestGroups : List Nat := upto 52

/-- The physical units of a harvest group, lowest first: the i-th is logical unit i, those past the logical count are
spares (R64). -/
def physicalUnits (bits : Nat) : List Nat := (upto 72).filter (nbit bits)

/-- The CODE that a record ends the start with, or none where it is valid (R63): 3 for a bad signature, another module's
serial or a harvest group below its logical count, 4 for a version below the minimum. -/
def recordCode (minSvn : BitVec 32) (r : List Byte) : Option Nat :=
  if !Sys2Proof.Config.slhVerify Sys2Proof.Config.romKey (r.take 280) ((r.drop 280).take 16224) then some 3
  else if recSerial r ≠ Sys2Proof.Config.controllerSerial then some 3
  else if recSvn r < minSvn then some 4
  else if harvestGroups.any (fun g => decide ((physicalUnits (harvestGroup r g).1).length < (harvestGroup r g).2)) then some 3
  else none

/-- Step 4 applies the configuration record; a cold start raises the stored minimum version to SVN (R63). -/
def Config.applyRecord (c : Config) (warm : Bool) (r : List Byte) : Config :=
  { c with
    record := r.take 280
    serial := recSerial r
    svn := recSvn r
    minSvn := if !warm && decide (c.minSvn < recSvn r) then recSvn r else c.minSvn
    fabricOn := (recOptions r).getLsbD 0
    tier2On := (recOptions r).getLsbD 1
    floors := (upto 4).foldl (fun m d => sset 0 m d (recFloor r d)) []
    units := harvestGroups.map (fun g => (g, (physicalUnits (harvestGroup r g).1).take (harvestGroup r g).2)) }

/-- Units with each faulty one replaced by the next spare that is not; none where no spare is left (R64). -/
def replaceFaulty (bad : Nat → Bool) : List Nat → List Nat → Option (List Nat)
  | [], _ => some []
  | u :: us, spares =>
    if bad u then
      match spares with
      | [] => none
      | p :: ps => (replaceFaulty bad us ps).map (p :: ·)
    else (replaceFaulty bad us spares).map (u :: ·)

/-- The units of every harvest group after the scan self-test, or none where a group runs out of spares (R64). -/
def State.scanned (s : State) : Option (Sparse (List Nat)) :=
  harvestGroups.foldr (fun g acc =>
    let h := harvestGroup s.config.record g
    let bad (u : Nat) : Bool := Sys2Proof.Config.scanFails s.tick g u
    let all := physicalUnits h.1
    match acc, replaceFaulty bad (all.take h.2) ((all.drop h.2).filter (fun u => !bad u)) with
    | some l, some us => some ((g, us) :: l)
    | _, _ => none) (some [])

/-! ### Training (R18, R19, R100) -/

/-- The frames that a second-tier device of `c` bytes presents: none above 2 TiB (R19, R100). -/
def framesOf (c : Nat) : Nat := if 2 ^ 41 < c then 0 else (c - 2 ^ 30) / (2 ^ 21 + 2 ^ 18 + 2 ^ 13)

/-- The frames that the second-tier ports present when a cold start trains them (R19, R100). -/
def trainedFrames (tick : Nat) (on : Bool) : Sparse Nat :=
  if on then (upto 4).foldl (fun m p =>
      if bmem (Sys2Proof.Config.portsAbsent tick) p then m else sset 0 m p (framesOf (Sys2Proof.Config.portBytes tick p))) []
  else []

/-- PORTS: the second-tier ports that are absent: those that present no frame. DESIGN CHOICE (log 89): a port of a disabled
second tier, and one whose device is too small for a frame, are absent too; R19 names the link that does not train and
the device above 2 TiB. -/
def portsOf (frames : Sparse Nat) : BitVec 4 :=
  (upto 4).foldl (fun m p => if sget 0 frames p = 0 then bset m p else m) 0

/-- The pseudo-channel groups with a channel that a cold start does not train (R18). -/
def State.untrained (s : State) : BitVec 192 :=
  (upto 192).foldl (fun m g =>
    let u := (sget [] s.config.units (36 + g / 12)).getD (g % 12) (g % 12)
    if (upto 16).any (fun c => Sys2Proof.Config.channelFails s.tick (g / 12) (16 * u + c)) then bset m g else m) 0

/-! ### The steps (Table 5-1) -/

/-- The CODE that step `n` of the start ends with, or none where it succeeds (R61, Table 5-2). What a step finds in the
hardware comes with its end: too few links or ports in step 5, a failed scan in step 6. -/
def State.stepCode (s : State) (n : Nat) (o : StartOutcome) : Option Nat :=
  let image := Sys2Proof.Config.firmware s.start.loaded
  match n with
  | 2 =>
    if s.start.warm then (if s.config.digest = some (sha256 image) then none else some 2)
    else if Sys2Proof.Config.slhVerify Sys2Proof.Config.romKey image (Sys2Proof.Config.firmwareSig s.start.loaded) then none else some 1
  | 4 => recordCode s.config.minSvn (Sys2Proof.Config.configRecord s.tick)
  | 5 => if o = .insufficient then some 5 else none
  | 6 => if o = .scanFailure then some 6 else if s.scanned.isNone then some 5 else none
  | _ => none

/-- The effect of start step `n` (Table 5-1). CYCLE counts from the end of step 7 (Table 15-4). -/
def State.startStep (s : State) (n : Nat) : State :=
  let cold := !s.start.warm
  match n with
  | 2 => if cold then { s with config := { s.config with digest := some (sha256 (Sys2Proof.Config.firmware s.start.loaded)) } } else s
  | 3 => { s with config := { s.config with
      identity := (upto 4).map (fun d => (d, sha256 (Sys2Proof.Config.pufResponse d))) } }
  | 4 => { s with config := s.config.applyRecord s.start.warm (Sys2Proof.Config.configRecord s.tick) }
  | 5 =>
    let frames := if cold then trainedFrames s.tick s.config.tier2On else s.config.frames
    { s with
      config := { s.config with calibrated := true, frames := frames }
      retiredGroups := if cold then s.retiredGroups ||| s.untrained else s.retiredGroups
      start := { s.start with ports := if s.config.tier2On then portsOf frames else 15 } }
  | 6 => { s with config := { s.config with units := s.scanned.getD s.config.units } }
  | 7 => { s with
      keys := [(0, Sys2Proof.Config.randomKey s.tick)], poison := [], broken := [], counters := [], mem := [], lines := []
      cycle := 0, start := { s.start with done := true } }
  | _ => s

/-- The step after step `n` (Table 5-1). -/
def nextStep (warm : Bool) (n : Nat) : Nat := if warm && decide (n = 5) then 7 else min 7 (n + 1)

/-- Whether every die stands in P0 with no clamp (R24). -/
def State.allP0 (s : State) : Bool :=
  (upto 4).all (fun d => decide ((s.pow d).phase = .steady ∧ (s.pow d).cur = 0) && !(s.pow d).clamp)

/-- Every die is sent to P0, by the transition of R21. -/
def State.toP0 (s : State) : State :=
  (upto 4).foldl (fun (s : State) d =>
    let s := s.onPow d (fun p => { p with clamp := false, req := 0 })
    if (s.pow d).phase = .steady then s.nextPower d else s) s

/-- START_STEP_DONE: the step takes effect and the next begins; after step 7 the start is complete; a failure ends it and
is recorded, and a digest mismatch makes the next start cold (R59, R61). Step 7 ends only with every die in P0 (R24): one that
a clamp has moved goes there first (R21). DESIGN CHOICE (log 89): that clamp is dropped without event 2. -/
def execStartStepDone (outcome : StartOutcome) (s : State) : Out :=
  let st := s.start
  .next (
    if st.step = 0 ∨ st.done ∨ st.fail then s
    else if decide (st.step = 7) && !s.allP0 then s.toP0
    else match s.stepCode st.step outcome with
      | some code => { s with start := { st with fail := true, code := code, forceCold := st.forceCold || decide (code = 2) } }
      | none =>
        let s := s.startStep st.step
        { s with start := { s.start with step := nextStep st.warm st.step } })

/-! ## Routes between dies (R16, R17) -/

/-- The dies of each request between two dies that is outstanding: a fill that a core waits for (R177), and a word that waits
for a stack agent or is in progress there (R74). -/
def State.requests (s : State) : List (Nat × Nat) :=
  s.lines.flatMap (fun e => e.2.l1.filterMap (fun x => if s.cycle < x.fillBy then some (dieOf x.core, keyHome e.1) else none))
    ++ s.agents.flatMap (fun a => a.2.waiting.map (fun w => (dieOf w.1, a.1 / 16)) ++ a.2.holds.map (fun h => (dieOf h.core, a.1 / 16)))

/-- Whether a request is outstanding on a route over the link between two dies (R17). -/
def State.routeBusy (s : State) (e : Nat × Nat) : Bool :=
  s.requests.any (fun r =>
    let way := s.route r.1 r.2
    (way.zip way.tail).any (fun h => decide (h = e ∨ h = (e.2, e.1))))

/-- The traffic of retired links moves where no request is outstanding on a route over them (R17). -/
def State.settleRoutes (s : State) : State :=
  s.movingLinks.foldl (fun (s : State) e =>
    if s.routeBusy e then s
    else { s with movingLinks := s.movingLinks.erase e, reroutedLinks := s.reroutedLinks ++ [e] }) s

/-- ROUTE_CHANGE: the link between two dies is retired; once no request is outstanding on a route over it, its traffic takes
the other routes. -/
def execRouteChange (die0 die1 : Nat) (s : State) : Out :=
  let e := (die0 % 4, die1 % 4)
  .next (if s.linkUp e.1 e.2 && !(s.movingLinks.contains e || s.movingLinks.contains (e.2, e.1))
    then ({ s with movingLinks := s.movingLinks ++ [e] } : State).settleRoutes else s)

/-! ## Function-level resets (R41, R55, R92, R94) -/

/-- The fabric holds nothing more that VF `f` sends: its flits and packets that wait in this package, the credits of its tag
and its transfers (R41). What other functions' regions hold of its transfers within this package goes with them; the answers that
its regions owe to others stay (log 31). DESIGN CHOICE (log 31): each credit of
the tag goes back to what a port first grants, though flits sent before may still be on their way. -/
def Fabric.purge (g : Fabric) (f : Nat) : Fabric :=
  { g with
    ports := g.ports.map (fun e => (e.1, { e.2 with
      txq := e.2.txq.filter (fun x => decide (x.flit.type ≠ 0 ∨ x.flit.vftag ≠ f ∨ x.flit.vc = 5))
      credits := e.2.credits.filter (fun c => decide (c.1 % 64 ≠ f)) }))
    rx := g.rx.filter (fun p => decide (p.port ≠ localPort ∨ p.vftag ≠ f ∨ p.vc = 5))
    held := g.held.filter (fun p => decide (p.port ≠ localPort ∨ p.vftag ≠ f ∨ p.vc = 5))
    incoming := g.incoming.filter (fun i => !(decide (i.peer = g.peer) && g.transfers.any (fun t => decide (t.fn = f ∧ t.xfer = i.xfer))))
    transfers := g.transfers.filter (fun t => decide (t.fn ≠ f)) }

/-- The packets for function `f` that wait in their buffers, to be checked again. -/
def State.heldPackets (s : State) (f : Nat) : List RxPacket :=
  ((s.faults.filter (fun r => decide (r.fn = f))).flatMap (fun r => r.waiters.filterMap (fun a => match a with
    | .packet p => some { p with entry := none }
    | _ => none)))
    ++ (s.fabric.held.filter (fun p => decide (field p.pkt.dstFn 0 6 = f))).map (fun p => { p with entry := none })

/-- The faults of function `f` are discarded, and answers to them are ignored (R55); packets that waited on them go back
to be checked again. -/
def State.dropFaults (s : State) (f : Nat) : State :=
  let mine := s.faults.filter (fun r => decide (r.fn = f))
  let held := s.heldPackets f
  let s := s.onFabric (fun g => { g with
    rx := g.rx ++ held, held := g.held.filter (fun p => decide (field p.pkt.dstFn 0 6 ≠ f)) })
  mine.foldl (fun s r => s.onFn r.owner (fun x => { x with dropped := x.dropped ++ [r.fid] }))
    { s with faults := s.faults.filter (fun r => decide (r.fn ≠ f)) }

/-- Every context of function `f` is gone, with its nodes, gangs and what was parked; nothing is reported. -/
def State.dropContexts (s : State) (f : Nat) : State :=
  let s := (s.gangs.filter (fun g => decide (g.fn = f))).foldl State.endGang s
  let s := s.onClusters (fun c => { c with skipped := c.skipped.filter (fun x => decide (x.fn ≠ f)) })
  let mine := (s.ctxs.filter (fun e => decide (e.2.fn = f))).map Prod.fst
  { s with
    nodes := s.nodes.filter (fun n => decide (n.fn ≠ f))
    ctxs := s.ctxs.filter (fun e => decide (e.2.fn ≠ f))
    parked := s.parked.filter (fun p => !mine.contains p.ctx) }

/-- What a function-level reset leaves of a function: the partition, the guest-die table and what else the hypervisor
set; its queues, exports, slots and held decrements are at their reset values (R92). -/
def Fn.afterReset (x : Fn) : Fn :=
  { x with msixPend := 0, queues := [], exports := [], redSlots := [], decs := [], switching := none, msixTab := [] }

/-- FUNCTION_LEVEL_RESET of a VF. -/
def execFunctionLevelReset (fn : Nat) (s : State) : Out :=
  .next (
    if fn = 0 ∨ 63 < fn then s
    else
      let s := s.onFabric (fun g => g.purge fn)
      let s := s.dropWaits (fun a => match a with
        | .packet p => decide (p.port = localPort ∧ p.vftag = fn ∧ p.vc ≠ 5)
        | _ => false)
      let s := (s.purgeSlots fn (fun _ => true)).purgeIncoming fn
      let s := (s.dropContexts fn).dropFaults fn
      let s := s.evictWhere (fun k c => decide (c.fn = fn) && keyDev k && (s.windowOf (frameOf (keyPa k))).isSome)
      { (s.onFn fn Fn.afterReset) with pending := s.pending.filter (fun p => decide (p.cmd.fn ≠ fn)) })

end Sys2Proof.Machine
end

