-- ==== Sys2Proof/Machine/HostQueue.lean ====
section
/-! DEFINITION. What the host does to a function's control page: queue blocks and doorbells (R46 to R49), answers to
faults (R53 to R55), the registers of Table 4-2 (R4, R43), and the ring blocks of a core (R138). -/

namespace Sys2Proof.Machine

/-! ## Queue control (R46, R47, R71) -/

/-- Whether a queue block's fields allow it to be enabled (R47). -/
def State.queueOk (s : State) (f q : Nat) (b : Queue) : Bool :=
  decide (b.log2sz.toNat ≤ 12 ∧ field b.base 0 12 = 0)
    && (q < 4 || ((s.ctx b.ctx.toNat).live && decide ((s.ctx b.ctx.toNat).fn = f)))

/-- One journalled node is reported: its completion record where it lies on a host page, and a CQ entry (R71). -/
def State.reportLost (s : State) (e : TaskNode × Option Nat) : State :=
  let n := e.1
  let s := match e.2 with
    | some a => { s with hostMem := mwrite s.hostMem a (({ n with status := 3, failInfo := 0 } : TaskNode).record s.cycle) }
    | none => s
  s.post n.fn 2 (cqEntry n.idx n.q 1 n.launch.ctx 3 n.launch.crVa)

/-- The nodes of function `f` that a package reset lost are reported when its CQ is enabled (R71). -/
def State.reportJournal (s : State) (f : Nat) : State :=
  let mine := s.config.journal.filter (fun e => decide (e.1.fn = f))
  mine.foldl State.reportLost { s with
    config := { s.config with journal := s.config.journal.filter (fun e => decide (e.1.fn ≠ f)) } }

/-- The fields of +0x08 that a write sets while EN = 0 (Table 4-3). -/
def Queue.fields (b : Queue) (q : Nat) (v : BitVec 64) : Queue :=
  { b with log2sz := v.extractLsb' 1 4
           ctx := if q < 4 then 0 else v.extractLsb' 16 12
           prio := if q < 4 then 0 else v.extractLsb' 28 4 }

/-- A write to +0x08 of queue `q` (R47). -/
def State.queueControl (s : State) (f q : Nat) (v : BitVec 64) : State :=
  let b := s.queue f q
  if b.en then (if v.getLsbD 0 then s else s.onQueue f q (fun b => { b with en := false }))
  else
    let s := s.onQueue f q (fun b => b.fields q v)
    if !v.getLsbD 0 then s
    else if !s.queueOk f q (s.queue f q) then s.onQueue f q (fun b => { b with err := true })
    else
      let s := s.onQueue f q (fun b => { b with en := true, host := 0, dev := 0, pass := true })
      let s := if q = 2 then s.reportJournal f else s
      if 1 ≤ q ∧ q ≤ 3 then s.flush f q else s

/-- QUEUE_ENABLE: a write that sets EN (R47). -/
def execQueueEnable (fn : Nat) (q : QueueId) (value : BitVec 64) (s : State) : Out :=
  .next (s.queueControl fn (queueNum q) (value ||| 1))

/-- QUEUE_DISABLE: a write that clears EN; DEVIDX and what has been fetched stay (R47). -/
def execQueueDisable (fn : Nat) (q : QueueId) (value : BitVec 64) (s : State) : Out :=
  .next (s.queueControl fn (queueNum q) (value &&& ~~~ 1))

/-- Whether a doorbell value is refused (R48). -/
def Queue.refuses (b : Queue) (report : Bool) (v : Nat) : Bool :=
  !b.en || decide (b.size ≤ v)
    || (report && decide ((b.dev + b.size - b.host) % b.size < (v + b.size - b.host) % b.size))

/-- QUEUE_DOORBELL: the host's new index, or ERR and event 4; space in a report queue takes what it held (R48, R49). -/
def State.doorbell (s : State) (f q v : Nat) : State :=
  let report := decide (1 ≤ q ∧ q ≤ 3)
  if (s.queue f q).refuses report v then
    (s.onQueue f q (fun b => { b with err := true })).event f 4 (queueOff q)
  else
    let s := s.onQueue f q (fun b => { b with host := v })
    if report then s.flush f q else s

/-- QUEUE_DOORBELL. -/
def execQueueDoorbell (fn : Nat) (q : QueueId) (value : BitVec 32) (s : State) : Out :=
  .next (s.doorbell fn (queueNum q) value.toNat)

/-- The status word of a queue block (Table 4-3). -/
def Queue.status (b : Queue) : Nat := b.dev % 65536 + b.err.toNat * 2 ^ 16 + b.ovf.toNat * 2 ^ 17

/-- The word at offset `o` of a queue block; the doorbell reads zero (Table 4-3). -/
def Queue.word (b : Queue) (o : Nat) : Nat :=
  if o = 0 then b.base.toNat
  else if o = 8 then b.en.toNat + b.log2sz.toNat * 2 + b.ctx.toNat * 2 ^ 16 + b.prio.toNat * 2 ^ 28
  else if o = 24 then b.status
  else 0

/-- QUEUE_STATUS_READ: the read clears ERR and OVF (R46). -/
def execQueueStatusRead (fn : Nat) (q : QueueId) (s : State) : Out :=
  let n := queueNum q
  .next ({ s with answer := toBytes 8 (s.queue fn n).status }.onQueue fn n (fun b => { b with err := false, ovf := false }))

/-! ## Answers to faults (R54, R55) -/

/-- Change what the device keeps of a parked strand. -/
def State.onParked (s : State) (x slot : Nat) (g : Parked → Parked) : State :=
  { s with parked := s.parked.map (fun p => if p.ctx = x ∧ p.slot = slot then g p else p) }

/-- Change the wait of a ring of a parked strand. -/
def Parked.ringWait (p : Parked) (u : Nat) (w : EngWait) : Parked :=
  { p with core := p.core.setRing (u - 1) { p.core.ring (u - 1) with wait := w } }

/-- An agent walks again after RETRY. -/
def State.retryAgent (s : State) (fid : Nat) (a : Agent) : State :=
  match a with
  | .strand c => s.onStrandOf c Strand.issue
  | .handle c h => s.onStrandOf c (fun t => { t with handles := sset {} t.handles h { sget {} t.handles h with fid := none } })
  | .ring c r => s.onRing c r (fun g => g.onFault fid (fun _ => .none))
  | .packet p => s.onFabric (fun g => { g with rx := g.rx ++ [p] })
  | .slot f region n => match s.redSlot f region n with
    | some r => s.putSlot f { r with fid := none }
    | none => s
  | .node f q idx => (s.onNode f q idx (fun n => if n.fid = some fid then { n with fid := none } else n)).settleNodes
  | .save c => s.onCore c (fun k => { k with saveFid := none })
  | .restore g => s.onGang g (fun x => { x with fid := none })
  | .parked x slot u => if u = 0 then s else s.onParked x slot (fun p => p.ringWait u .none)

/-- The completion of a node goes on after a FAIL: a status that was OK becomes FAULTED with PC 0; a successor list that
cannot be read releases nothing; a record that cannot be written is left (R131). -/
def TaskNode.answerFail (n : TaskNode) (acc : AccKind) (code : Nat) : TaskNode :=
  let n := { n.fail 5 (Sys2Proof.Machine.failInfo code 0) with fid := none }
  if acc = .write then { n with recorded := true } else { n with succs := some [] }

/-- An agent takes the translation fault of FAIL. -/
def State.failAgent (s : State) (r : FaultRec) (a : Agent) : State :=
  let code := failCode r.stage2 r.perm
  match a with
  | .strand c =>
    (s.onStrandOf c (fun t => { t with status := .running })).trapOf c code (s.core c).strand.faultVa
  | .handle c h => s.onStrandOf c (fun t =>
      let v := sget {} t.handles h
      { t with handles := sset {} t.handles h { v with
        fid := none, shot := false, failPerm := decide (code = 5), st := if v.shot then .revoked else .failed } })
  | .ring c n => s.onRing c n (fun g => g.onFault r.fid (fun w => w.fail (decide (code = 5))))
  | .packet p => s.reject p (if r.perm then 4 else 3)
  | .slot f region n => match s.redSlot f region n with
    | some x => (s.answerSlot f x (if r.perm then 4 else 3)).freeSlot f region n
    | none => s
  | .node f q idx =>
    (s.onNode f q idx (fun n => if n.fid = some r.fid then n.answerFail r.acc code else n)).settleNodes
  | .save c =>
    match s.gang (s.core c).gang with
    | some g => (s.onCore c (fun k => { k with saveFid := none })).saveFailed g
    | none => s
  | .restore g =>
    match s.gang g with
    | some x => (s.onGang g (fun x => { x with fid := none })).saveFailed { x with fid := none }
    | none => s
  | .parked x slot u =>
    if u = 0 then s.onParked x slot (fun p => { p with event := some (code, p.core.strand.faultVa) })
    else s.onParked x slot (fun p => p.ringWait u ((p.core.ring (u - 1)).wait.fail (decide (code = 5))))

/-- A write to FRESP by function `f` (R54): each waiting agent of the fault is answered; a fault that is not outstanding
sets ERR, one that a reset discarded does not (R55). -/
def State.answerFault (s : State) (f fid : Nat) (fail : Bool) : State :=
  match s.faults.find? (fun r => decide (r.owner = f ∧ r.fid = fid)) with
  | none =>
    if (s.fn f).dropped.contains fid then s.onFn f (fun x => { x with dropped := x.dropped.erase fid })
    else s.onQueue f 3 (fun b => { b with err := true })
  | some r =>
    let s := { s with faults := s.faults.filter (fun x => !decide (x.owner = f ∧ x.fid = fid)) }
    r.waiters.foldl (fun s a => if fail then s.failAgent r a else s.retryAgent fid a) s

/-- FAULT_RETRY. -/
def execFaultRetry (fn fid : Nat) (s : State) : Out := .next (s.answerFault fn (fid % 65536) false)

/-- FAULT_FAIL. -/
def execFaultFail (fn fid : Nat) (s : State) : Out := .next (s.answerFault fn (fid % 65536) true)

/-! ## Other registers (Table 4-2) -/

/-- The queue whose block holds a BAR0 offset. -/
def queueAt (off : Nat) : Option (Nat × Nat) :=
  if 0x100 ≤ off ∧ off < 0x180 then some ((off - 0x100) / 32, off % 32)
  else if 0x200 ≤ off ∧ off < 0x600 then some (4 + (off - 0x200) / 32, off % 32)
  else none

/-- What a 64-bit read of a function's BAR0 page at offset `off` returns (Table 4-2): FNID, the queue blocks, the MSI-X table
and its pending bits, and in the PF's page the power registers and the error banks; FRESP and all else read zero (R4). The
reads that also change something are QUEUE_STATUS_READ, PEAKW_READ and ERROR_BANK_STATUS_READ. -/
def State.bar0Read (s : State) (f off : Nat) : Nat :=
  match queueAt off with
  | some (q, o) => (s.queue f q).word o
  | none =>
    if off = 0 then f % 64
    else if 0x7000 ≤ off ∧ off < 0x7080 then (sget 0 (s.fn f).msixTab ((off - 0x7000) / 8)).toNat
    else if off = 0x7800 then (s.fn f).msixPend.toNat
    else if f = 0 ∧ 0x8000 ≤ off ∧ off < 0x8100 then s.powerRead (off - 0x8000)
    else if f = 0 ∧ 0x9000 ≤ off ∧ off < 0x9800 then (sget {} s.banks ((off - 0x9000) / 32)).word (off % 32)
    else 0

/-- REGISTER_WRITE: a write to BAR0 offset `off` (R4, Tables 4-2, 4-3, 14-4): RW fields take their part of the value;
reserved ones and read-only ones ignore it. -/
def execRegisterWrite (fn off : Nat) (value : BitVec 64) (s : State) : Out :=
  .next (match queueAt off with
    | some (q, o) =>
      if o = 0 then s.onQueue fn q (fun b => if b.en then b else { b with base := value })
      else if o = 8 then s.queueControl fn q value
      else if o = 16 then s.doorbell fn q (field value 0 32)
      else s
    | none =>
      if off = 0x180 then
        (if 2 ≤ field value 16 2 then s.onQueue fn 3 (fun b => { b with err := true })
         else s.answerFault fn (field value 0 16) (decide (field value 16 2 = 1)))
      else if 0x7000 ≤ off ∧ off < 0x7080 then
        s.writeVector fn ((off - 0x7000) / 8) value
      else if fn = 0 ∧ 0x8000 ≤ off ∧ off < 0x8020 ∧ off % 8 = 0 then s.requestPower ((off - 0x8000) / 8) (value.extractLsb' 0 2)
      else if fn = 0 ∧ 0x9000 ≤ off ∧ off < 0x9800 ∧ off % 32 = 24 then
        (if value.getLsbD 0 then s.clearBank ((off - 0x9000) / 32) else s)
      else s)

/-! ## Ring blocks (R138) -/

/-- RING_CONFIG_WRITE: BASEG and LOG2N are placed while the ring is empty and its engine idle, else refused. -/
def execRingConfigWrite (core ring : Nat) (value : BitVec 64) (s : State) : Out :=
  .next (s.ringConfig core (ring % 6) value.toNat)

/-- RING_STATUS_READ: the read of +0x20 clears CFGERR. -/
def execRingStatusRead (core ring : Nat) (s : State) : Out :=
  .next ({ s with answer := toBytes 8 (s.ringStatus core (ring % 6)) }.onRing core (ring % 6)
    (fun g => { g with cfgerr := false }))

end Sys2Proof.Machine
end

