-- ==== Sys2Proof/Machine/HostMem.lean ====
section
/-! DEFINITION. Host accesses to device memory: BAR2 reads, writes and AtomicOps (R43, R44, R88, R106), and the transfers
of line ownership between host and device (R51, R56, R57, R177). -/

namespace Sys2Proof.Machine

/-! ## BAR2 (R43, R44) -/

/-- The pages under `len` bytes of a function's BAR2 from offset `off`, with the offset and length in each; else the table
line whose read is an integrity failure (R106), or none where a part is unmapped for the access (R43). -/
def State.barPages (s : State) (f : Nat) (wr : Bool) : Nat → Nat → Nat → Except (Option Nat) (List (Trans × Nat × Nat))
  | 0, _, _ => .ok []
  | fuel + 1, off, len =>
    if len = 0 then .ok []
    else
      let n := min len (4096 - off % 4096)
      match walk2 s f off (if wr then .write else .read) with
      | .error e => .error e.mac
      | .ok t =>
        match State.barPages s f wr fuel (off + n) (len - n) with
        | .ok l => .ok ((t, off, n) :: l)
        | .error e => .error e

/-- The line of an access that is an integrity failure. -/
def State.barFails (s : State) (wr : Bool) (l : List (Trans × Nat × Nat)) : Option Nat :=
  l.findSome? (fun e => s.lineFails e.1.mtype (e.1.at e.2.1) e.2.2 wr)

/-- The pages under an access whose lines pass their checks; BAR2 is 16 TiB. -/
def State.bar2 (s : State) (f off len : Nat) (wr : Bool) : Except (Option Nat) (List (Trans × Nat × Nat)) :=
  if 2 ^ 44 < off + len then .error none
  else match s.barPages f wr (len / 4096 + 2) off len with
    | .error e => .error e
    | .ok l => match s.barFails wr l with
      | some x => .error (some x)
      | none => .ok l

/-- Event 7 for an unmapped access (R43, R406). -/
def State.unmapped (s : State) (f off : Nat) : State := s.event 0 7 (off % 2 ^ 44 + f % 64 * 2 ^ 44)

/-- HOST_BAR2_READ: the bytes under the function's key; all ones where unmapped (event 7) or after an integrity failure
(R43, R106). A miss allocates the line in its home slice (R79). -/
def execHostBar2Read (fn off len : Nat) (s : State) : Out :=
  let ones := List.replicate len (0xFF : Byte)
  .next (match s.bar2 fn off len false with
    | .error none => { s with answer := ones }.unmapped fn off
    | .error (some x) => { s with answer := ones }.integrityFail fn (64 * x) none
    | .ok l =>
        let s := l.foldl (fun s e => (linesOf e.2.1 e.2.2).foldl (fun (s : State) i =>
          let off := max e.2.1 (64 * i)
          s.shareLine fn (keyHome (e.1.line off)) none e.1 off) s) s
        { s with answer := l.flatMap (fun e => s.readPa e.1.mtype (e.1.at e.2.1) e.2.2) })

/-- Every lease on a line ends, at the host's request (R177). -/
def State.endLeases (s : State) (line : Nat) : State :=
  s.cores.foldl (fun s e => if e.2.strand.lease = some line then s.endLease e.1 else s) s

/-- Every device copy of a line goes, dirty data first to memory (R57), and every lease on it. The host's own access ends its
hold of the line too: DESIGN CHOICE (log 37). -/
def State.dropLine (s : State) (line : Nat) : State :=
  let s := s.evictAll line
  (s.setLine line { s.dirLine line with hostHolds := false }).endLeases line

/-- A host write reaches a clean page: logged while there is space, else D and LOST are set (R88). -/
def State.noteHostWrite (s : State) (f : Nat) (t : Trans) (off : Nat) : State :=
  if !s.cleanPage f t then s
  else if !(s.fn f).dlog.full then s.logPage f (t.gpa + (off - t.base)) t
  else
    let s := (s.setDirty t.leaf).pfPut ((s.fn f).dlog.ring + 16) [1]
    s.onFn f (fun x => { x with dlog := { x.dlog with lost := true } })

/-- Write bytes of the host through one page: every device copy of the lines goes first, but a window line in its home slice
takes the write there (R80). -/
def State.hostWrite (s : State) (f : Nat) (t : Trans) (off : Nat) (bs : List Byte) : State :=
  let s := (linesOf (t.at off) bs.length).foldl (fun s l =>
    let k := lineKey t.mtype (64 * l)
    if s.servedHome t k then s.writeHome k else s.dropLine k) s
  (s.noteHostWrite f t off).writePa t.mtype (t.at off) bs

/-- Write the pieces of an access. -/
def State.hostWrites (f : Nat) : List (Trans × Nat × Nat) → List Byte → State → State
  | [], _, s => s
  | e :: rest, bs, s => State.hostWrites f rest (bs.drop e.2.2) (s.hostWrite f e.1 e.2.1 (bs.take e.2.2))

/-- HOST_BAR2_WRITE: stored under the function's key; dropped where unmapped (event 7) or after an integrity failure
(R43, R106). -/
def execHostBar2Write (fn off : Nat) (data : List (BitVec 8)) (s : State) : Out :=
  .next (match s.bar2 fn off data.length true with
    | .error none => s.unmapped fn off
    | .error (some x) => s.integrityFail fn (64 * x) none
    | .ok l => State.hostWrites fn l data s)

/-- The new value of a host AtomicOp of `width` bytes, or none where nothing is written. -/
def hostNew (op : HostAtomic) (width old v cmp : Nat) : Option Nat :=
  match op with
  | .fetchAdd => some ((old + v) % 2 ^ (8 * width))
  | .swap => some (v % 2 ^ (8 * width))
  | .cas => if old = cmp % 2 ^ (8 * width) then some (v % 2 ^ (8 * width)) else none

/-- HOST_ATOMICOP: executed at the home slice, or completed with Completer Abort (2) or Unsupported Request (1) (R44). DESIGN
CHOICE (log 91): one that is both misaligned and unmapped is taken as misaligned, and posts no event 7. -/
def execHostAtomicop (fn off width : Nat) (op : HostAtomic) (v cmp : BitVec 64) (s : State) : Out :=
  let abort (s : State) : State := { s with answer := [], answerStatus := 2 }
  .next (
    if width ≠ 4 ∧ width ≠ 8 then { s with answer := [], answerStatus := 1 }
    else if off % width ≠ 0 then abort s
    else match s.bar2 fn off width true with
      | .error none => abort (s.unmapped fn off)
      | .error (some x) => abort (s.integrityFail fn (64 * x) none)
      | .ok [] => abort s
      | .ok (e :: _) =>
        if e.1.mtype ≠ .dev then abort s
        else
          let old := ofBytes (s.readPa .dev (e.1.at off) width)
          let k := lineKey .dev (e.1.at off)
          let s := { s with answer := toBytes width old, answerStatus := 0 }
          match hostNew op width old v.toNat cmp.toNat with
          | some new => s.hostWrite fn e.1 off (toBytes width new)
          | none => if s.servedHome e.1 k then s else s.dropLine k)

/-! ## Line ownership (R51, R56, R57) -/

/-- HOST_SNOOP: the device answers before the line is granted elsewhere: its copies of the host line are invalidated, or
it keeps only shared ones; a lease on it ends (R51, R177). -/
def execHostSnoop (addr : Nat) (invalidate : Bool) (s : State) : Out :=
  let k := lineKey .hostc addr
  .next (
    if invalidate then s.dropLine k
    else
      let l := s.dirLine k
      (s.setLine k { l with
        l2 := l.l2.map (fun c => { c with st := .s }), l1 := l.l1.map (fun x => { x with st := .s })
        cxl := if l.l2.isEmpty then none else some .s }).endLeases k)

/-- HOST_OWNERSHIP_REQUEST: every device copy of the device line goes, dirty data first to memory, and the host holds it; a window line is answered
without caching (R57, R109). -/
def execHostOwnershipRequest (dpa : Nat) (s : State) : Out :=
  .next (
    if !secondTier dpa && (s.windowOf (frameOf dpa)).isSome then s
    else
      let k := lineKey .dev dpa
      let s := s.evictAll k
      (s.setLine k { s.dirLine k with hostHolds := true }).endLeases k)

/-- HOST_LINE_RETURN: the host has returned the line, and what waited for it executes (R57). -/
def execHostLineReturn (dpa : Nat) (s : State) : Out :=
  let k := lineKey .dev dpa
  let s := s.setLine k { s.dirLine k with hostHolds := false }
  .next (s.cores.foldl (fun s e =>
    if e.2.strand.status = .waitLine (dpa / 64 * 64) then s.onStrandOf e.1 Strand.issue else s) s)

end Sys2Proof.Machine
end

