-- ==== Sys2Proof/Machine/Admin.lean ====
section
/-! DEFINITION. Admin commands that every function may issue (R33, R50, R52, R93, R94), and partitions: their check, their
change and their query, retirement and shedding (R74 to R78, R90 to R92, R97, R105). -/

namespace Sys2Proof.Machine

/-! ## Operands (R50) -/

/-- The operand of `n` bytes at byte `b` of the 64-byte command. -/
def arg (c : AdminCmd) (b n : Nat) : Nat := field c.ops (8 * (b - 8)) (8 * n)

/-- A hypervisor command: PF only (Table 4-6, STATUS 2). -/
def State.pf (s : State) (c : AdminCmd) (body : State) : State := if c.fn = 0 then body else s.complete c 2 0

/-- Bytes at a GPA of function `f`, if every page is readable. -/
def State.gpaRead (s : State) (f gpa n : Nat) : Option (List Byte) :=
  match s.barPages f false (n / 4096 + 2) gpa n with
  | .error _ => none
  | .ok l =>
    if (s.barFails false l).isSome then none
    else some (l.flatMap (fun e => s.readPa e.1.mtype (e.1.at e.2.1) e.2.2))

/-- An access to `n` bytes at a GPA of function `f` that fails its checks is an integrity failure of the function (R106). -/
def State.gpaNote (s : State) (f : Nat) (wr : Bool) (gpa n : Nat) : State :=
  match s.barPages f wr (n / 4096 + 2) gpa n with
  | .error (some x) => s.noteFail f x
  | .error none => s
  | .ok l => match s.barFails wr l with
    | some x => s.noteFail f x
    | none => s

/-- Write pieces. -/
def State.putPages : List (Trans × Nat × Nat) → List Byte → State → State
  | [], _, s => s
  | e :: rest, bs, s => State.putPages rest (bs.drop e.2.2) (s.putPa 0 e.1.mtype (e.1.at e.2.1) (bs.take e.2.2))

/-- Write bytes at a GPA of function `f`, if every page of the first `room` bytes is writable. -/
def State.gpaWrite (s : State) (f gpa room : Nat) (bs : List Byte) : Option State :=
  match s.barPages f true (room / 4096 + 2) gpa room with
  | .error _ => none
  | .ok l => if (s.barFails true l).isSome then none else some (State.putPages l bs s)

/-! ## Shootdowns (R52, R185, R309) -/

/-- A handle after a shootdown: VALID with a page that `p` names becomes REVOKED; a pending walk of a VA that `q` names
will end REVOKED. -/
def Handle.shoot (p : Trans → Bool) (q : Nat → Bool) (h : Handle) : Handle :=
  match h.st with
  | .valid => if p h.tr then { h with st := .revoked } else h
  | .pending => if q h.va.toNat then { h with shot := true } else h
  | _ => h

/-- No TLB and no handle of the contexts that `w` names (function, context) holds a translation that `p` names. -/
def State.shootdown (s : State) (w : Nat → Nat → Bool) (p : Trans → Bool) (q : Nat → Bool) : State :=
  { s with cores := s.cores.map (fun e =>
      let k := e.2
      if !w k.fn k.ctx then e
      else (e.1, { k with
        tlb := k.tlb.filter (fun x => !(w x.fn x.ctx && p x.tr))
        strand := { k.strand with handles := k.strand.handles.map (fun h => (h.1, h.2.shoot p q)) } })) }

/-- Consecutive frames: the first and the count. -/
abbrev Frames := Nat × Nat

/-- Whether a frame is one of them. -/
def inFrames (l : List Frames) (x : Nat) : Bool := l.any (fun r => decide (r.1 ≤ x ∧ x < r.1 + r.2))

/-- Whether a page reaches one of them. -/
def Trans.meets (t : Trans) (l : List Frames) : Bool :=
  decide (t.mtype = .dev) && l.any (fun r => decide (t.pa < (r.1 + r.2) * 0x200000 ∧ r.1 * 0x200000 < t.pa + t.size))

/-- Every translation of the functions that `w` names into one of these device frames is gone. -/
def State.shootFrames (s : State) (w : Nat → Bool) (l : List Frames) : State :=
  s.shootdown (fun f _ => w f) (fun t => t.meets l) (fun _ => false)

/-- Frames are reinitialised (R105): their lines read as zero again, no copy is written back, poison is gone. -/
def State.reinit (s : State) (l : List Frames) : State :=
  { s with
    mem := s.mem.filter (fun e => !inFrames l (frameOf e.1))
    counters := s.counters.filter (fun e => !inFrames l (e.1 / 512))
    poison := l.foldl cutFrames s.poison
    lines := s.lines.filter (fun e => decide (2 ^ 60 ≤ e.1) || !inFrames l (e.1 / 32768)) }

/-! ## Contexts (R50, R81, R93, R125, R179, R181, R262) -/

/-- The least context number that is not in use (log 22). -/
def State.freshCtx (s : State) : Option Nat := (upto 4096).find? (fun x => !(s.ctx x).live)

/-- Whether a context is live and of function `f`. -/
def State.ownsCtx (s : State) (f x : Nat) : Bool := decide (x < 4096) && (s.ctx x).live && decide ((s.ctx x).fn = f)

/-- CTX_CREATE: STATUS 3 for a weight above 256, a misaligned area or a bad SLOTS; RESULT is the CTXID (R50). -/
def execCtxCreate (cmd : AdminCmd) (s : State) : Out :=
  let weight := arg cmd 8 2
  let slots := arg cmd 40 2
  .next (
    if 256 < weight ∨ arg cmd 24 8 % 0x10000 ≠ 0 ∨ arg cmd 32 8 % 0x10000 ≠ 0 ∨ slots = 0 ∨ 4096 < slots then s.complete cmd 3 0
    else match s.freshCtx with
      | none => s.complete cmd 4 0
      | some x =>
        (s.onCtx x (fun _ => { live := true, fn := cmd.fn, weight := if weight = 0 then 16 else weight,
                               s1root := arg cmd 16 8 / 4096 * 4096, waitVa := arg cmd 24 8 % 2 ^ 57,
                               saveVa := arg cmd 32 8 % 2 ^ 57, slots := slots })).complete cmd 0 x)

/-- An export entry is withdrawn: its held contributions are answered PURGED (R38). -/
def State.withdraw (s : State) (f r : Nat) : State :=
  (s.purgeSlots f (fun x => decide (x.region = r))).onFn f (fun x => { x with exports := serase x.exports r })

/-- Whether a packet is for region `r` of function `f`. -/
def RxPacket.isFor (p : RxPacket) (f r : Nat) : Bool := decide (field p.pkt.dstFn 0 6 = f ∧ p.pkt.region.toNat = r)

/-- Packets for an entry whose context is destroyed and that wait on a fault are checked again. -/
def State.recheck (s : State) (f r : Nat) : State :=
  let hit (a : Agent) : Option RxPacket := match a with
    | .packet p => if p.isFor f r then some { p with entry := none } else none
    | _ => none
  let held := s.faults.flatMap (fun e => e.waiters.filterMap hit)
  (s.dropWaits (fun a => (hit a).isSome)).onFabric (fun g => { g with rx := g.rx ++ held })

/-- Whether a packet, a held SIGNAL or a reduction slot of region `r` is left that was checked against an entry older than
the EXPORT_SET of this tick (R33). -/
def State.oldChecks (s : State) (f r tick : Nat) : Bool :=
  let old (e : Option Export) : Bool := match e with
    | some e => decide (e.gen ≤ tick)
    | none => false
  let was (p : RxPacket) : Bool := p.isFor f r && old p.entry
  s.fabric.rx.any was || s.fabric.held.any was
    || s.faults.any (fun x => x.waiters.any (fun a => match a with
      | .packet p => was p
      | _ => false))
    || s.fabric.incoming.any (fun i => i.signal.any was)
    || (s.fn f).redSlots.any (fun x => decide (x.region = r) && !x.dead && old (some x.entry))

/-- An EXPORT_SET whose entry is in force completes once every packet checked against the old one has landed or been
rejected (R33). -/
def State.settleExport (s : State) (p : Pending) : State :=
  if s.oldChecks p.cmd.fn (arg p.cmd 8 1) p.tick then s
  else ({ s with pending := s.pending.filter (fun q => decide (q ≠ p)) } : State).complete p.cmd 0 0

/-- CTX_DESTROY: completes once the context's nodes have completed; its export entries are withdrawn (R33, R50). -/
def execCtxDestroy (cmd : AdminCmd) (s : State) : Out :=
  let x := arg cmd 8 2
  .next (
    if !s.ownsCtx cmd.fn x then s.complete cmd 3 0
    else if (s.ctx x).destroying.isSome then s.complete cmd 4 0
    else
      let mine := (s.fn cmd.fn).exports.filter (fun e => e.2.valid && decide (e.2.ctx = x))
      let s := mine.foldl (fun s e => (s.withdraw cmd.fn e.1).recheck cmd.fn e.1) s
      (s.onCtx x (fun c => { c with destroying := some cmd.cid })).destroyDone x)

/-- The pair words of an EXPORT_SET (Table 3-6). -/
def pairsOf : Nat → List Byte → List (Nat × Nat)
  | 0, _ => []
  | n + 1, bs => (nbits (ofBytes (bs.take 2)) 0 10, nbits (ofBytes (bs.take 2)) 10 6) :: pairsOf n (bs.drop 2)

/-- The entry that an EXPORT_SET with VALID = 1 asks for, its pairs left out; none where an operand is bad (R33). DEDUCED
(log 30): a context that CTX_DESTROY is destroying is no live one here, so no entry names it when it is gone. -/
def State.exportHead (s : State) (c : AdminCmd) : Option Export :=
  let flags := arg c 9 1
  let np := arg c 13 1
  let semDie := arg c 12 1
  let semBase := arg c 32 2
  let semCnt := arg c 34 2
  let pairVa := arg c 40 8
  let die := if semDie < 64 then localDie (if ((s.fn c.fn).guest semDie).getLsbD 16 then some ((s.fn c.fn).guest semDie) else none)
    else none
  let semOk := decide (semCnt = 0) || (match die with
    | none => false
    | some d =>
      let g := sget (0, 0) (s.fn c.fn).semRange d
      decide (g.1 ≤ semBase ∧ semBase + semCnt ≤ g.1 + g.2))
  if 16 ≤ flags ∨ 4096 ≤ arg c 10 2 ∨ arg c 14 2 ≠ 0 ∨ 2 ^ 57 ≤ arg c 16 8 ∨ arg c 36 4 ≠ 0 ∨ arg c 48 16 ≠ 0
      ∨ arg c 24 8 = 0 ∨ 2 ^ 57 < arg c 16 8 + arg c 24 8 ∨ 16 < np then none
  else if !s.ownsCtx c.fn (arg c 10 2) || (s.ctx (arg c 10 2)).destroying.isSome || !semOk then none
  else if np ≠ 0 ∧ pairVa % 2 ≠ 0 then none
  else some { valid := true, write := nbit flags 1, reduce := nbit flags 2, signal := nbit flags 3, ctx := arg c 10 2,
                        semDie := semDie, base := arg c 16 8, length := arg c 24 8, semBase := semBase, semCnt := semCnt }

/-- The entry that an EXPORT_SET with VALID = 1 asks for, or none where it is bad or its pair list cannot be read (R33). -/
def State.exportOf (s : State) (c : AdminCmd) : Option Export :=
  let np := arg c 13 1
  (s.exportHead c).bind (fun e =>
    if np = 0 then some e else (s.gpaRead c.fn (arg c 40 8) (2 * np)).map (fun bs => { e with pairs := pairsOf np bs }))

/-- EXPORT_SET: one entry is replaced as a whole or withdrawn (R33). -/
def execExportSet (cmd : AdminCmd) (s : State) : Out :=
  let r := arg cmd 8 1
  let p : Pending := { cmd := cmd, begun := true, tick := s.tick }
  let wait (s : State) : State := ({ s with pending := s.pending ++ [p] } : State).settleExport p
  .next (
    if !nbit (arg cmd 9 1) 0 then
      if arg cmd 9 55 = 0 then wait (s.withdraw cmd.fn r) else s.complete cmd 3 0
    else match s.exportOf cmd with
      | none =>
        -- a pair list on a failing line is an integrity failure (R106)
        let np := arg cmd 13 1
        (if (s.exportHead cmd).isSome && decide (np ≠ 0) then s.gpaNote cmd.fn false (arg cmd 40 8) (2 * np) else s).complete cmd 3 0
      | some e =>
        wait (s.onFn cmd.fn (fun x => { x with exports := sset {} x.exports r { e with gen := s.tick + 1 } })))

/-- Whether an AtomicOp of a context of function `f` that passed its state check is outstanding under a translation that
reaches into the range (R52, R185). -/
def State.atomsIn (s : State) (f x va len : Nat) : Bool :=
  s.hostsAtoms.any (fun a => decide ((s.core a.core).fn = f ∧ (s.core a.core).ctx = x ∧ a.base < va + len ∧ va < a.base + a.size))

/-- An INVAL_RANGE whose translations are gone completes once no access under them is outstanding (R52, R185). -/
def State.settleInval (s : State) (cmd : AdminCmd) : State :=
  if s.atomsIn cmd.fn (arg cmd 8 2) (arg cmd 16 8) (arg cmd 24 8) then s
  else ({ s with pending := s.pending.filter (fun p => decide (p.cmd ≠ cmd)) } : State).complete cmd 0 0

/-- INVAL_RANGE: translations of the range are shot down (R52), and the command completes when every access that used one
has; a length of zero covers nothing. -/
def execInvalRange (cmd : AdminCmd) (s : State) : Out :=
  let x := arg cmd 8 2
  let va := arg cmd 16 8
  let len := arg cmd 24 8
  .next (
    if len = 0 then s.complete cmd 0 0
    else if !s.ownsCtx cmd.fn x then s.complete cmd 3 0
    else
      let s := s.shootdown (fun f y => decide (f = cmd.fn ∧ y = x))
        (fun t => decide (t.base < va + len ∧ va < t.base + t.size)) (fun v => decide (va ≤ v ∧ v < va + len))
      ({ s with pending := s.pending ++ [{ cmd := cmd, begun := true }] } : State).settleInval cmd)

/-- ADMIN_RESERVED_OPCODE: STATUS 2 for a VF's 0x40 to 0x7F, else STATUS 1 (Table 4-6). -/
def execAdminReservedOpcode (cmd : AdminCmd) (s : State) : Out :=
  .next (s.complete cmd (if cmd.fn ≠ 0 ∧ 0x40 ≤ cmd.opc.toNat ∧ cmd.opc.toNat < 0x80 then 2 else 1) 0)

/-! ## CTX_SWITCH (R93, R94) -/

/-- The gangs of a context that hold cores. -/
def State.residentGangs (s : State) (x : Nat) : List Gang := s.gangs.filter (fun g => decide (g.ctx = x) && !g.cores.isEmpty)

/-- Once the outgoing context holds no core, the incoming one is admitted and the command completes. -/
def State.settleSwitch (s : State) (f : Nat) : State :=
  match (s.fn f).switching with
  | none => s
  | some (out, inc, cid) =>
    if (s.residentGangs out).isEmpty then
      ((s.onFn f (fun x => { x with switching := none })).onCtx inc (fun c => { c with admitted := true })).postAdm f cid.toNat 0 0 0
    else s

/-- Whether a hypervisor action on `f` is in progress: a pre-emption, a PART_SET, a shed (R94). -/
def State.hyperBusy (s : State) (f : Nat) : Bool :=
  s.gangs.any (fun g => decide (g.fn = f ∧ (g.phase = .draining ∨ g.phase = .saving)))
    || s.pending.any (fun p => decide (p.cmd.opc = 0x40 ∧ arg p.cmd 8 2 = f)) || (s.fn f).shedDue

/-- The deadline of CTX_SWITCH: 25 µs (R93). -/
def switchCycles : Nat := 32500

/-- CTX_SWITCH: the outgoing context is placed no more and its gangs are pre-empted; then the incoming one is admitted. -/
def execCtxSwitch (cmd : AdminCmd) (s : State) : Out :=
  let f := cmd.fn
  let out := arg cmd 8 2
  let inc := arg cmd 10 2
  .next (
    if !s.ownsCtx f out || !s.ownsCtx f inc || decide (out = inc) then s.complete cmd 3 0
    else if (s.fn f).switching.isSome || s.hyperBusy f then s.complete cmd 4 0
    else if !(s.ctx out).admitted then (s.onCtx inc (fun c => { c with admitted := true })).complete cmd 0 0
    else
      let s := (s.onCtx out (fun c => { c with admitted := false })).onFn f (fun x => { x with switching := some (out, inc, cmd.cid) })
      ((s.residentGangs out).foldl (fun s g => s.preempt g switchCycles true) s).settleSwitch f)

/-! ## Shares and partitions (R76, R77, R97) -/

/-- Cluster `k` is healthy. -/
def State.healthy (s : State) (k : Nat) : Bool := !bmem s.retiredClusters k

/-- The share of function `f` (R77). -/
def State.share (s : State) (f : Nat) : Nat :=
  (upto 32).foldl (fun n k =>
    if !s.ownsCluster f k then n
    else
      let all := (upto 64).foldl (fun a g => if s.ownsCluster g k then a + s.tickets g k else a) 0
      n + 256 * s.tickets f k / max 1 all) 0

/-- The healthy groups that `f` owns. -/
def State.groupsOf (s : State) (f : Nat) : Nat :=
  ((upto 192).filter (fun g => bmem (s.fn f).part.pcg g && !bmem s.retiredGroups g)).length

/-- The minima in force: a shed function's count as zero (R91). -/
def Fn.minShare (x : Fn) : Nat := if x.shed then 0 else x.part.minShare
def Fn.minGroups (x : Fn) : Nat := if x.shed then 0 else x.part.minPcg

/-- Whether the totals of the minima fit what is healthy. -/
def State.minimaFit (s : State) : Bool :=
  decide ((upto 64).foldl (fun n f => n + (s.fn f).minShare) 0 ≤ 256 * ((upto 32).filter s.healthy).length)
    && decide ((upto 64).foldl (fun n f => n + (s.fn f).minGroups) 0
        ≤ ((upto 192).filter (fun g => !bmem s.retiredGroups g)).length)

/-- WAYS of a partition on a die. -/
def Partition.way (p : Partition) (d : Nat) : BitVec 16 := sget 0 p.ways d

/-- The descriptor's reserved fields (Table 6-2). -/
def descReserved (b : List Byte) : Bool :=
  decide (4 ≤ bytesAt b 0 2 ∨ bytesAt b 7 1 ≠ 0 ∨ bytesAt b 12 4 ≠ 0 ∨ 2 ^ 36 ≤ bytesAt b 120 8 ∨ 63 < bytesAt b 6 1
    ∨ 8192 < bytesAt b 2 2 ∨ 192 < bytesAt b 4 2) || (b.drop 128).any (fun x => decide (x ≠ 0))

/-- A descriptor's fields (Table 6-2). -/
def partOf (b : List Byte) : Partition :=
  { valid := nbit (bytesAt b 0 2) 0, test := nbit (bytesAt b 0 2) 1, minShare := bytesAt b 2 2, minPcg := bytesAt b 4 2
    shedRank := bytesAt b 6 1, clusters := BitVec.ofNat 32 (bytesAt b 8 4)
    tickets := (upto 32).foldl (fun m k => sset 0 m k (bytesAt b (16 + 2 * k) 2)) []
    ways := (upto 4).foldl (fun m d => sset 0 m d (BitVec.ofNat 16 (bytesAt b (80 + 2 * d) 2))) []
    pcg := BitVec.ofNat 192 (bytesAt b 88 24), agents := BitVec.ofNat 64 (bytesAt b 112 8)
    ports := BitVec.ofNat 36 (bytesAt b 120 8) }

/-- What a descriptor puts in force: with VALID = 0 the function owns nothing (R76). -/
def Partition.inForce (p : Partition) : Partition := if p.valid then p else {}

/-- The die of a pseudo-channel group. -/
def groupDie (g : Nat) : Nat := g / 48

/-- Whether a new descriptor of `f` is refused: its fields for themselves and against the others', and what would be in force
with it (R77, R97). -/
def State.partBad (s : State) (f : Nat) (p : Partition) : Bool :=
  let q := p.inForce
  let t := s.onFn f (fun x => { x with part := q, shed := false })
  let ticketBad (k : Nat) : Bool :=
    let n := sget 0 p.tickets k
    if bmem p.clusters k then decide (n = 0 ∨ 1024 < n) else decide (n ≠ 0)
  let retired : Bool := decide (p.clusters &&& s.retiredClusters ≠ 0 ∨ p.pcg &&& s.retiredGroups ≠ 0 ∨ p.agents &&& s.retiredAgents ≠ 0)
    || (upto 36).any (fun i => bmem p.ports i && (s.port i).retired)
  let clash : Bool := (upto 64).any (fun g => decide (g ≠ f) && (decide ((s.fn g).part.pcg &&& p.pcg ≠ 0)
    || (upto 4).any (fun d => decide ((s.fn g).part.way d &&& p.way d ≠ 0))))
  let noWay : Bool := (upto 192).any (fun g => bmem p.pcg g && decide (p.way (groupDie g) = 0))
  let window : Bool := s.windows.any (fun e =>
    let w := e.2
    (decide (w.owner = f) && !bmem q.pcg (groupOf w.frame0)) || (w.participant f && decide (q.way w.home = 0)))
  (upto 32).any ticketBad || retired || clash || noWay || window || (p.valid && (sfind s.keys f).isNone)
    || (upto 64).any (fun g => decide (t.share g < (t.fn g).minShare ∨ t.groupsOf g < (t.fn g).minGroups)) || !t.minimaFit

/-- The gangs of `f` that hold a core in a cluster it no longer owns. -/
def State.strayGangs (s : State) (f : Nat) : List Gang :=
  s.gangs.filter (fun g => decide (g.fn = f) && g.cores.any (fun c => !s.ownsCluster f (c / 8)))

/-- Pre-empt gangs by the resize rule, with the deadline of the lowest cluster they hold (R92). -/
def State.resize (s : State) (l : List Gang) : State :=
  l.foldl (fun s g => if g.phase = .running then s.preempt g (s.pdlOf g) true else s) s

/-- A cluster that its holder no longer owns is idle. -/
def State.dropHolds (s : State) (f : Nat) : State :=
  s.clusters.foldl (fun s e =>
    if e.2.holder = some f ∧ !s.ownsCluster f e.1 then s.onCluster e.1 (fun c => { c with holder := none }) else s) s

/-- The new partition is in force: groups that join or leave are reinitialised, with no translation of the old owner (the
PF's, where a group had none) into them left; the L2 copies in ways that leave are written back and invalidated; gangs in
removed clusters are pre-empted, and what waits on a removed port leaves it (R26, R80, R92, R105). -/
def State.applyPart (s : State) (f : Nat) (p : Partition) : State :=
  let moved := (s.fn f).part.pcg ^^^ p.pcg
  let hit := ((upto 192).filter (bmem moved)).map (fun g => (groupFirst g, groupFrames g))
  let s := (s.shootFrames (fun g => decide (g = f ∨ g = 0)) hit).reinit hit
  let s := s.evictWhere (fun _ c => decide (c.fn = f) && !bmem (p.way c.die) c.way)
  let ports := (s.fn f).part.ports
  let s := s.onFn f (fun x => { x with part := p, shed := false, shedDue := false })
  let s := (upto 36).foldl (fun (s : State) i =>
    if bmem p.ports i then (if bmem ports i then s else s.pumpPort i) else if bmem ports i then s.leavePort f i else s) s
  (s.dropHolds f).resize (s.strayGangs f)

/-- PART_SET in progress completes once no gang of `f` holds a core it lost. -/
def State.settlePart (s : State) (c : AdminCmd) : State :=
  if (s.strayGangs (arg c 8 2)).isEmpty then
    ({ s with pending := s.pending.filter (fun p => decide (p.cmd ≠ c)) } : State).complete c 0 0
  else s

/-- PART_SET (R76 to R78, R92, R97, R105). One that arrives during a context switch of its function waits until the switch is
over and completes with STATUS 4, not begun (R78, R94; log 67). -/
def execPartSet (cmd : AdminCmd) (s : State) : Out :=
  let f := arg cmd 8 2
  .next (s.pf cmd (
    if 63 < f then s.complete cmd 3 0
    else if s.pending.any (fun p => p.begun && decide (p.cmd.opc = 0x40 ∧ arg p.cmd 8 2 = f)) then s.complete cmd 4 0
    else if (s.fn f).switching.isSome then { s with pending := s.pending ++ [{ cmd := cmd, begun := false }] }
    else match s.gpaRead 0 (arg cmd 16 8) 256 with
      | none => (s.gpaNote 0 false (arg cmd 16 8) 256).complete cmd 3 0
      | some b =>
        if descReserved b || s.partBad f (partOf b) then s.complete cmd 3 0
        else
          let s := s.applyPart f (partOf b).inForce
          ({ s with pending := s.pending ++ [{ cmd := cmd, begun := true }] } : State).settlePart cmd))

/-- The descriptor in force as bytes, without what has been retired (Table 6-2, R78, R90). -/
def State.descBytes (s : State) (f : Nat) : List Byte :=
  let x := s.fn f
  let p := x.part
  let ports := (upto 36).foldl (fun n i => if bmem p.ports i && !(s.port i).retired then n + 2 ^ i else n) 0
  toBytes 2 (p.valid.toNat + 2 * p.test.toNat) ++ toBytes 2 p.minShare ++ toBytes 2 p.minPcg ++ toBytes 1 p.shedRank ++ toBytes 1 0
    ++ toBytes 4 (p.clusters &&& ~~~ s.retiredClusters).toNat ++ toBytes 4 0
    ++ (upto 32).flatMap (fun k => toBytes 2 (if s.healthy k then sget 0 p.tickets k else 0))
    ++ (upto 4).flatMap (fun d => toBytes 2 (p.way d).toNat)
    ++ toBytes 24 (p.pcg &&& ~~~ s.retiredGroups).toNat ++ toBytes 8 (p.agents &&& ~~~ s.retiredAgents).toNat ++ toBytes 8 ports
    ++ toBytes 2 (s.share f) ++ toBytes 2 (s.groupsOf f)
    ++ (upto 4).flatMap (fun d => toBytes 4 (s.l2Charge f d)) ++ toBytes 1 x.shed.toNat ++ List.replicate 107 0

/-- PART_QUERY: the descriptor with the share, groups, L2 charge and shed bit in force (R78). -/
def execPartQuery (cmd : AdminCmd) (s : State) : Out :=
  let f := arg cmd 8 2
  .next (s.pf cmd (
    if 63 < f then s.complete cmd 3 0
    else match s.gpaWrite 0 (arg cmd 16 8) 256 (s.descBytes f) with
      | none => (s.gpaNote 0 true (arg cmd 16 8) 256).complete cmd 3 0
      | some t => t.complete cmd 0 0))

/-! ## Shedding (R91, R94) -/

/-- The function shed next: of the valid partitions not shed, the lowest SHEDRANK, then the highest number. -/
def State.shedNext (s : State) : Option Nat :=
  (upto 64).foldl (fun best f =>
    let x := s.fn f
    if !x.part.valid || x.shed then best
    else match best with
      | none => some f
      | some b => if x.part.shedRank ≤ (s.fn b).part.shedRank then some f else best) none

/-- Pre-empt the gangs of shed functions; one in a context switch waits (R94). -/
def State.settleShed (s : State) : State :=
  (upto 64).foldl (fun s f =>
    if (s.fn f).shedDue && (s.fn f).switching.isNone then
      (s.resize (s.gangs.filter (fun g => decide (g.fn = f) && !g.cores.isEmpty))).onFn f (fun x => { x with shedDue := false })
    else s) s

/-- Shed functions while the minima do not fit; the bitmap of those shed. -/
def State.shedLoop : Nat → State → Nat → State × Nat
  | 0, s, m => (s, m)
  | n + 1, s, m =>
    if s.minimaFit then (s, m)
    else match s.shedNext with
      | none => (s, m)
      | some f => State.shedLoop n (s.onFn f (fun x => { x with shed := true, shedDue := true })) (m + 2 ^ f)

/-- After a retirement the minima are checked again; event 5 names the functions shed (R91). -/
def State.shedNow (s : State) : State :=
  let r := State.shedLoop 64 s 0
  (if r.2 = 0 then r.1 else r.1.event 0 5 r.2).settleShed

end Sys2Proof.Machine
end

