-- ==== Sys2Proof/Machine/Alu.lean ====
section
/-! DEFINITION. Scalar integer instructions: the ALU group, the immediate forms, LI and LIH (R291 to R294). -/

namespace Sys2Proof.Machine

/-- Leading zero bits of a 64-bit value, 64 for 0 (Table 16-1). -/
def clz64 (v : Nat) : Nat := if v = 0 then 64 else 63 - v.log2

/-- Trailing zero bits of the low `n` bits, `n` where they are all zero. -/
def ctzLoop : Nat → Nat → Nat
  | 0, _ => 0
  | n + 1, v => if v % 2 = 1 then 0 else 1 + ctzLoop n (v / 2)

/-- Set bits among the low `n` bits. -/
def popLoop : Nat → Nat → Nat
  | 0, _ => 0
  | n + 1, v => v % 2 + popLoop n (v / 2)

/-- 1 or 0. -/
def bit (b : Bool) : Word := if b then 1 else 0

/-- Signed division truncated towards zero, with the borderline cases of Table 16-2. -/
def sdiv64 (a b : Word) : Word := if b = 0 then BitVec.ofInt 64 (-1) else BitVec.ofInt 64 (a.toInt.tdiv b.toInt)

/-- Signed remainder (Table 16-2). -/
def srem64 (a b : Word) : Word := if b = 0 then a else BitVec.ofInt 64 (a.toInt.tmod b.toInt)

/-- Unsigned division (Table 16-2). -/
def udiv64 (a b : Word) : Word := if b = 0 then BitVec.ofInt 64 (-1) else a / b

/-- Unsigned remainder (Table 16-2). -/
def urem64 (a b : Word) : Word := if b = 0 then a else a % b

/-- The high half of the unsigned product. -/
def mulhu64 (a b : Word) : Word := BitVec.ofNat 64 (a.toNat * b.toNat / 2 ^ 64)

/-- The high half of the signed product. -/
def mulhs64 (a b : Word) : Word := BitVec.ofInt 64 (a.toInt * b.toInt / 2 ^ 64)

/-- The shift amount s[b][5:0]. -/
def shAmt (b : Word) : Nat := b.toNat % 64

/-- sext of the low 8·2^w bits (R291). -/
def sextW (w : Nat) (v : Word) : Word := BitVec.ofInt 64 (sint (8 * 2 ^ w) v.toNat)

/-- zext of the low 8·2^w bits. -/
def zextW (w : Nat) (v : Word) : Word := BitVec.ofNat 64 (v.toNat % 2 ^ (8 * 2 ^ w))

/-- The immediate of ADDI, SLTI and SLTIU: sext(imm14) (R293). -/
def simm14 (i : BitVec 14) : Word := i.signExtend 64

/-- The immediate of ANDI, ORI and XORI. -/
def zimm14 (i : BitVec 14) : Word := i.setWidth 64

/-- Write a function of s[a] and s[b] to s[d] (Table 16-1). -/
def State.alu (s : State) (d a b : Reg) (f : Word → Word → Word) : Out := .next (s.result d (f (s.get a) (s.get b)))

/-- Write a function of s[a] to s[d]. -/
def State.alu1 (s : State) (d a : Reg) (f : Word → Word) : Out := .next (s.result d (f (s.get a)))

def execAdd (d a b : Reg) (s : State) : Out := s.alu d a b (fun x y => x + y)
def execSub (d a b : Reg) (s : State) : Out := s.alu d a b (fun x y => x - y)
def execAnd (d a b : Reg) (s : State) : Out := s.alu d a b (fun x y => x &&& y)
def execOr (d a b : Reg) (s : State) : Out := s.alu d a b (fun x y => x ||| y)
def execXor (d a b : Reg) (s : State) : Out := s.alu d a b (fun x y => x ^^^ y)
def execAndn (d a b : Reg) (s : State) : Out := s.alu d a b (fun x y => x &&& ~~~y)
def execSll (d a b : Reg) (s : State) : Out := s.alu d a b (fun x y => x <<< shAmt y)
def execSrl (d a b : Reg) (s : State) : Out := s.alu d a b (fun x y => x >>> shAmt y)
def execSra (d a b : Reg) (s : State) : Out := s.alu d a b (fun x y => x.sshiftRight (shAmt y))
def execMul (d a b : Reg) (s : State) : Out := s.alu d a b (fun x y => x * y)
def execMulhu (d a b : Reg) (s : State) : Out := s.alu d a b mulhu64
def execMulhs (d a b : Reg) (s : State) : Out := s.alu d a b mulhs64
/-- R292: division never traps. -/
def execDiv (d a b : Reg) (s : State) : Out := s.alu d a b sdiv64
def execDivu (d a b : Reg) (s : State) : Out := s.alu d a b udiv64
def execRem (d a b : Reg) (s : State) : Out := s.alu d a b srem64
def execRemu (d a b : Reg) (s : State) : Out := s.alu d a b urem64
def execMin (d a b : Reg) (s : State) : Out := s.alu d a b (fun x y => if x.slt y then x else y)
def execMax (d a b : Reg) (s : State) : Out := s.alu d a b (fun x y => if y.slt x then x else y)
def execMinu (d a b : Reg) (s : State) : Out := s.alu d a b (fun x y => if x.ult y then x else y)
def execMaxu (d a b : Reg) (s : State) : Out := s.alu d a b (fun x y => if y.ult x then x else y)
def execSlt (d a b : Reg) (s : State) : Out := s.alu d a b (fun x y => bit (x.slt y))
def execSltu (d a b : Reg) (s : State) : Out := s.alu d a b (fun x y => bit (x.ult y))
def execSeq (d a b : Reg) (s : State) : Out := s.alu d a b (fun x y => bit (decide (x = y)))
def execClz (d a : Reg) (s : State) : Out := s.alu1 d a (fun x => BitVec.ofNat 64 (clz64 x.toNat))
def execCtz (d a : Reg) (s : State) : Out := s.alu1 d a (fun x => BitVec.ofNat 64 (ctzLoop 64 x.toNat))
def execPopc (d a : Reg) (s : State) : Out := s.alu1 d a (fun x => BitVec.ofNat 64 (popLoop 64 x.toNat))
/-- The width code is 0 byte, 1 half, 2 word (R291). -/
def execSext (d a : Reg) (w : BitVec 6) (s : State) : Out := s.alu1 d a (sextW w.toNat)
def execZext (d a : Reg) (w : BitVec 6) (s : State) : Out := s.alu1 d a (zextW w.toNat)

/-! ## Immediate forms (Table 16-3) -/

def execAddi (d a : Reg) (imm : BitVec 14) (s : State) : Out := s.alu1 d a (fun x => x + simm14 imm)
def execAndi (d a : Reg) (imm : BitVec 14) (s : State) : Out := s.alu1 d a (fun x => x &&& zimm14 imm)
def execOri (d a : Reg) (imm : BitVec 14) (s : State) : Out := s.alu1 d a (fun x => x ||| zimm14 imm)
def execXori (d a : Reg) (imm : BitVec 14) (s : State) : Out := s.alu1 d a (fun x => x ^^^ zimm14 imm)
def execSlti (d a : Reg) (imm : BitVec 14) (s : State) : Out := s.alu1 d a (fun x => bit (x.slt (simm14 imm)))
def execSltiu (d a : Reg) (imm : BitVec 14) (s : State) : Out := s.alu1 d a (fun x => bit (x.ult (simm14 imm)))
def execSlli (d a : Reg) (sh : BitVec 6) (s : State) : Out := s.alu1 d a (fun x => x <<< sh.toNat)
def execSrli (d a : Reg) (sh : BitVec 6) (s : State) : Out := s.alu1 d a (fun x => x >>> sh.toNat)
def execSrai (d a : Reg) (sh : BitVec 6) (s : State) : Out := s.alu1 d a (fun x => x.sshiftRight sh.toNat)

/-- LI: s[d] := sext(imm20) (R294). -/
def execLi (d : Reg) (imm : BitVec 20) (s : State) : Out := .next (s.result d (imm.signExtend 64))

/-- LIH: s[d] := cat(s[d][43:0], imm20) (R294). -/
def execLih (d : Reg) (imm : BitVec 20) (s : State) : Out :=
  .next (s.result d ((s.get d).extractLsb' 0 44 ++ imm))

end Sys2Proof.Machine
end

