-- ==== Sys2Proof/Machine/Atomic.lean ====
section
/-! DEFINITION. Atomics (R313): the sites of Table 10-3 (R174 to R176) and AtomicOps at the host root (R58, R396, R397). -/

namespace Sys2Proof.Machine

/-- The thirteen operations in the order of fn4 (Table 15-7). -/
inductive AtomOp where
  | add
  | and
  | or
  | xor
  | min
  | max
  | minu
  | maxu
  | xchg
  | cas
  | fadd
  | fmin
  | fmax
  deriving DecidableEq, Repr

/-- The code of an operation (fn4, Table 15-7), as a pending AtomicOp records it. -/
def AtomOp.code : AtomOp → Nat
  | .add => 0
  | .and => 1
  | .or => 2
  | .xor => 3
  | .min => 4
  | .max => 5
  | .minu => 6
  | .maxu => 7
  | .xchg => 8
  | .cas => 9
  | .fadd => 10
  | .fmin => 11
  | .fmax => 12

/-- A floating-point operation on two elements of format `f`. -/
def atomFp (f : Fmt) (g : Val → Val → Val × NumFlags) (old v : Nat) : Nat × NumFlags :=
  finish f .rne false 0 (g (f.val old) (f.val v))

/-- The new value and the numeric flags of an operation on `w` bytes (R313). -/
def AtomOp.apply (op : AtomOp) (w old v cmp : Nat) : Nat × NumFlags :=
  let m := 2 ^ (8 * w)
  let f : Fmt := if w = 8 then .f64 else .f32
  match op with
  | .add => ((old + v) % m, 0)
  | .and => (old &&& v, 0)
  | .or => (old ||| v, 0)
  | .xor => (old ^^^ v, 0)
  | .min => (if sint (8 * w) old ≤ sint (8 * w) v then old else v, 0)
  | .max => (if sint (8 * w) v ≤ sint (8 * w) old then old else v, 0)
  | .minu => (if old ≤ v then old else v, 0)
  | .maxu => (if v ≤ old then old else v, 0)
  | .xchg => (v, 0)
  | .cas => (if old = cmp then v else old, 0)
  | .fadd => atomFp f vadd old v
  | .fmin => atomFp f (fun x y => (vmin x y, 0)) old v
  | .fmax => atomFp f (fun x y => (vmax x y, 0)) old v

/-- Whether the operation writes memory: a CAS that fails does not (R313). -/
def AtomOp.writes (op : AtomOp) (old cmp : Nat) : Bool := decide (op ≠ .cas) || decide (old = cmp)

/-- Whether a scratchpad's atomic unit has the operation (Table 10-3). -/
def AtomOp.atScratch (op : AtomOp) (w : Nat) : Bool :=
  match op with
  | .xchg | .cas => true
  | .fadd | .fmin | .fmax => false
  | _ => decide (w = 4)

/-- Whether the host root has the operation (Table 10-3). -/
def AtomOp.atHost (op : AtomOp) : Bool := decide (op = .add ∨ op = .xchg ∨ op = .cas)

/-- An atomic of `w` bytes at an address through a handle (R307, R313). -/
def State.atom (s : State) (op : AtomOp) (w : Nat) (d : Reg) (h : BitVec 4) (a b : Reg) : Out :=
  let c := s.actor.core
  let k := s.me
  let ea := s.strand.ea h.toNat (s.get a) 0
  let m := 2 ^ (8 * w)
  let v := (s.get b).toNat % m
  let cmp := (s.get d).toNat % m
  .next (s.run (
    if h = 15 then do
      let p ← s.onChip k.fn k.ctx ea w true
      match p.2 with
      | .scratch off =>
        need (op.atScratch w) (.event 9 ea)
        let old := s.sval p.1 off w
        let s := if op.writes old cmp then (s.placeWrite p.1 p.2 w (op.apply w old v cmp).1).1 else s
        .ok (s.result d (BitVec.ofNat 64 old))
      | _ => .error (.event 9 ea)
    else do
      let p ← s.pageOf h.toNat ea w .atomic
      if p.1.mtype = .hosts then
        need op.atHost (.event 9 ea)
        s.aliasGate c false ea (ea + w)
        s.accessCheck k.fn (some c) p.1 ea w true
        let req : HostsAtom := { core := c, addr := p.1.at ea, va := ea, base := p.1.base, size := p.1.size, w := w, op := op.code, d := d,
                                 v := BitVec.ofNat 64 v, cmp := BitVec.ofNat 64 cmp }
        .ok ((({ s.keepHandle h.toNat p.2 with hostsAtoms := s.hostsAtoms ++ [req] } : State).noteWrite k.fn p.1 ea).onStrand
          (fun t => { t with status := .waitHosts, stalled := true }))
      else
        s.aliasGate c false ea (ea + w)
        s.accessCheck k.fn (some c) p.1 ea w true
        let old := ofBytes (s.readVia p.1 ea w)
        let r := op.apply w old v cmp
        let s := s.keepHandle h.toNat p.2
        let s := if op.writes old cmp then s.storeVia p.1 ea (toBytes w r.1) 
          else (s.noteWrite k.fn p.1 ea).ownLine k.fn (dieOf c) (some c) .e p.1 ea
        .ok ((s.orFlags r.2).result d (BitVec.ofNat 64 old))))

/-- ATOM32.ADD (R313). -/
def execAtom32Add (d : Reg) (h : BitVec 4) (a b : Reg) (s : State) : Out := s.atom .add 4 d h a b

/-- ATOM32.AND (R313). -/
def execAtom32And (d : Reg) (h : BitVec 4) (a b : Reg) (s : State) : Out := s.atom .and 4 d h a b

/-- ATOM32.OR (R313). -/
def execAtom32Or (d : Reg) (h : BitVec 4) (a b : Reg) (s : State) : Out := s.atom .or 4 d h a b

/-- ATOM32.XOR (R313). -/
def execAtom32Xor (d : Reg) (h : BitVec 4) (a b : Reg) (s : State) : Out := s.atom .xor 4 d h a b

/-- ATOM32.MIN (R313). -/
def execAtom32Min (d : Reg) (h : BitVec 4) (a b : Reg) (s : State) : Out := s.atom .min 4 d h a b

/-- ATOM32.MAX (R313). -/
def execAtom32Max (d : Reg) (h : BitVec 4) (a b : Reg) (s : State) : Out := s.atom .max 4 d h a b

/-- ATOM32.MINU (R313). -/
def execAtom32Minu (d : Reg) (h : BitVec 4) (a b : Reg) (s : State) : Out := s.atom .minu 4 d h a b

/-- ATOM32.MAXU (R313). -/
def execAtom32Maxu (d : Reg) (h : BitVec 4) (a b : Reg) (s : State) : Out := s.atom .maxu 4 d h a b

/-- ATOM32.XCHG (R313). -/
def execAtom32Xchg (d : Reg) (h : BitVec 4) (a b : Reg) (s : State) : Out := s.atom .xchg 4 d h a b

/-- ATOM32.CAS (R313). -/
def execAtom32Cas (d : Reg) (h : BitVec 4) (a b : Reg) (s : State) : Out := s.atom .cas 4 d h a b

/-- ATOM32.FADD (R313). -/
def execAtom32Fadd (d : Reg) (h : BitVec 4) (a b : Reg) (s : State) : Out := s.atom .fadd 4 d h a b

/-- ATOM32.FMIN (R313). -/
def execAtom32Fmin (d : Reg) (h : BitVec 4) (a b : Reg) (s : State) : Out := s.atom .fmin 4 d h a b

/-- ATOM32.FMAX (R313). -/
def execAtom32Fmax (d : Reg) (h : BitVec 4) (a b : Reg) (s : State) : Out := s.atom .fmax 4 d h a b

/-- ATOM64.ADD (R313). -/
def execAtom64Add (d : Reg) (h : BitVec 4) (a b : Reg) (s : State) : Out := s.atom .add 8 d h a b

/-- ATOM64.AND (R313). -/
def execAtom64And (d : Reg) (h : BitVec 4) (a b : Reg) (s : State) : Out := s.atom .and 8 d h a b

/-- ATOM64.OR (R313). -/
def execAtom64Or (d : Reg) (h : BitVec 4) (a b : Reg) (s : State) : Out := s.atom .or 8 d h a b

/-- ATOM64.XOR (R313). -/
def execAtom64Xor (d : Reg) (h : BitVec 4) (a b : Reg) (s : State) : Out := s.atom .xor 8 d h a b

/-- ATOM64.MIN (R313). -/
def execAtom64Min (d : Reg) (h : BitVec 4) (a b : Reg) (s : State) : Out := s.atom .min 8 d h a b

/-- ATOM64.MAX (R313). -/
def execAtom64Max (d : Reg) (h : BitVec 4) (a b : Reg) (s : State) : Out := s.atom .max 8 d h a b

/-- ATOM64.MINU (R313). -/
def execAtom64Minu (d : Reg) (h : BitVec 4) (a b : Reg) (s : State) : Out := s.atom .minu 8 d h a b

/-- ATOM64.MAXU (R313). -/
def execAtom64Maxu (d : Reg) (h : BitVec 4) (a b : Reg) (s : State) : Out := s.atom .maxu 8 d h a b

/-- ATOM64.XCHG (R313). -/
def execAtom64Xchg (d : Reg) (h : BitVec 4) (a b : Reg) (s : State) : Out := s.atom .xchg 8 d h a b

/-- ATOM64.CAS (R313). -/
def execAtom64Cas (d : Reg) (h : BitVec 4) (a b : Reg) (s : State) : Out := s.atom .cas 8 d h a b

/-- ATOM64.FADD (R313). -/
def execAtom64Fadd (d : Reg) (h : BitVec 4) (a b : Reg) (s : State) : Out := s.atom .fadd 8 d h a b

/-- ATOM64.FMIN (R313). -/
def execAtom64Fmin (d : Reg) (h : BitVec 4) (a b : Reg) (s : State) : Out := s.atom .fmin 8 d h a b

/-- ATOM64.FMAX (R313). -/
def execAtom64Fmax (d : Reg) (h : BitVec 4) (a b : Reg) (s : State) : Out := s.atom .fmax 8 d h a b

/-- HOSTS_ATOMIC_COMPLETION (R396, R397): the host root's answer retires the ATOM with the old value and the new value
stands at the host; Unsupported Request or Completer Abort takes 0x09. -/
def execHostsAtomicCompletion (core : Nat) (ok : Bool) (s : State) : Out :=
  .next (match s.hostsAtoms.find? (fun r => decide (r.core = core)) with
    | none => s
    | some r =>
      let s := { s with hostsAtoms := s.hostsAtoms.filter (fun x => decide (x.core ≠ core)) }
      if !ok then s.trapOf core 9 r.va
      else
        let old := mval s.hostMem r.addr r.w
        let op : AtomOp := if r.op = 0 then .add else if r.op = 8 then .xchg else .cas
        let s := if op.writes old r.cmp.toNat
          then { s with hostMem := mwrite s.hostMem r.addr (toBytes r.w (op.apply r.w old r.v.toNat r.cmp.toNat).1) }
          else s
        s.onStrandOf core (fun t => (t.set r.d (BitVec.ofNat 64 old)).retired))

end Sys2Proof.Machine
end

