-- ==== Sys2Proof/Machine/Control.lean ====
section
/-! DEFINITION. Branches, jumps and the hardware loop (R298 to R301). -/

namespace Sys2Proof.Machine

/-- Branch by `off` words if the condition on s[a] and s[b] holds, else go on (R298). A branch that is not taken does
not set PC itself (R300). -/
def State.branch (s : State) (a b : Reg) (off : BitVec 14) (f : Word → Word → Bool) : Out :=
  .next (if f (s.get a) (s.get b) then s.jump (pcAdd s.strand.pc off.toInt) else s.retire)

def execBeq (a b : Reg) (off : BitVec 14) (s : State) : Out := s.branch a b off (fun x y => decide (x = y))
def execBne (a b : Reg) (off : BitVec 14) (s : State) : Out := s.branch a b off (fun x y => decide (x ≠ y))
def execBlt (a b : Reg) (off : BitVec 14) (s : State) : Out := s.branch a b off (fun x y => x.slt y)
def execBge (a b : Reg) (off : BitVec 14) (s : State) : Out := s.branch a b off (fun x y => !x.slt y)
def execBltu (a b : Reg) (off : BitVec 14) (s : State) : Out := s.branch a b off (fun x y => x.ult y)
def execBgeu (a b : Reg) (off : BitVec 14) (s : State) : Out := s.branch a b off (fun x y => !x.ult y)

/-- PC + 4 as a link value. -/
def linkOf (pc : Va) : Word := (pcAdd pc 1).setWidth 64

/-- JAL (R299). -/
def execJal (d : Reg) (off : BitVec 20) (s : State) : Out :=
  .next ((s.set d (linkOf s.strand.pc)).jump (pcAdd s.strand.pc off.toInt))

/-- The target of JALR: s[a] + 4 × sext(imm14). -/
def jalrTarget (base : Word) (imm : BitVec 14) : Word := base + (imm.signExtend 64 <<< 2)

/-- JALR: a target that is not a multiple of 4 takes 0x03 and writes nothing (R299). -/
def execJalr (d a : Reg) (imm : BitVec 14) (s : State) : Out :=
  let target := jalrTarget (s.get a) imm
  if target.toNat % 4 ≠ 0 then .next (s.trap 3 target.toNat)
  else .next ((s.set d (linkOf s.strand.pc)).jump (target.setWidth 57))

/-- Whether R300 refuses a LOOP whose body ends at `last`: three entries are valid, or the top entry ends no later. -/
def loopRefused (loops : List LoopEntry) (last : Va) : Bool :=
  match loops with
  | [] => false
  | e :: rest => decide (2 ≤ rest.length) || decide (e.last.toNat ≤ last.toNat)

/-- LOOP (R300, R301): skip for a zero count; otherwise push and enter the body, unless R300 refuses it. -/
def execLoop (a : Reg) (off : BitVec 14) (s : State) : Out :=
  let t := s.strand
  let last := pcAdd t.pc off.toInt
  if s.get a = 0 then .next (s.jump (pcAdd last 1))
  else if loopRefused t.loops last then .next (s.trap 1 (wordOf (.loop a off)).toNat)
  else
    .next ((s.onStrand (fun t => { t with loops := { pc := t.pc, reg := a, last := last } :: t.loops })).jump
      (pcAdd t.pc 1))

end Sys2Proof.Machine
end

