-- ==== Sys2Proof/Machine/Fpu.lean ====
section
/-! DEFINITION. Scalar floating point (R295 to R297). -/

namespace Sys2Proof.Machine

/-- The format that fn8[7] selects (R295). -/
def fpFmt (dbl : Bool) : Fmt := if dbl then .f64 else .f32

/-- An operand: s[r][31:0] or s[r] (R295). -/
def fpArg (dbl : Bool) (v : Word) : Val := (fpFmt dbl).val (if dbl then v.toNat else v.toNat % 2 ^ 32)

/-- Write a rounded result, OR its flags and retire (R225, R295). -/
def State.fpResult (s : State) (d : Reg) (r : Nat × NumFlags) : Out :=
  .next ((s.orFlags r.2).result d (BitVec.ofNat 64 r.1))

/-- A two-operand operation rounded once in RNE. -/
def State.fp2 (s : State) (dbl : Bool) (d a b : Reg) (f : Val → Val → Val × NumFlags) : Out :=
  s.fpResult d (finish (fpFmt dbl) .rne false 0 (f (fpArg dbl (s.get a)) (fpArg dbl (s.get b))))

/-- A compare: 1 or 0, no flag. -/
def State.fpCmp (s : State) (dbl : Bool) (d a b : Reg) (f : Val → Val → Bool) : Out :=
  .next (s.result d (if f (fpArg dbl (s.get a)) (fpArg dbl (s.get b)) then 1 else 0))

def execFadd (dbl : Bool) (d a b : Reg) (s : State) : Out := s.fp2 dbl d a b vadd
def execFsub (dbl : Bool) (d a b : Reg) (s : State) : Out := s.fp2 dbl d a b vsub
def execFmul (dbl : Bool) (d a b : Reg) (s : State) : Out := s.fp2 dbl d a b vmul
def execFdiv (dbl : Bool) (d a b : Reg) (s : State) : Out := s.fp2 dbl d a b vdiv
def execFsqrt (dbl : Bool) (d a : Reg) (s : State) : Out :=
  s.fpResult d (finish (fpFmt dbl) .rne false 0 (vsqrt (fpArg dbl (s.get a))))
def execFmin (dbl : Bool) (d a b : Reg) (s : State) : Out := s.fp2 dbl d a b (fun x y => (vmin x y, 0))
def execFmax (dbl : Bool) (d a b : Reg) (s : State) : Out := s.fp2 dbl d a b (fun x y => (vmax x y, 0))
/-- FMA: the addend is s[d] (Table 16-4). -/
def execFma (dbl : Bool) (d a b : Reg) (s : State) : Out :=
  s.fp2 dbl d a b (fun x y => vfma x y (fpArg dbl (s.get d)))
def execFcmpeq (dbl : Bool) (d a b : Reg) (s : State) : Out := s.fpCmp dbl d a b veq
def execFcmplt (dbl : Bool) (d a b : Reg) (s : State) : Out := s.fpCmp dbl d a b vlt
def execFcmple (dbl : Bool) (d a b : Reg) (s : State) : Out := s.fpCmp dbl d a b (fun x y => vlt x y || veq x y)

/-- The class mask of Table 16-5. -/
def fclass (dbl : Bool) (v : Word) : Nat :=
  let mb := if dbl then 52 else 23
  let eb := if dbl then 11 else 8
  let e := field v mb eb
  let t := field v 0 mb
  let neg := v.getLsbD (mb + eb)
  let k :=
    if e = 2 ^ eb - 1 then (if t ≠ 0 then 8 else if neg then 0 else 7)
    else if e = 0 then (if t = 0 then (if neg then 3 else 4) else (if neg then 2 else 5))
    else (if neg then 1 else 6)
  2 ^ k

def execFclass (dbl : Bool) (d a : Reg) (s : State) : Out :=
  .next (s.result d (BitVec.ofNat 64 (fclass dbl (s.get a))))

/-- The source value and target format of a conversion kind (Table 16-6). -/
def fcvtKind (dbl : Bool) (kind : Nat) (v : Word) : Val × Fmt :=
  match kind with
  | 0 => (fpArg dbl v, .i64)
  | 1 => (fpArg dbl v, .u64)
  | 2 => (Fmt.i64.val v.toNat, fpFmt dbl)
  | 3 => (Fmt.u64.val v.toNat, fpFmt dbl)
  | 4 => (fpArg dbl v, fpFmt (!dbl))
  | 5 => (fpArg dbl v, .bf16)
  | 6 => (fpArg dbl v, .f16)
  | _ => ((if dbl then Fmt.f16 else Fmt.bf16).val (v.toNat % 65536), .f32)

/-- FCVT: b[2:0] the kind, b[5:3] the mode (R297). In mode SR the draw comes from STRSTATE, which takes the final x
(R220), but for a conversion of kind 7. -/
def execFcvt (dbl : Bool) (d a : Reg) (code : BitVec 6) (s : State) : Out :=
  let c := fcvtKind dbl (code.toNat % 8) (s.get a)
  match modeOf (code.toNat / 8) with
  | some .sr =>
    -- a conversion of kind 7 is exact and the mode has no effect on it (Table 16-6)
    if code.toNat % 8 = 7 then s.fpResult d (roundVal c.2 .rne false 0 c.1) else
    let x := srDraw s.strand.strState
    (s.onStrand (fun t => { t with strState := x })).fpResult d (roundVal c.2 .sr false (x.toNat / 65536) c.1)
  | some m => s.fpResult d (roundVal c.2 m false 0 c.1)
  | none => .next (s.trap 1 (wordOf (.fcvt dbl d a code)).toNat)

end Sys2Proof.Machine
end

