-- ==== Sys2Proof/Machine/Hyper.lean ====
section
/-! DEFINITION. Hypervisor commands of the PF: die maps and dirty logs (R82, R86 to R89), keys, windows and second-tier
frames (R96, R105, R108, R113), the scheduler, semaphores, roots and scope policy (R126, R143, R181, R197), the fabric
(R28), resets, attestation, field tests and injection (R66, R70, R72, R73); and what completes commands later. -/

namespace Sys2Proof.Machine

/-! ## Guest dies and dirty logs (R82, R86, R89) -/

/-- GDIE_SET: one entry of a function's guest-die table (R82). -/
def execGdieSet (cmd : AdminCmd) (s : State) : Out :=
  let f := arg cmd 8 2
  let e := arg cmd 10 1
  let v := arg cmd 12 4
  .next (s.pf cmd (
    if 63 < f ∨ 63 < e ∨ 2 ^ 17 ≤ v ∨ (nbit v 16 ∧ nbit v 15 ∧ nbits v 12 3 = 0) then s.complete cmd 3 0
    else (s.onFn f (fun x => { x with guestDies := sset (guestDefault e) x.guestDies e (BitVec.ofNat 32 v) })).complete cmd 0 0))

/-- The effect of DLOG_SET (R86, R89): enabling clears TAIL and LOST and reads HEAD; disabling completes an outstanding
DLOG_ARM. -/
def State.dlogSet (s : State) (c : AdminCmd) : State :=
  let f := arg c 8 2
  let ring := arg c 16 8
  if nbit (arg c 11 1) 0 then
    let s := ((s.pfPut ring (toBytes 4 0)).pfPut (ring + 16) [0]).pfNote (ring + 8) 4
    let head := s.pfVal (ring + 8) 4
    (s.onFn f (fun x => { x with dlog := { x.dlog with en := true, log2n := arg c 10 1, ring := ring, tail := 0, head := head, lost := false } })).complete c 0 0
  else
    let d := (s.fn f).dlog
    let s := match d.armed with
      | some cid => s.postAdm 0 cid.toNat 0 0 d.tail
      | none => s
    (s.onFn f (fun x => { x with dlog := { x.dlog with en := false, armed := none } })).complete c 0 0

/-- DLOG_SET: it waits while a context switch of the function is in progress (R94). -/
def execDlogSet (cmd : AdminCmd) (s : State) : Out :=
  let f := arg cmd 8 2
  let n := arg cmd 10 1
  let on := nbit (arg cmd 11 1) 0
  .next (s.pf cmd (
    if 63 < f ∨ (on ∧ (n < 8 ∨ 20 < n ∨ arg cmd 16 8 % 4096 ≠ 0)) then s.complete cmd 3 0
    else if (s.fn f).switching.isSome then { s with pending := s.pending ++ [{ cmd := cmd, begun := false }] }
    else s.dlogSet cmd))

/-- DLOG_ARM: HEAD is read again; the entry is posted when the log is next full, or at once (R89). -/
def execDlogArm (cmd : AdminCmd) (s : State) : Out :=
  let f := arg cmd 8 2
  .next (s.pf cmd (
    if 63 < f then s.complete cmd 3 0
    else if (s.fn f).dlog.armed.isSome then s.complete cmd 4 0
    else
      let s := s.pfNote ((s.fn f).dlog.ring + 8) 4
      let head := s.pfVal ((s.fn f).dlog.ring + 8) 4
      let s := s.onFn f (fun x => { x with dlog := { x.dlog with head := head } })
      let d := (s.fn f).dlog
      if d.en && d.full then s.complete cmd 0 d.tail
      else s.onFn f (fun x => { x with dlog := { x.dlog with armed := some cmd.cid } })))

/-- Whether an armed log has become full (R89). -/
def DirtyLog.due (d : DirtyLog) : Bool := d.en && d.full && d.armed.isSome

/-- DLOG_ARM_COMPLETION: the armed log is full; RESULT is TAIL (R89). -/
def execDlogArmCompletion (fn : Nat) (s : State) : Out :=
  let d := (s.fn fn).dlog
  .next (match d.armed with
    | some cid =>
      if d.due then (s.onFn fn (fun x => { x with dlog := { x.dlog with armed := none } })).postAdm 0 cid.toNat 0 0 d.tail else s
    | none => s)

/-! ## Keys (R95, R96) -/

/-- Bytes 32 to 63 of the command's entry in the PF's ADMSQ are overwritten with zero (R96, R108). -/
def State.wipeKey (s : State) : State :=
  let b := s.queue 0 0
  if !b.en then s
  else match s.queueWalk 0 0 ((b.dev + b.size - 1) % b.size) .write with
    | .ok (mt, a) => s.putPa 0 mt (a + 32) (List.replicate 32 0)
    | .error e => s.noteWalk 0 e

/-- A key slot takes a key or is cleared. -/
def State.putKey (s : State) (slot : Nat) (k : Option (BitVec 256)) : State :=
  match k with
  | some v => { s with keys := sput s.keys slot v }
  | none => { s with keys := serase s.keys slot }

/-- KEY_LOAD: loads, generates or clears a tenant key (R96). What was written under another key fails its checks at its next
access (R99, R104, R106). -/
def execKeyLoad (cmd : AdminCmd) (s : State) : Out :=
  let slot := arg cmd 8 1
  let mode := arg cmd 9 1
  let key := if mode = 0 then some (BitVec.ofNat 256 (arg cmd 32 32)) else if mode = 1 then some (Config.randomKey s.tick) else none
  .next (s.pf cmd (
    if slot = 0 ∨ 63 < slot ∨ 2 < mode ∨ arg cmd 10 22 ≠ 0 ∨ (mode ≠ 0 ∧ arg cmd 32 32 ≠ 0) then s.wipeKey.complete cmd 3 0
    else if (s.fn slot).part.valid then s.wipeKey.complete cmd 4 0
    else (s.putKey slot key).wipeKey.complete cmd 0 0))

/-! ## Windows (R108, R113) -/

/-- The participants of a window. -/
def Window.members (w : Window) : List Nat := (upto 64).filter w.participant

/-- The window that a WIN_CREATE asks for (Table 7-5). -/
def windowOfCmd (c : AdminCmd) : Window :=
  { owner := arg c 9 1, home := arg c 10 1, readers := BitVec.ofNat 64 (arg c 16 8), frame0 := arg c 12 4, count := arg c 24 2,
    sem := arg c 28 4 % 65536 }

/-- Whether WIN_CREATE is refused (R108). MODE 1 with KEY bytes that are not zero is refused too (log 106). -/
def State.winBad (s : State) (c : AdminCmd) : Bool :=
  let n := arg c 8 1
  let w := windowOfCmd c
  let frames := (upto w.count).map (fun i => w.frame0 + i)
  let g := groupOf w.frame0
  let range := sget (0, 0) (s.fn w.owner).semRange w.home
  decide (63 < n ∨ w.owner = 0 ∨ 63 < w.owner ∨ 3 < w.home ∨ 1 < arg c 11 1 ∨ w.count = 0 ∨ 512 < w.count ∨ arg c 26 2 ≠ 0
    ∨ 65536 ≤ arg c 28 4 ∨ (arg c 11 1 = 1 ∧ arg c 32 32 ≠ 0))
  || (s.window n).isSome || bmem w.readers 0 || bmem w.readers w.owner
  || decide (8 < ((upto 64).filter (bmem w.readers)).length)
  || !frames.all (fun x => decide (x < 16 * 32768 ∧ groupOf x = g) && (s.windowOf x).isNone)
  || decide (groupDie g ≠ w.home) || !(bmem (s.fn w.owner).part.pcg g && !bmem s.retiredGroups g)
  || w.members.any (fun f => decide ((s.fn f).part.way w.home = 0))
  || (s.windowSem (semKey w.home w.sem)).isSome
  || !decide (range.1 ≤ w.sem ∧ w.sem < range.1 + range.2)

/-- The frames of a window. -/
def Window.frames (w : Window) : List Frames := [(w.frame0, w.count)]

/-- WIN_CREATE: the key, the frames re-keyed and empty, the window semaphore at 0 (R108). -/
def execWinCreate (cmd : AdminCmd) (s : State) : Out :=
  let n := arg cmd 8 1
  let w := windowOfCmd cmd
  .next (s.pf cmd (
    if s.winBad cmd then s.complete cmd 3 0
    else
      let key := if arg cmd 11 1 = 0 then BitVec.ofNat 256 (arg cmd 32 32) else Config.randomKey s.tick
      let s := ((s.putKey (64 + n) (some key)).shootFrames (fun f => decide (f = w.owner)) w.frames).reinit w.frames
      let s := { s with windows := sput s.windows n w }.semWrite (semKey w.home w.sem) 0
      s.wipeKey.complete cmd 0 0))

/-- WIN_DESTROY: the key slot is empty, translations are gone, the frames return to the owner empty, the semaphore is 0
with its waiters still blocked (R113). -/
def execWinDestroy (cmd : AdminCmd) (s : State) : Out :=
  let n := arg cmd 8 1
  .next (s.pf cmd (match s.window n with
    | none => s.complete cmd 3 0
    | some w =>
      let s := ((s.putKey (64 + n) none).shootFrames w.participant w.frames).reinit w.frames
      { s with windows := serase s.windows n, sems := sset 0 s.sems (semKey w.home w.sem) 0 }.complete cmd 0 0))

/-! ## Second-tier frames (R105) -/

/-- T2_ASSIGN: frames leave their function, are reinitialised and belong to `f` (R105). -/
def execT2Assign (cmd : AdminCmd) (s : State) : Out :=
  let f := arg cmd 8 2
  let p := arg cmd 10 1
  let first := arg cmd 16 8
  let n := arg cmd 24 4
  let hit : List Frames := [(t2Key p first, n)]
  .next (s.pf cmd (
    if 63 < f ∨ 3 < p ∨ n = 0 ∨ bmem s.start.ports p ∨ sget 0 s.config.frames p < first + n then s.complete cmd 3 0
    else
      let s := (s.shootFrames (fun _ => true) hit).reinit hit
      { s with tier2 := (upto n).foldl (fun m i => sset 0 m (t2Key p (first + i)) (f + 1)) s.tier2 }.complete cmd 0 0))

/-! ## Scheduler, semaphores, roots, scopes (R126, R143, R181, R197) -/

/-- SCHED_SET (R126). -/
def execSchedSet (cmd : AdminCmd) (s : State) : Out :=
  let a := arg cmd 8 4
  let b := arg cmd 12 4
  .next (s.pf cmd (
    if a < 250 ∨ 16000 < a ∨ b < 5 ∨ 1000 < b then s.complete cmd 3 0
    else { s with slice := a, pdl := b }.complete cmd 0 0))

/-- SEM_RANGE: a function's general range on a die (R143). -/
def execSemRange (cmd : AdminCmd) (s : State) : Out :=
  let f := arg cmd 8 2
  let d := arg cmd 10 1
  let base := arg cmd 12 2
  let n := arg cmd 14 2
  let clash := (upto 64).any (fun g =>
    let r := sget (0, 0) (s.fn g).semRange d
    decide (g ≠ f ∧ 0 < n ∧ 0 < r.2 ∧ base < r.1 + r.2 ∧ r.1 < base + n))
  .next (s.pf cmd (
    if 63 < f ∨ 3 < d ∨ base < 6144 ∨ 65536 < base + n then s.complete cmd 3 0
    else if clash then s.complete cmd 3 0
    else (s.onFn f (fun x => { x with semRange := sset (0, 0) x.semRange d (base, n) })).complete cmd 0 0))

/-- S2ROOT_SET: the root of a function's stage-2 tables; every translation of the function is gone (R181). -/
def execS2rootSet (cmd : AdminCmd) (s : State) : Out :=
  let f := arg cmd 8 2
  let root := arg cmd 16 8
  .next (s.pf cmd (
    if 63 < f ∨ root % 4096 ≠ 0 then s.complete cmd 3 0
    else ((s.onFn f (fun x => { x with s2root := some root })).shootdown (fun g _ => decide (g = f)) (fun _ => true)
      (fun _ => true)).complete cmd 0 0))

/-- SCOPE_SET: a function's scope policy (R197). -/
def execScopeSet (cmd : AdminCmd) (s : State) : Out :=
  let f := arg cmd 8 2
  let v := arg cmd 16 8
  .next (s.pf cmd (
    if 63 < f ∨ 4 ≤ v then s.complete cmd 3 0
    else (s.onFn f (fun x => { x with winok := nbit v 0, sysok := nbit v 1 })).complete cmd 0 0))

/-! ## The fabric (R28) -/

/-- FABRIC_PEER: the package's own peer number (R28). -/
def execFabricPeer (cmd : AdminCmd) (s : State) : Out :=
  let v := arg cmd 8 2
  let open' := s.fabric.transfers.any (fun t => !t.done || t.packets.any (fun p => !p.answered))
  let exports := s.fns.any (fun e => e.2.exports.any (fun x => x.2.valid))
  .next (s.pf cmd (
    if !s.config.fabricOn || decide (1024 ≤ v) then s.complete cmd 3 0
    else if open' || exports then s.complete cmd 4 0
    else (s.onFabric (fun g => { g with peer := v })).complete cmd 0 0))

/-- ROUTE_SET: the ports that lead to a peer (R28). -/
def execRouteSet (cmd : AdminCmd) (s : State) : Out :=
  let v := arg cmd 8 2
  let m := arg cmd 16 8
  .next (s.pf cmd (
    if !s.config.fabricOn || decide (1024 ≤ v ∨ 2 ^ 36 ≤ m) || (upto 36).any (fun p => nbit m p && (s.port p).retired) then
      s.complete cmd 3 0
    else (s.onFabric (fun g => { g with routes := sset 0 g.routes v (BitVec.ofNat 36 m) })).complete cmd 0 0))

/-! ## Die resets, attestation, field tests, injection (R66, R70, R72, R73) -/

/-- Whether a command's reset or test of a die is in progress (R70). -/
def State.dieBusy (s : State) (d : Nat) : Bool := s.dieResets.any (fun e => decide (e.1 = d) && e.2.isSome)

/-- DIE_RESET: completes when the reset has (R70). -/
def execDieReset (cmd : AdminCmd) (s : State) : Out :=
  let d := arg cmd 8 1
  .next (s.pf cmd (
    if 3 < d ∨ arg cmd 9 55 ≠ 0 then s.complete cmd 3 0
    else if s.dieBusy d then s.complete cmd 4 0
    else s.dieReset d (some cmd.cid)))

/-- What an attestation report signs: the nonce, the firmware digest, the digest of the record, START, the certificate (log 72).
A digest's octets stand from its least significant one on (log 102). -/
def State.reportBody (s : State) (nonce : Nat) : List Byte :=
  toBytes 32 nonce ++ toBytes 32 (s.config.digest.getD 0).toNat ++ toBytes 32 (sha256 s.config.record).toNat
    ++ toBytes 8 s.start.word ++ Config.certificate 0

/-- ATTEST: the report and its signature in a buffer of 20 KiB (R66). -/
def execAttest (cmd : AdminCmd) (s : State) : Out :=
  let body := s.reportBody (arg cmd 8 32)
  let report := (body ++ Config.slhSign (sget 0 s.config.identity 0) body).take 20480
  .next (s.pf cmd (match s.gpaWrite 0 (arg cmd 40 8) 20480 report with
    | none => (s.gpaNote 0 true (arg cmd 40 8) 20480).complete cmd 3 0
    | some t => t.complete cmd 0 report.length))

/-- The units of a die that a field test finds faulty. -/
def State.faultyUnits (s : State) (d : Nat) : List Nat := (upto 81).filter (Config.fieldTestFails s.tick d)

/-- A cluster is retired: the nodes with a gang resident in it are requeued, or failed with FAILED_CORE_RESET (R67, R90). -/
def State.retireCluster (s : State) (k : Nat) : State :=
  let hit (n : TaskNode) : List Nat := ((s.gangsOf n).flatMap Gang.cores).filter (fun c => decide (c / 8 = k))
  let s' := { s with retiredClusters := bset s.retiredClusters k }
  s.nodes.foldl (fun t n =>
    match hit n with
    | [] => t
    | c :: _ =>
      if n.status ≠ 0 then t.completeNode n.fn n.q n.idx
      else
        let m : ResetMark := { die := false, unit := c, pc := (s.core c).strand.pc }
        (t.resetNode n m).resetOutcome n m) s'

/-- A faulty unit is retired (R90). -/
def State.retireUnit (d : Nat) (s : State) (u : Nat) : State :=
  if u < 8 then s.retireCluster (8 * d + u)
  else if u < 56 then { s with retiredGroups := bset s.retiredGroups (48 * d + (u - 8)) }
  else if u < 72 then { s with retiredAgents := bset s.retiredAgents (16 * d + (u - 56)) }
  else s.retirePort (9 * d + (u - 72))

/-- FIELD_TEST: a signed package on a die that no partition owns a cluster of; the result bits, the retirements, the
shedding, and the die reset with which the command completes (R72, R90, R91). On a die that is being reset or tested it gives
STATUS 4 (log 103). -/
def execFieldTest (cmd : AdminCmd) (s : State) : Out :=
  let d := arg cmd 8 1
  let owned := (upto 64).any (fun f => (upto 8).any (fun c => s.ownsCluster f (8 * d + c)))
  .next (s.pf cmd (
    if 3 < d then s.complete cmd 3 0
    else if owned || s.dieBusy d then s.complete cmd 4 0
    else match s.gpaRead 0 (arg cmd 16 8) 4096 with
      | none => (s.gpaNote 0 false (arg cmd 16 8) 4096).complete cmd 3 0
      | some pkg =>
        let bad := s.faultyUnits d
        let bits := bad.foldl (fun n u => n + 2 ^ u) 0
        if !Config.packageSigned pkg then s.complete cmd 3 0
        else match s.gpaWrite 0 (arg cmd 24 8) 4096 (toBytes 4096 bits) with
          | none => (s.gpaNote 0 true (arg cmd 24 8) 4096).complete cmd 3 0
          | some t => (bad.foldl (State.retireUnit d) t).shedNow.dieReset d (some cmd.cid)))

/-- INJECT: arms the injector of a test VF (R73). -/
def execInject (cmd : AdminCmd) (s : State) : Out :=
  let f := arg cmd 8 2
  let kind := arg cmd 10 2
  .next (s.pf cmd (
    if f = 0 ∨ 63 < f ∨ kind = 0 ∨ 4 < kind ∨ !((s.fn f).part.valid && (s.fn f).part.test) then s.complete cmd 3 0
    else
      let i : Injector := { fn := f, kind := kind, seed := BitVec.ofNat 64 (arg cmd 16 8), count := arg cmd 24 4, made := 0,
                            since := s.cycle }
      ({ s with injectors := s.injectors ++ [i] } : State).complete cmd 0 0))

/-- The cores that a function owns. -/
def State.ownCores (s : State) (f : Nat) : List Nat := (upto Config.cores).filter (fun c => s.ownsCluster f (c / 8))

/-- The first frames of the groups that a function owns. -/
def State.ownFrames (s : State) (f : Nat) : List Nat :=
  ((upto 192).filter (fun g => bmem (s.fn f).part.pcg g && !bmem s.retiredGroups g)).map groupFirst

/-- An injection is due. -/
def Injector.due (i : Injector) (now : Nat) : Bool :=
  decide (i.made < i.count ∧ i.since + Config.injectDelay i.seed i.kind i.made ≤ now)

/-- The core in whose units an injection lands. -/
def State.injectCore (s : State) (i : Injector) : Nat :=
  let cs := s.ownCores i.fn
  cs.getD (Config.injectUnit i.seed i.kind i.made % max 1 cs.length) 0

/-- One injection lands in a unit that the VF owns: a corrected or uncorrectable error of a core's scratchpad, a strike on
a matrix engine, or a line that will fail its check (R73). -/
def State.injectOne (s : State) (i : Injector) : State :=
  let u := Config.injectUnit i.seed i.kind i.made
  let cs := s.ownCores i.fn
  let c := s.injectCore i
  let e : ErrorReport := { cause := if i.kind = 2 then 0x20 else 0, kind := 1, unit := BitVec.ofNat 16 (coreInDie c),
                           fn := BitVec.ofNat 6 i.fn, addr := BitVec.ofNat 64 (u / 256 % 0x200000) }
  let bank := 6 + coreInDie c / 8
  -- a core of a shared cluster may hold another VF's strand, which no injection touches
  let mine := decide ((s.core c).fn = i.fn)
  if i.kind = 4 then
    (match s.ownFrames i.fn with
     | [] => s
     | fs =>
       let l := fs.getD (u % fs.length) 0 * 32768 + u / 256 % 32768
       s.poisonLines (l, l + 1))
  else if cs.isEmpty then s
  else if i.kind = 1 then s.bankError (dieOf c) bank e false
  else if i.kind = 2 then
    (let s := s.bankError (dieOf c) bank e true
     if mine then s.uncorrected (dieOf c) e c else s)
  else if mine then s.resetEngine c 1 true else s

/-- Injections of one cycle in the order of R260: uncorrectable errors first, then by ascending UNIT. -/
def State.inOrder (s : State) : List Injector → List Injector
  | [] => []
  | i :: rest =>
    let key (i : Injector) : Nat := (if i.kind = 2 then 0 else 64) + coreInDie (s.injectCore i)
    let l := State.inOrder s rest
    l.takeWhile (fun j => decide (key j < key i)) ++ i :: l.dropWhile (fun j => decide (key j < key i))

/-- The injections that are due, one of each injector; one that has made them all is gone. An armed injector outlives its test
partition (log 104). -/
def State.injectDue (s : State) : State :=
  let due := s.injectors.filter (fun i => i.due s.cycle)
  let next := s.injectors.map (fun (i : Injector) => if i.due s.cycle then { i with made := i.made + 1 } else i)
  let s := { s with injectors := next.filter (fun i => decide (i.made < i.count)) }
  (s.inOrder due).foldl State.injectOne s

/-! ## Commands that complete later -/

/-- A command that waits for its function's context switch, or that waits for gangs to leave. -/
def State.settleCommand (s : State) (p : Pending) : State :=
  if p.cmd.opc = 5 then s.settleInval p.cmd
  else if p.cmd.opc = 3 then s.settleExport p
  else if p.begun then s.settlePart p.cmd
  else if (s.fn (arg p.cmd 8 2)).switching.isSome then s
  else if p.cmd.opc = 0x40 then
    ({ s with pending := s.pending.filter (fun q => decide (q ≠ p)) } : State).complete p.cmd 4 0
  else ({ s with pending := s.pending.filter (fun q => decide (q ≠ p)) } : State).dlogSet p.cmd

/-- Context switches, shedding and commands go as far as they can. -/
def State.settleAdmin (s : State) : State :=
  let s := (s.fns.filter (fun e => e.2.switching.isSome)).foldl (fun s e => s.settleSwitch e.1) s
  let s := if s.fns.any (fun e => e.2.shedDue) then s.settleShed else s
  s.pending.foldl State.settleCommand s

end Sys2Proof.Machine
end

