-- ==== Sys2Proof/Machine/Dispatch.lean ====
section
/-! DEFINITION. One arm per instruction: the meaning of each. -/

namespace Sys2Proof.Machine

/-- What an instruction does (R1 to R406), one arm per constructor of `Instr`. -/
def exec (i : Instr) (s : State) : Host.Outcome State Fault Refusal :=
  match i with
  | .add d a b => Sys2Proof.Machine.execAdd d a b s
  | .sub d a b => Sys2Proof.Machine.execSub d a b s
  | .and d a b => Sys2Proof.Machine.execAnd d a b s
  | .or d a b => Sys2Proof.Machine.execOr d a b s
  | .xor d a b => Sys2Proof.Machine.execXor d a b s
  | .andn d a b => Sys2Proof.Machine.execAndn d a b s
  | .sll d a b => Sys2Proof.Machine.execSll d a b s
  | .srl d a b => Sys2Proof.Machine.execSrl d a b s
  | .sra d a b => Sys2Proof.Machine.execSra d a b s
  | .mul d a b => Sys2Proof.Machine.execMul d a b s
  | .mulhu d a b => Sys2Proof.Machine.execMulhu d a b s
  | .mulhs d a b => Sys2Proof.Machine.execMulhs d a b s
  | .div d a b => Sys2Proof.Machine.execDiv d a b s
  | .divu d a b => Sys2Proof.Machine.execDivu d a b s
  | .rem d a b => Sys2Proof.Machine.execRem d a b s
  | .remu d a b => Sys2Proof.Machine.execRemu d a b s
  | .min d a b => Sys2Proof.Machine.execMin d a b s
  | .max d a b => Sys2Proof.Machine.execMax d a b s
  | .minu d a b => Sys2Proof.Machine.execMinu d a b s
  | .maxu d a b => Sys2Proof.Machine.execMaxu d a b s
  | .slt d a b => Sys2Proof.Machine.execSlt d a b s
  | .sltu d a b => Sys2Proof.Machine.execSltu d a b s
  | .seq d a b => Sys2Proof.Machine.execSeq d a b s
  | .clz d a => Sys2Proof.Machine.execClz d a s
  | .ctz d a => Sys2Proof.Machine.execCtz d a s
  | .popc d a => Sys2Proof.Machine.execPopc d a s
  | .sext d a w => Sys2Proof.Machine.execSext d a w s
  | .zext d a w => Sys2Proof.Machine.execZext d a w s
  | .addi d a imm => Sys2Proof.Machine.execAddi d a imm s
  | .andi d a imm => Sys2Proof.Machine.execAndi d a imm s
  | .ori d a imm => Sys2Proof.Machine.execOri d a imm s
  | .xori d a imm => Sys2Proof.Machine.execXori d a imm s
  | .slti d a imm => Sys2Proof.Machine.execSlti d a imm s
  | .sltiu d a imm => Sys2Proof.Machine.execSltiu d a imm s
  | .slli d a sh => Sys2Proof.Machine.execSlli d a sh s
  | .srli d a sh => Sys2Proof.Machine.execSrli d a sh s
  | .srai d a sh => Sys2Proof.Machine.execSrai d a sh s
  | .li d imm => Sys2Proof.Machine.execLi d imm s
  | .lih d imm => Sys2Proof.Machine.execLih d imm s
  | .fadd dbl d a b => Sys2Proof.Machine.execFadd dbl d a b s
  | .fsub dbl d a b => Sys2Proof.Machine.execFsub dbl d a b s
  | .fmul dbl d a b => Sys2Proof.Machine.execFmul dbl d a b s
  | .fdiv dbl d a b => Sys2Proof.Machine.execFdiv dbl d a b s
  | .fsqrt dbl d a => Sys2Proof.Machine.execFsqrt dbl d a s
  | .fmin dbl d a b => Sys2Proof.Machine.execFmin dbl d a b s
  | .fmax dbl d a b => Sys2Proof.Machine.execFmax dbl d a b s
  | .fma dbl d a b => Sys2Proof.Machine.execFma dbl d a b s
  | .fcmpeq dbl d a b => Sys2Proof.Machine.execFcmpeq dbl d a b s
  | .fcmplt dbl d a b => Sys2Proof.Machine.execFcmplt dbl d a b s
  | .fcmple dbl d a b => Sys2Proof.Machine.execFcmple dbl d a b s
  | .fclass dbl d a => Sys2Proof.Machine.execFclass dbl d a s
  | .fcvt dbl d a code => Sys2Proof.Machine.execFcvt dbl d a code s
  | .beq a b off => Sys2Proof.Machine.execBeq a b off s
  | .bne a b off => Sys2Proof.Machine.execBne a b off s
  | .blt a b off => Sys2Proof.Machine.execBlt a b off s
  | .bge a b off => Sys2Proof.Machine.execBge a b off s
  | .bltu a b off => Sys2Proof.Machine.execBltu a b off s
  | .bgeu a b off => Sys2Proof.Machine.execBgeu a b off s
  | .jal d off => Sys2Proof.Machine.execJal d off s
  | .jalr d a imm => Sys2Proof.Machine.execJalr d a imm s
  | .loop a off => Sys2Proof.Machine.execLoop a off s
  | .mfs d num => Sys2Proof.Machine.execMfs d num s
  | .mts d num => Sys2Proof.Machine.execMts d num s
  | .vdq d a b => Sys2Proof.Machine.execVdq d a b s
  | .sflag d a => Sys2Proof.Machine.execSflag d a s
  | .rdid d sel => Sys2Proof.Machine.execRdid d sel s
  | .ld d h w x a imm => Sys2Proof.Machine.execLd d h w x a imm s
  | .st b h w a imm => Sys2Proof.Machine.execSt b h w a imm s
  | .lds d w x a imm => Sys2Proof.Machine.execLds d w x a imm s
  | .sts d w a imm => Sys2Proof.Machine.execSts d w a imm s
  | .pf h w x a imm => Sys2Proof.Machine.execPf h w x a imm s
  | .trans h a => Sys2Proof.Machine.execTrans h a s
  | .hinv h => Sys2Proof.Machine.execHinv h s
  | .hqry d h => Sys2Proof.Machine.execHqry d h s
  | .atom32Add d h a b => Sys2Proof.Machine.execAtom32Add d h a b s
  | .atom32And d h a b => Sys2Proof.Machine.execAtom32And d h a b s
  | .atom32Or d h a b => Sys2Proof.Machine.execAtom32Or d h a b s
  | .atom32Xor d h a b => Sys2Proof.Machine.execAtom32Xor d h a b s
  | .atom32Min d h a b => Sys2Proof.Machine.execAtom32Min d h a b s
  | .atom32Max d h a b => Sys2Proof.Machine.execAtom32Max d h a b s
  | .atom32Minu d h a b => Sys2Proof.Machine.execAtom32Minu d h a b s
  | .atom32Maxu d h a b => Sys2Proof.Machine.execAtom32Maxu d h a b s
  | .atom32Xchg d h a b => Sys2Proof.Machine.execAtom32Xchg d h a b s
  | .atom32Cas d h a b => Sys2Proof.Machine.execAtom32Cas d h a b s
  | .atom32Fadd d h a b => Sys2Proof.Machine.execAtom32Fadd d h a b s
  | .atom32Fmin d h a b => Sys2Proof.Machine.execAtom32Fmin d h a b s
  | .atom32Fmax d h a b => Sys2Proof.Machine.execAtom32Fmax d h a b s
  | .atom64Add d h a b => Sys2Proof.Machine.execAtom64Add d h a b s
  | .atom64And d h a b => Sys2Proof.Machine.execAtom64And d h a b s
  | .atom64Or d h a b => Sys2Proof.Machine.execAtom64Or d h a b s
  | .atom64Xor d h a b => Sys2Proof.Machine.execAtom64Xor d h a b s
  | .atom64Min d h a b => Sys2Proof.Machine.execAtom64Min d h a b s
  | .atom64Max d h a b => Sys2Proof.Machine.execAtom64Max d h a b s
  | .atom64Minu d h a b => Sys2Proof.Machine.execAtom64Minu d h a b s
  | .atom64Maxu d h a b => Sys2Proof.Machine.execAtom64Maxu d h a b s
  | .atom64Xchg d h a b => Sys2Proof.Machine.execAtom64Xchg d h a b s
  | .atom64Cas d h a b => Sys2Proof.Machine.execAtom64Cas d h a b s
  | .atom64Fadd d h a b => Sys2Proof.Machine.execAtom64Fadd d h a b s
  | .atom64Fmin d h a b => Sys2Proof.Machine.execAtom64Fmin d h a b s
  | .atom64Fmax d h a b => Sys2Proof.Machine.execAtom64Fmax d h a b s
  | .lease h a => Sys2Proof.Machine.execLease h a s
  | .unlease d => Sys2Proof.Machine.execUnlease d s
  | .fence kind scope win => Sys2Proof.Machine.execFence kind scope win s
  | .rcfence => Sys2Proof.Machine.execRcfence s
  | .swait eq a b => Sys2Proof.Machine.execSwait eq a b s
  | .ssig a b => Sys2Proof.Machine.execSsig a b s
  | .sread d a => Sys2Proof.Machine.execSread d a s
  | .sinit a b => Sys2Proof.Machine.execSinit a b s
  | .salias n a => Sys2Proof.Machine.execSalias n a s
  | .waitq d h a => Sys2Proof.Machine.execWaitq d h a s
  | .wake d h a b => Sys2Proof.Machine.execWake d h a b s
  | .bar => Sys2Proof.Machine.execBar s
  | .enq ring a b => Sys2Proof.Machine.execEnq ring a b s
  | .ringq d ring field => Sys2Proof.Machine.execRingq d ring field s
  | .pdef q a => Sys2Proof.Machine.execPdef q a s
  | .padv q => Sys2Proof.Machine.execPadv q s
  | .take d lvl b => Sys2Proof.Machine.execTake d lvl b s
  | .lntw slot eng a => Sys2Proof.Machine.execLntw slot eng a s
  | .lntgo slot eng => Sys2Proof.Machine.execLntgo slot eng s
  | .fmtw e a => Sys2Proof.Machine.execFmtw e a s
  | .tld td a => Sys2Proof.Machine.execTld td a s
  | .tlds td a => Sys2Proof.Machine.execTlds td a s
  | .tfill td a fmt => Sys2Proof.Machine.execTfill td a fmt s
  | .tmm ofmt td ta tb => Sys2Proof.Machine.execTmm ofmt td ta tb s
  | .tmms ofmt td ta tb => Sys2Proof.Machine.execTmms ofmt td ta tb s
  | .tewAdd td ta tb => Sys2Proof.Machine.execTewAdd td ta tb s
  | .tewSub td ta tb => Sys2Proof.Machine.execTewSub td ta tb s
  | .tewMul td ta tb => Sys2Proof.Machine.execTewMul td ta tb s
  | .tewDiv td ta tb => Sys2Proof.Machine.execTewDiv td ta tb s
  | .tewMax td ta tb => Sys2Proof.Machine.execTewMax td ta tb s
  | .tewMin td ta tb => Sys2Proof.Machine.execTewMin td ta tb s
  | .tunExp td ta => Sys2Proof.Machine.execTunExp td ta s
  | .tunLog td ta => Sys2Proof.Machine.execTunLog td ta s
  | .tunRcp td ta => Sys2Proof.Machine.execTunRcp td ta s
  | .tunRsq td ta => Sys2Proof.Machine.execTunRsq td ta s
  | .tunTanh td ta => Sys2Proof.Machine.execTunTanh td ta s
  | .tunSilu td ta => Sys2Proof.Machine.execTunSilu td ta s
  | .tunNeg td ta => Sys2Proof.Machine.execTunNeg td ta s
  | .tunAbs td ta => Sys2Proof.Machine.execTunAbs td ta s
  | .tcvt mode td ta fmt => Sys2Proof.Machine.execTcvt mode td ta fmt s
  | .tred isMax axis td ta => Sys2Proof.Machine.execTred isMax axis td ta s
  | .tsel td ta tb => Sys2Proof.Machine.execTsel td ta tb s
  | .tmap td ta m sr => Sys2Proof.Machine.execTmap td ta m sr s
  | .mapset m a => Sys2Proof.Machine.execMapset m a s
  | .maprow row m a b => Sys2Proof.Machine.execMaprow row m a b s
  | .tstore sp ta b => Sys2Proof.Machine.execTstore sp ta b s
  | .force wait ta b => Sys2Proof.Machine.execForce wait ta b s
  | .tdrop ta => Sys2Proof.Machine.execTdrop ta s
  | .tqry d ta sel => Sys2Proof.Machine.execTqry d ta sel s
  | .tarena a b => Sys2Proof.Machine.execTarena a b s
  | .trap n => Sys2Proof.Machine.execTrap n s
  | .eret => Sys2Proof.Machine.execEret s
  | .exit => Sys2Proof.Machine.execExit s
  | .pause a => Sys2Proof.Machine.execPause a s
  | .wfe d a => Sys2Proof.Machine.execWfe d a s
  | .pyld => Sys2Proof.Machine.execPyld s
  | .ctxsv d a => Sys2Proof.Machine.execCtxsv d a s
  | .ctxld a => Sys2Proof.Machine.execCtxld a s
  | .live a => Sys2Proof.Machine.execLive a s
  | .dbgbrk => Sys2Proof.Machine.execDbgbrk s
  | .vmov word => Sys2Proof.Machine.execVmov word s
  | .vadd word => Sys2Proof.Machine.execVadd word s
  | .vsub word => Sys2Proof.Machine.execVsub word s
  | .vmul word => Sys2Proof.Machine.execVmul word s
  | .vfma word => Sys2Proof.Machine.execVfma word s
  | .vdiv word => Sys2Proof.Machine.execVdiv word s
  | .vmin word => Sys2Proof.Machine.execVmin word s
  | .vmax word => Sys2Proof.Machine.execVmax word s
  | .vabs word => Sys2Proof.Machine.execVabs word s
  | .vneg word => Sys2Proof.Machine.execVneg word s
  | .vexp word => Sys2Proof.Machine.execVexp word s
  | .vlog word => Sys2Proof.Machine.execVlog word s
  | .vrcp word => Sys2Proof.Machine.execVrcp word s
  | .vrsq word => Sys2Proof.Machine.execVrsq word s
  | .vtanh word => Sys2Proof.Machine.execVtanh word s
  | .vsilu word => Sys2Proof.Machine.execVsilu word s
  | .vcmp word => Sys2Proof.Machine.execVcmp word s
  | .vsel word => Sys2Proof.Machine.execVsel word s
  | .vand word => Sys2Proof.Machine.execVand word s
  | .vor word => Sys2Proof.Machine.execVor word s
  | .vxor word => Sys2Proof.Machine.execVxor word s
  | .vshl word => Sys2Proof.Machine.execVshl word s
  | .vshr word => Sys2Proof.Machine.execVshr word s
  | .vcvt word => Sys2Proof.Machine.execVcvt word s
  | .vqnt word => Sys2Proof.Machine.execVqnt word s
  | .vrsum word => Sys2Proof.Machine.execVrsum word s
  | .vrmax word => Sys2Proof.Machine.execVrmax word s
  | .vscan word => Sys2Proof.Machine.execVscan word s
  | .vgath word => Sys2Proof.Machine.execVgath word s
  | .vscat word => Sys2Proof.Machine.execVscat word s
  | .vhins word => Sys2Proof.Machine.execVhins word s
  | .vhdrn word => Sys2Proof.Machine.execVhdrn word s
  | .vdrn word => Sys2Proof.Machine.execVdrn word s
  | .vadv word => Sys2Proof.Machine.execVadv word s
  | .vnop word => Sys2Proof.Machine.execVnop word s
  | .mma word => Sys2Proof.Machine.execMma word s
  | .mmas word => Sys2Proof.Machine.execMmas word s
  | .mspm word => Sys2Proof.Machine.execMspm word s
  | .mzero word => Sys2Proof.Machine.execMzero word s
  | .mcmt word => Sys2Proof.Machine.execMcmt word s
  | .mnop word => Sys2Proof.Machine.execMnop word s
  | .ccopy word => Sys2Proof.Machine.execCcopy word s
  | .ccvt word => Sys2Proof.Machine.execCcvt word s
  | .cgath word => Sys2Proof.Machine.execCgath word s
  | .cscat word => Sys2Proof.Machine.execCscat word s
  | .cfill word => Sys2Proof.Machine.execCfill word s
  | .csend word => Sys2Proof.Machine.execCsend word s
  | .cred word => Sys2Proof.Machine.execCred word s
  | .csub word => Sys2Proof.Machine.execCsub word s
  | .cdrain word => Sys2Proof.Machine.execCdrain word s
  | .sgath word => Sys2Proof.Machine.execSgath word s
  | .sred word => Sys2Proof.Machine.execSred word s
  | .scvt word => Sys2Proof.Machine.execScvt word s
  | .cnop word => Sys2Proof.Machine.execCnop word s
  | .wordConfirm core ring => Sys2Proof.Machine.execWordConfirm core ring s
  | .semaphoreWake die idx => Sys2Proof.Machine.execSemaphoreWake die idx s
  | .stealRequest thief victim => Sys2Proof.Machine.execStealRequest thief victim s
  | .stealAnswer thief => Sys2Proof.Machine.execStealAnswer thief s
  | .pauseEnd core => Sys2Proof.Machine.execPauseEnd core s
  | .wfeWake core => Sys2Proof.Machine.execWfeWake core s
  | .wfeLimitExpiry core => Sys2Proof.Machine.execWfeLimitExpiry core s
  | .leaseExpiry core => Sys2Proof.Machine.execLeaseExpiry core s
  | .walkComplete core h => Sys2Proof.Machine.execWalkComplete core h s
  | .launchRecordFetch fn q => Sys2Proof.Machine.execLaunchRecordFetch fn q s
  | .gangPlace die cluster => Sys2Proof.Machine.execGangPlace die cluster s
  | .sliceEnd die cluster cycles => Sys2Proof.Machine.execSliceEnd die cluster cycles s
  | .clusterIdleSelect die cluster => Sys2Proof.Machine.execClusterIdleSelect die cluster s
  | .drainDeadline gang => Sys2Proof.Machine.execDrainDeadline gang s
  | .gangSave core => Sys2Proof.Machine.execGangSave core s
  | .saveTimeout core => Sys2Proof.Machine.execSaveTimeout core s
  | .gangRestore gang die cluster => Sys2Proof.Machine.execGangRestore gang die cluster s
  | .instanceComplete gang => Sys2Proof.Machine.execInstanceComplete gang s
  | .watchdogExpiry core ring => Sys2Proof.Machine.execWatchdogExpiry core ring s
  | .parityError core ring => Sys2Proof.Machine.execParityError core ring s
  | .protocolAlarm core ring => Sys2Proof.Machine.execProtocolAlarm core ring s
  | .strikeReport core unit => Sys2Proof.Machine.execStrikeReport core unit s
  | .rollingReset core ring => Sys2Proof.Machine.execRollingReset core ring s
  | .engineResetDone core ring => Sys2Proof.Machine.execEngineResetDone core ring s
  | .arbiterAlarm die => Sys2Proof.Machine.execArbiterAlarm die s
  | .dieResetDone die => Sys2Proof.Machine.execDieResetDone die s
  | .correctedError die bank err => Sys2Proof.Machine.execCorrectedError die bank err s
  | .uncorrectableError die bank err => Sys2Proof.Machine.execUncorrectableError die bank err s
  | .coldStart => Sys2Proof.Machine.execColdStart s
  | .warmStart => Sys2Proof.Machine.execWarmStart s
  | .startStepDone outcome => Sys2Proof.Machine.execStartStepDone outcome s
  | .supplyLoss alwaysOnLost => Sys2Proof.Machine.execSupplyLoss alwaysOnLost s
  | .powerStateRequest die target => Sys2Proof.Machine.execPowerStateRequest die target s
  | .voltageRampDone die => Sys2Proof.Machine.execVoltageRampDone die s
  | .clockSwitchDone die => Sys2Proof.Machine.execClockSwitchDone die s
  | .thermalClampEngage die => Sys2Proof.Machine.execThermalClampEngage die s
  | .thermalClampRelease die => Sys2Proof.Machine.execThermalClampRelease die s
  | .junctionPowerRemoval => Sys2Proof.Machine.execJunctionPowerRemoval s
  | .pwrmeasSample watts => Sys2Proof.Machine.execPwrmeasSample watts s
  | .stallSample die active mem sync => Sys2Proof.Machine.execStallSample die active mem sync s
  | .peakwRead => Sys2Proof.Machine.execPeakwRead s
  | .queueEnable fn q value => Sys2Proof.Machine.execQueueEnable fn q value s
  | .queueDisable fn q value => Sys2Proof.Machine.execQueueDisable fn q value s
  | .queueDoorbell fn q value => Sys2Proof.Machine.execQueueDoorbell fn q value s
  | .queueStatusRead fn q => Sys2Proof.Machine.execQueueStatusRead fn q s
  | .faultRetry fn fid => Sys2Proof.Machine.execFaultRetry fn fid s
  | .faultFail fn fid => Sys2Proof.Machine.execFaultFail fn fid s
  | .errorBankStatusRead die bank => Sys2Proof.Machine.execErrorBankStatusRead die bank s
  | .errorBankClear die bank => Sys2Proof.Machine.execErrorBankClear die bank s
  | .ringConfigWrite core ring value => Sys2Proof.Machine.execRingConfigWrite core ring value s
  | .ringStatusRead core ring => Sys2Proof.Machine.execRingStatusRead core ring s
  | .registerWrite fn off value => Sys2Proof.Machine.execRegisterWrite fn off value s
  | .hostBar2Read fn off len => Sys2Proof.Machine.execHostBar2Read fn off len s
  | .hostBar2Write fn off data => Sys2Proof.Machine.execHostBar2Write fn off data s
  | .hostAtomicop fn off width op v cmp => Sys2Proof.Machine.execHostAtomicop fn off width op v cmp s
  | .hostSnoop addr invalidate => Sys2Proof.Machine.execHostSnoop addr invalidate s
  | .hostOwnershipRequest dpa => Sys2Proof.Machine.execHostOwnershipRequest dpa s
  | .hostLineReturn dpa => Sys2Proof.Machine.execHostLineReturn dpa s
  | .hostsAtomicCompletion core ok => Sys2Proof.Machine.execHostsAtomicCompletion core ok s
  | .flitReceive port raw => Sys2Proof.Machine.execFlitReceive port raw s
  | .retryRequestReceive port seq => Sys2Proof.Machine.execRetryRequestReceive port seq s
  | .portRetrain port => Sys2Proof.Machine.execPortRetrain port s
  | .portRetrainDone port ok => Sys2Proof.Machine.execPortRetrainDone port ok s
  | .routeChange die0 die1 => Sys2Proof.Machine.execRouteChange die0 die1 s
  | .fabricWritePacket port vftag pkt => Sys2Proof.Machine.execFabricWritePacket port vftag pkt s
  | .fabricSignalPacket port vftag pkt => Sys2Proof.Machine.execFabricSignalPacket port vftag pkt s
  | .fabricSignalApply peer xfer => Sys2Proof.Machine.execFabricSignalApply peer xfer s
  | .fabricReducePacket port vftag pkt => Sys2Proof.Machine.execFabricReducePacket port vftag pkt s
  | .reductionSlotComplete fn die region slot => Sys2Proof.Machine.execReductionSlotComplete fn die region slot s
  | .fabricAck port vftag pkt => Sys2Proof.Machine.execFabricAck port vftag pkt s
  | .fabricNak port vftag pkt => Sys2Proof.Machine.execFabricNak port vftag pkt s
  | .functionLevelReset fn => Sys2Proof.Machine.execFunctionLevelReset fn s
  | .ctxCreate cmd => Sys2Proof.Machine.execCtxCreate cmd s
  | .ctxDestroy cmd => Sys2Proof.Machine.execCtxDestroy cmd s
  | .exportSet cmd => Sys2Proof.Machine.execExportSet cmd s
  | .ctxSwitch cmd => Sys2Proof.Machine.execCtxSwitch cmd s
  | .invalRange cmd => Sys2Proof.Machine.execInvalRange cmd s
  | .adminReservedOpcode cmd => Sys2Proof.Machine.execAdminReservedOpcode cmd s
  | .partSet cmd => Sys2Proof.Machine.execPartSet cmd s
  | .partQuery cmd => Sys2Proof.Machine.execPartQuery cmd s
  | .gdieSet cmd => Sys2Proof.Machine.execGdieSet cmd s
  | .dlogSet cmd => Sys2Proof.Machine.execDlogSet cmd s
  | .dlogArm cmd => Sys2Proof.Machine.execDlogArm cmd s
  | .dlogArmCompletion fn => Sys2Proof.Machine.execDlogArmCompletion fn s
  | .keyLoad cmd => Sys2Proof.Machine.execKeyLoad cmd s
  | .winCreate cmd => Sys2Proof.Machine.execWinCreate cmd s
  | .winDestroy cmd => Sys2Proof.Machine.execWinDestroy cmd s
  | .t2Assign cmd => Sys2Proof.Machine.execT2Assign cmd s
  | .schedSet cmd => Sys2Proof.Machine.execSchedSet cmd s
  | .semRange cmd => Sys2Proof.Machine.execSemRange cmd s
  | .s2rootSet cmd => Sys2Proof.Machine.execS2rootSet cmd s
  | .scopeSet cmd => Sys2Proof.Machine.execScopeSet cmd s
  | .fabricPeer cmd => Sys2Proof.Machine.execFabricPeer cmd s
  | .routeSet cmd => Sys2Proof.Machine.execRouteSet cmd s
  | .dieReset cmd => Sys2Proof.Machine.execDieReset cmd s
  | .attest cmd => Sys2Proof.Machine.execAttest cmd s
  | .fieldTest cmd => Sys2Proof.Machine.execFieldTest cmd s
  | .inject cmd => Sys2Proof.Machine.execInject cmd s
  | .coreResetDone core => Sys2Proof.Machine.execCoreResetDone core s
  | .illegalInstruction word => Sys2Proof.Machine.execIllegalInstruction word s
  | .reservedEngineOpcode word => Sys2Proof.Machine.execReservedEngineOpcode word s

end Sys2Proof.Machine
end

