-- ==== Sys2Proof/Machine/Fetch.lean ====
section
/-! DEFINITION. What a step runs: the host's and the world's inputs, the device's own events that are due (R2 bounds
them, the model takes them in a fixed order), and the turns of strands and engines; fetching a strand's instruction
(R182, R268) and an engine's word (R137, R141). -/

namespace Sys2Proof.Machine

/-! ## Inputs -/

/-- A core of the package. -/
def realCore (c : Nat) : Bool := decide (c < Config.cores)

/-- Whether the host's BARs are open: a start has completed (R59, R61). -/
def State.hostUp (s : State) (f : Nat) : Bool := s.start.done && decide (f < 64)

/-- Whether the host link carries CXL and requests of the device: not after a failed start, which leaves it in PCIe mode with
only the PF's configuration space, nor during a start (R61). -/
def State.hostLink (s : State) : Bool := !s.start.fail && (s.start.done || decide (s.start.step = 0))

/-- Whether an error comes to the bank that its KIND and UNIT are assigned to, with its number there (R258, Table 14-4). -/
def inBank (e : ErrorReport) (d b : Nat) : Bool :=
  let u := e.unit.toNat
  match e.kind.toNat with
  | 1 | 2 | 3 | 4 => decide (u < 64 ∧ b = 6 + u / 8)
  | 5 | 6 => decide (b = 4)
  | 7 | 8 => decide (bankOfDpa e.addr.toNat = (d, b) ∧ b < 4 ∧ u = unitOfDpa e.addr.toNat)
  | 9 | 10 => decide (b = 5)
  | 11 | 12 => decide (b = 14)
  | 13 => decide (b = 15)
  | _ => false

/-- Whether an input is one that the world outside the device, or its own sensors, may give in this state. Every other
instruction is a strand's, an engine's or the device's own step. -/
def State.accepts (s : State) (i : Instr) : Bool :=
  match i with
  | .coldStart | .warmStart | .startStepDone _ | .supplyLoss _ | .junctionPowerRemoval => true
  | .pwrmeasSample _ | .stallSample _ _ _ _ | .thermalClampEngage _ | .thermalClampRelease _ => true
  | .watchdogExpiry c _ | .parityError c _ | .protocolAlarm c _ | .strikeReport c _ | .rollingReset c _ => realCore c
  | .arbiterAlarm _ => true
  | .correctedError d b e => inBank e (d % 4) (b % 16) && decide (e.cause = 0)
  | .uncorrectableError d b e => inBank e (d % 4) (b % 16) && decide (0x20 ≤ e.cause.toNat ∧ e.cause.toNat ≤ 0x24)
  | .routeChange _ _ => true
  | .flitReceive _ _ | .retryRequestReceive _ _ | .portRetrainDone _ _ | .reductionSlotComplete _ _ _ _ => true
  | .hostSnoop _ _ | .hostOwnershipRequest _ | .hostLineReturn _ | .hostsAtomicCompletion _ _ => s.hostLink
  | .powerStateRequest _ _ | .peakwRead | .errorBankStatusRead _ _ | .errorBankClear _ _ => s.hostUp 0
  | .ringConfigWrite c _ _ | .ringStatusRead c _ => s.hostUp 0 && realCore c
  | .queueEnable f _ _ | .queueDisable f _ _ | .queueDoorbell f _ _ | .queueStatusRead f _ => s.hostUp f
  | .faultRetry f _ | .faultFail f _ | .registerWrite f _ _ | .functionLevelReset f => s.hostUp f
  | .hostBar2Read f _ _ | .hostBar2Write f _ _ | .hostAtomicop f _ _ _ _ _ => s.hostUp f
  | _ => false

/-- The bank of an error that an input reports, and its place among the errors of one cycle (R260). -/
def errorOrder (i : Instr) : Option (Nat × Nat) :=
  match i with
  | .uncorrectableError d b e => some (16 * (d % 4) + b % 16, e.unit.toNat)
  | .correctedError d b e => some (16 * (d % 4) + b % 16, 65536 + e.unit.toNat)
  | _ => none

/-- The input that comes next and those after it: of errors that come to one bank together, the uncorrectable ones first, and
then in ascending UNIT order (R260). -/
def nextInput (i : Instr) (rest : List Instr) : Instr × List Instr :=
  match errorOrder i with
  | none => (i, rest)
  | some (b, _) =>
    let run := rest.takeWhile (fun j => decide ((errorOrder j).map Prod.fst = some b))
    let key (j : Instr) : Nat := ((errorOrder j).map Prod.snd).getD 0
    let first := run.foldl (fun m j => if key j < key m then j else m) i
    (first, (i :: rest).erase first)

/-! ## Admin commands (R50, Table 4-5) -/

/-- The command in an ADMSQ entry of function `f`. DESIGN CHOICE (log 88): bytes 1 and 4 to 7, which are reserved and whose
treatment no rule states, are ignored. -/
def cmdOfBytes (f : Nat) (b : List Byte) : AdminCmd :=
  { fn := f, opc := BitVec.ofNat 8 (bytesAt b 0 1), cid := BitVec.ofNat 16 (bytesAt b 2 2), ops := BitVec.ofNat 448 (bytesAt b 8 56) }

/-! What a step may come to run. The rows that come from an ADMSQ entry and from a received packet are told apart only
when they run, by the meanings below. -/

/-- What a step runs. -/
inductive Chosen where
  /-- nothing: an input that may not come now, or an agent with nothing to do -/
  | idle
  /-- an instruction of a strand or an engine, an input, an event that is due -/
  | instr (i : Instr)
  /-- the command in an ADMSQ entry -/
  | admin (c : AdminCmd)
  /-- a packet that a port has received -/
  | packet (p : RxPacket)
  deriving DecidableEq, Repr

/-- Run an admin command by its opcode (Table 4-5): a VF's hypervisor opcode and a reserved one are refused (R50). -/
def runAdmin (c : AdminCmd) (s : State) : Host.Outcome State Fault Refusal :=
  if c.fn ≠ 0 ∧ 0x40 ≤ c.opc.toNat then execAdminReservedOpcode c s
  else match c.opc.toNat with
  | 0x01 => execCtxCreate c s
  | 0x02 => execCtxDestroy c s
  | 0x03 => execExportSet c s
  | 0x04 => execCtxSwitch c s
  | 0x05 => execInvalRange c s
  | 0x40 => execPartSet c s
  | 0x41 => execPartQuery c s
  | 0x42 => execGdieSet c s
  | 0x43 => execDlogSet c s
  | 0x44 => execDlogArm c s
  | 0x45 => execKeyLoad c s
  | 0x46 => execWinCreate c s
  | 0x47 => execWinDestroy c s
  | 0x48 => execT2Assign c s
  | 0x49 => execSchedSet c s
  | 0x4A => execSemRange c s
  | 0x4B => execS2rootSet c s
  | 0x4C => execScopeSet c s
  | 0x4D => execFabricPeer c s
  | 0x4E => execRouteSet c s
  | 0x4F => execDieReset c s
  | 0x60 => execAttest c s
  | 0x61 => execFieldTest c s
  | 0x62 => execInject c s
  | _ => execAdminReservedOpcode c s

/-- Run a received packet by its TYPE (Table 3-4). -/
def runPacket (p : RxPacket) (s : State) : Host.Outcome State Fault Refusal :=
  match p.pkt.type.toNat with
  | 2 => execFabricSignalPacket p.port p.vftag p.pkt s
  | 3 => execFabricReducePacket p.port p.vftag p.pkt s
  | 4 => execFabricAck p.port p.vftag p.pkt s
  | 5 => execFabricNak p.port p.vftag p.pkt s
  | _ => execFabricWritePacket p.port p.vftag p.pkt s

/-- The next admin command of function `f`, with DEVIDX past its entry. -/
def State.adminFetch (s : State) (f : Nat) : Option (State × Chosen) :=
  let b := s.queue f 0
  if b.en && decide (b.dev ≠ b.host) then
    let (s, bytes) := s.entryRead f 0
    some (s.onQueue f 0 (fun b => { b with dev := (b.dev + 1) % b.size }), Chosen.admin (cmdOfBytes f bytes))
  else none

/-! ## Events that are due -/

/-- A waiter that its semaphore's value satisfies (R144, R317). -/
def State.wakeDue (s : State) : Option Chosen :=
  (s.semWaiters.find? (fun w =>
    if w.eq then w.matched
    else decide (s.semWaiters.find? (fun v => decide (v.key = w.key) && !v.eq) = some w ∧ w.c.toNat ≤ (s.sem w.key).toNat))).map
    (fun w => .instr (.semaphoreWake (w.key / 65536) (w.key % 65536)))

/-- What is due at the strand of core `c`: the end of a wait, of a lease, of a walk (R122, R177, R183, R385, R386); the
walks of an exited or saved strand are abandoned (R265, R384). -/
def State.strandDue (s : State) (c : Nat) (k : Core) : Option Chosen :=
  let t := k.strand
  if t.lease.isSome && decide (t.leaseEnd ≤ s.cycle) then some (.instr (.leaseExpiry c))
  else match t.handles.find? (fun h => decide (h.2.st = .pending ∧ t.status ≠ .exited ∧ t.status ≠ .saved) && h.2.fid.isNone) with
  | some h => some (.instr (.walkComplete c h.1))
  | none =>
    match t.status with
    | .paused => if t.wakeAt ≤ s.cycle then some (.instr (.pauseEnd c)) else none
    | .wfe _ limited =>
      if t.latch ≠ 0 then some (.instr (.wfeWake c))
      else if limited && decide (t.wakeAt ≤ s.cycle) then some (.instr (.wfeLimitExpiry c)) else none
    | .stealing r =>
      let v := (s.gangCores c).getD r c
      if t.reply.isSome then some (.instr (.stealAnswer c))
      else some (.instr (.stealRequest c v))
    | _ => none

/-- What is due at core `c` beyond its strand: the ends of resets, a rolling reset at its boundary, a save (R129, R161,
R163). -/
def State.coreDue (s : State) (c : Nat) (k : Core) : Option Chosen :=
  if k.inReset then (if s.dieResets.any (fun e => decide (e.1 = dieOf c)) then none else some (.instr (.coreResetDone c)))
  else if !k.resident then none
  else match (upto 6).find? (fun r => decide ((k.ring r).wait = .reset)) with
  | some r => some (.instr (.engineResetDone c r))
  | none =>
    match (upto 6).find? (fun r => (k.ring r).roll && k.boundary r) with
    | some r => some (.instr (.rollingReset c r))
    | none =>
      if k.mustSave && decide (k.strand.status = .saving ∨ k.strand.status = .exited)
          && (upto 6).all (fun r => decide ((k.ring r).rhead = (k.ring r).rtail) && !(k.ring r).pendx)
          && (match s.gang k.gang with
              | some g => (sfind g.slots k.rank).isNone
              | none => false) then some (.instr (.gangSave c))
      else if k.mustSave && decide (k.saveBy ≤ s.cycle) && decide (k.strand.status ≠ .exited ∧ k.strand.status ≠ .waitHosts)
          && k.replayable && k.strand.reply.isNone then some (.instr (.saveTimeout c))
      else s.strandDue c k

/-- What is due in the fabric. -/
def State.fabricDue (s : State) : Option Chosen :=
  match s.fabric.rx with
  | p :: _ => some (.packet p)
  | [] =>
    match s.fabric.incoming.find? Incoming.due with
    | some i => some (.instr (.fabricSignalApply i.peer i.xfer))
    | none =>
      match s.fns.findSome? (fun e => (e.2.redSlots.find? (s.slotDue e.1)).map (fun r =>
          .instr (.reductionSlotComplete e.1 r.die r.region r.slot))) with
      | some i => some i
      | none => (s.fabric.ports.find? (fun p => decide (16 ≤ p.2.retries) && !p.2.retraining && !p.2.retired)).map (fun p =>
          .instr (.portRetrain p.1))

/-- What is due at cluster `k`: the end of its slice, a selection, a placement (R119, R123, R267). -/
def State.clusterDue (s : State) (k : Nat) : Option Chosen :=
  let c := s.cluster k
  match c.holder with
  | none => if (s.eligible k).isEmpty && !c.reserveDue then none else some (.instr (.clusterIdleSelect (k / 8) (k % 8)))
  | some _ =>
    if c.since + c.slice * usCycles ≤ s.cycle then some (.instr (.sliceEnd (k / 8) (k % 8) (c.slice * usCycles)))
    else match s.pick k with
      | some (d, _) =>
        (match d.kind with
         | .saved g => some (.instr (.gangRestore g (k / 8) (k % 8)))
         | _ => some (.instr (.gangPlace (k / 8) (k % 8))))
      | none => none

/-- The clusters that some function owns. -/
def State.usedClusters (s : State) : List Nat :=
  (upto 32).filter (fun k => s.fns.any (fun e => bmem e.2.part.clusters k))

/-- What is due of a gang: its drain deadline, its end (R129, R131). -/
def State.gangDue (s : State) (g : Gang) : Option Chosen :=
  if g.phase = .draining ∧ g.drainBy ≤ s.cycle then some (.instr (.drainDeadline g.id))
  else
    let failed := match s.node g.fn g.q g.idx with
      | some n => decide (n.status ≠ 0)
      | none => false
    let done := s.allExited g && g.cores.all (fun c => (upto 6).all (fun r =>
      let x := (s.core c).ring r
      decide (x.rhead = x.rtail) && x.flight.isEmpty))
    if failed || done then some (.instr (.instanceComplete g.id)) else none

/-- A stack agent whose turn for a rolling reset has come, at its boundary (R163). -/
def State.agentDue (s : State) : Option Chosen :=
  (s.agents.find? (fun a => a.2.roll && (s.inAgent a.1).isEmpty)).map (fun a =>
    .instr (.rollingReset (64 * (a.1 / 16)) (6 + a.1 % 16)))

/-- What is due in the power and reset domains (R21, R70). -/
def State.domainDue (s : State) : Option Chosen :=
  match s.agentDue with
  | some i => some i
  | none =>
  match s.power.find? (fun e => decide (e.2.phase ≠ .steady)) with
  | some e => some (.instr (.voltageRampDone e.1))
  | none =>
    match s.dieResets with
    | e :: _ => some (.instr (.dieResetDone e.1))
    | [] => (s.fns.find? (fun e => e.2.dlog.due)).map (fun e => .instr (.dlogArmCompletion e.1))

/-- The launch queue of function `f` with a record to fetch. -/
def State.launchDue (s : State) (f : Nat) (x : Fn) : Option Chosen :=
  ((upto 32).find? (fun q => (sget {} x.queues (4 + q)).en && s.canFetch f q)).map (fun q => .instr (.launchRecordFetch f q))

/-- A list from the place that step `n` begins at. -/
def turned {α : Type} (n : Nat) (l : List α) : List α := l.drop (n % l.length) ++ l.take (n % l.length)

/-- The kinds of event, each with its first that is due. The lists that they search begin elsewhere with time, so that no
event that comes again and again keeps another waiting (R2, R402). -/
def dueKinds : List (State → Option Chosen) :=
  let from' {α : Type} (s : State) (l : List α) : List α := turned (s.tick / 14) l
  [State.wakeDue, fun s => (from' s s.cores).findSome? (fun e => s.coreDue e.1 e.2), State.fabricDue, State.domainDue,
   fun s => (from' s s.gangs).findSome? s.gangDue, fun s => (from' s s.fns).findSome? (fun e => s.launchDue e.1 e.2),
   fun s => (from' s s.usedClusters).findSome? s.clusterDue]

/-- The first event that is due, the kinds taking turns at being asked first. -/
def State.due (s : State) : Option Chosen := (turned (s.tick / 2) dueKinds).findSome? (fun d => d s)

/-- The first event or admin command that is due, with the state it runs in. -/
def State.event? (s : State) : Option (State × Chosen) :=
  match s.due with
  | some i => some (s, i)
  | none => s.fns.findSome? (fun e => if (sget {} e.2.queues 0).en then s.adminFetch e.1 else none)

/-! ## Turns -/

/-- What a strand's fetch gives: the instruction, or the state in which it could not be fetched. -/
def State.fetchStrand (s : State) : State × Chosen :=
  let c := s.actor.core
  let k := s.me
  let pc := k.strand.pc.toNat
  match s.transOn c pc .fetch with
  | .error f => (s.waitFault c pc .fetch f, .idle)
  | .ok t =>
    match s.accessCheck k.fn (some c) t pc 4 false with
    | .error e => (s.stop e, .idle)
    | .ok _ =>
      let w := BitVec.ofNat 32 (ofBytes (s.readVia t pc 4))
      (s, .instr (match decodeStrand w with
        | .ok i => i
        | .error _ => .illegalInstruction w))

/-- Whether a strand issues in its turn: running, or with an instruction that is issued again while it waits. -/
def Strand.issues (t : Strand) : Bool :=
  match t.status with
  | .running | .waitPlan _ => true
  | _ => false

/-- Whether the engine of a ring moves in its turn. -/
def EngWait.moves (w : EngWait) : Bool :=
  match w with
  | .none | .pipe | .held | .agent | .fabric | .failed _ | .nodeFailed _ => true
  | _ => false

/-- Whether the oldest unconfirmed word of ring `r` is to be confirmed (R141): a copy word at once, any other when its delay
is over, also while the next word waits. -/
def Ring.confirmDue (g : Ring) (r cycle : Nat) : Bool :=
  match g.flight with
  | [] => false
  | f :: _ => decide (g.wait ≠ .reset ∧ (2 ≤ r ∨ f.since + confirmCycles ≤ cycle))

/-- What the engine of ring `r` of core `c` does in its turn: confirm a word, or run the word at its next sequence. -/
def State.fetchWord (s : State) (c r : Nat) : Chosen :=
  let g := (s.core c).ring r
  if g.confirmDue r s.cycle then .instr (.wordConfirm c r)
  else if g.wait.moves && decide (g.next ≠ g.rtail) && !g.stopped && decide (g.flight.length < 4) then
    let w := s.slotWord c r g.next
    .instr (match decodeEngine r w with
      | .ok i => i
      | .error _ => .reservedEngineOpcode w)
  else .idle

/-- The engine of ring `r` stands at a word that is DONE: an exception of it was delivered before a replay came so far, or
it ended out of order; it does not run again. A word before RHEAD of the M ring does (R158, R256). -/
def State.atDone (s : State) (c r : Nat) : Bool :=
  let g := (s.core c).ring r
  decide (g.next ≠ g.rtail) && (r ≠ 1 || decide (seqDist g.rhead g.next < 2 ^ 31)) && !g.pendx && markDone (s.mark c r g.next)

/-- The engine goes on behind that word, and RHEAD with it. -/
def State.passDone (s : State) (c r : Nat) : State :=
  let s := s.onRing c r Ring.moveOn
  State.advanceDone c r (((s.core c).ring r).held + 1) s

/-- The turn of the engine of ring `r` of core `c`. -/
def State.engineTurn (s : State) (c r : Nat) : State × Chosen :=
  let s := if r = 0 then s.ageMarks c 0 else if 2 ≤ r then s.onRing c r Ring.turnOver else s
  if s.atDone c r then (s.passDone c r, .idle) else (s, s.fetchWord c r)

/-- What the agent whose turn it is does. -/
def State.turn (s : State) : State × Chosen :=
  let a := s.actor
  let k := s.me
  if !k.resident || k.inReset || k.saveBegun then (s, .idle)
  else if a.unit = 0 then (if k.strand.issues then s.fetchStrand else (s, .idle))
  else if k.strand.status = .saved then (s, .idle)
  else s.engineTurn a.core (a.unit - 1)

/-- The agent that moves next: the next unit of the core, then the next core in use. -/
def State.nextActor (s : State) : Actor :=
  if s.actor.unit < 6 then { s.actor with unit := s.actor.unit + 1 }
  else match s.cores.find? (fun e => decide (s.actor.core < e.1)) with
    | some e => { core := e.1 }
    | none => match s.cores with
      | e :: _ => { core := e.1 }
      | [] => {}

/-- Time passes (R2). -/
def State.advance (s : State) : State :=
  { s with tick := s.tick + 1, cycle := s.cycle + Config.stepCycles s.tick }

/-- The die whose arithmetic clock is being switched. -/
def State.switchingDie (s : State) : Option Nat :=
  (s.power.find? (fun e => decide (e.2.phase = .switchingUp ∨ e.2.phase = .switchingDown))).map Prod.fst

/-- What a step runs: the end of a clock switch, since what arrives meanwhile waits (R21); else the first input that may come
now; else, on every second tick, an event that is due; else the turn of the agent that moves. The turn passes on. -/
def State.chosen (s : State) : State × Chosen :=
  match s.switchingDie with
  | some d => (s, .instr (.clockSwitchDone d))
  | none =>
  match s.inputs with
  | i :: rest =>
    let p := nextInput i rest
    ({ s with inputs := p.2 }, if s.accepts p.1 then .instr p.1 else .idle)
  | [] =>
    match if s.tick % 2 = 0 then none else s.event? with
    | some p => p
    | none => s.turn

/-- Whether the step was an agent's turn. -/
def State.isTurn (s : State) : Bool := s.switchingDie.isNone && s.inputs.isEmpty && (decide (s.tick % 2 = 0) || s.event?.isNone)

/-- What waits in the fabric goes on: packets in their buffers, answers that are owed. -/
def State.settleFabric (s : State) : State :=
  let s := if s.fabric.held.isEmpty then s else s.settleHeld
  if s.fabric.owed.isEmpty then s else s.settleOwed

/-- What follows an instruction: commands that were waiting go on, injections that are due land, and after a turn the
next agent moves. -/
def State.settle (s : State) (turn : Bool) : State :=
  let s := s.settleFabric.settleRoutes.settleAdmin.injectDue.settleBroken.settleReports.settleWork
  let s := if s.nodes.any (fun n => decide (n.phase = .completing) && n.fid.isNone) then s.settleNodes else s
  if turn then { s with actor := s.nextActor } else s

/-! ## Placing an instruction (the host's question) -/

/-- The page that a placed program lies in. -/
def placedPage : Trans := { pa := 0x100000, base := 0x100000, wr := true, ex := true }

/-- A core whose strand is about to run an instruction at 0x10_0000. -/
def Core.placed (k : Core) (f x : Nat) : Core :=
  { k with
    resident := true, inReset := false
    tlb := [{ fn := f, ctx := x, tr := placedPage }]
    strand := { k.strand with pc := 0x100000, status := .running, stalled := false } }

/-- The word that `nbits` bits spell lies where the moving agent of core 0 comes to next: a strand's instruction in
memory, a vector word in the V ring, a matrix word in the M ring. -/
def State.placeWord (s : State) (nbits w : Nat) : State :=
  let k := (s.core 0).placed (s.core 0).fn (s.core 0).ctx
  let s := { s.setCore 0 k with
    inputs := [], tick := s.tick / 2 * 2 + 1, power := s.power.map (fun (e : Nat × DiePower) => (e.1, { e.2 with phase := .steady })) }
  if nbits ≤ 32 then
    { s with mem := mwrite s.mem 0x100000 (toBytes 4 w), actor := { core := 0, unit := 0 } }
  else
    let r := if nbits ≤ 96 then 0 else 1
    let g := (s.core 0).ring r
    let s := s.swrite 0 (g.slotAddr g.next) (toBytes 24 w ++ toBytes 8 0)
    let s := s.onRing 0 r (fun g => { g with
      rtail := g.next + 1, rhead := g.next, rkeep := g.next, flight := [], wait := .none, pendx := false, begun := false,
      young := [], hold := none, jobs := [], chosen := none })
    { s with actor := { core := 0, unit := r + 1 } }

end Sys2Proof.Machine
end

