-- ==== Sys2Proof/Machine/Step.lean ====
section
/-! DEFINITION. One step of the machine: time passes, something is chosen, it is run, what follows settles. -/

namespace Sys2Proof.Machine

/-- The state in which the next step runs the instruction that `nbits` bits spell. -/
def State.withFetchWord (s : State) (nbits w : Nat) : State := s.placeWord nbits w

/-- Run what was chosen. -/
def Chosen.run (c : Chosen) (s : State) : Host.Outcome State Fault Refusal :=
  match c with
  | .idle => .next s
  | .instr i => exec i s
  | .admin c => runAdmin c s
  | .packet p => runPacket p s

/-- An outcome with what follows the instruction settled. -/
def settled (turn : Bool) (o : Host.Outcome State Fault Refusal) : Host.Outcome State Fault Refusal :=
  match o with
  | .next t => .next (t.settle turn)
  | .fault f => .fault f
  | .refused r => .refused r

/-- One step. -/
def step (s : State) : Host.Outcome State Fault Refusal :=
  settled s.advance.isTurn (s.advance.chosen.2.run s.advance.chosen.1)

end Sys2Proof.Machine
end

