-- ==== Sys2Proof/Safety.lean ====
section
/-! DEFINITION. What counts as a safe run, and the words in which statements say what an instruction does and what it
leaves alone. -/

namespace Sys2Proof.Machine

/-- A run of `n` steps that meets neither a fault nor a refusal. -/
def Safe (n : Nat) (s : State) : Prop :=
  match Host.Core.run Sys2Proof.core n s with
  | .next _ => True
  | _ => False

/-- Both memories are in their canonical form. -/
def State.memWf (s : State) : Prop := Memory.wf s.mem = true ∧ Memory.wf s.hostMem = true

/-! ## What stays -/

/-- Every byte of device memory and of host memory reads as before. -/
def SameMem (s t : State) : Prop :=
  (∀ a, mbyte t.mem a = mbyte s.mem a) ∧ ∀ a, mbyte t.hostMem a = mbyte s.hostMem a

/-- Every byte of device memory, of host memory and of every scratchpad reads as before. -/
def SameBytes (s t : State) : Prop := SameMem s t ∧ ∀ c a, t.sbyte c a = s.sbyte c a

/-- Nothing outside core `c` differs: every other core, and all the rest of the state. -/
def OnlyCore (s t : State) (c : Nat) : Prop := { t with cores := s.cores } = s ∧ ∀ i, i ≠ c → t.core i = s.core i

/-- Nothing outside the strand of the moving core differs, and every byte reads as before. -/
def OnlyStrand (s t : State) : Prop :=
  SameBytes s t ∧ OnlyCore s t s.actor.core ∧ t.me = { s.me with strand := t.strand }

/-- `t` differs from `s` in nothing but scalar registers of the moving strand, and there only in those of `ds`. -/
def OnlyRegs (s t : State) (ds : List Reg) : Prop :=
  OnlyStrand s t ∧ t.strand = { s.strand with regs := t.strand.regs } ∧ ∀ r, r ∉ ds → t.get r = s.get r

/-- As `OnlyRegs`, with the numeric flags. -/
def OnlyRegsFlags (s t : State) (ds : List Reg) : Prop :=
  OnlyStrand s t ∧ t.strand = { s.strand with regs := t.strand.regs, flags := t.strand.flags } ∧
    ∀ r, r ∉ ds → t.get r = s.get r

/-- The bytes at `addr` of the memory that a type names are `bs`, and every other byte of both memories reads in `t` as it
does in `u`. -/
def StoredAt (u t : State) (mt : MType) (addr : Nat) (bs : List Byte) : Prop :=
  let m (s : State) : Memory := if mt = .dev then s.mem else s.hostMem
  let other (s : State) : Memory := if mt = .dev then s.hostMem else s.mem
  (∀ i, (h : i < bs.length) → mbyte (m t) (addr + i) = bs[i]) ∧
  (∀ a, a < addr ∨ addr + bs.length ≤ a → mbyte (m t) a = mbyte (m u) a) ∧
  ∀ a, mbyte (other t) a = mbyte (other u) a

/-- The scratch bytes of core `c` from `addr` on are `bs`, and every other byte of every scratchpad reads as before. -/
def ScratchStored (s t : State) (c addr : Nat) (bs : List Byte) : Prop :=
  (∀ i, (h : i < bs.length) → t.sbyte c (addr + i) = bs[i]) ∧
  (∀ a, a < 0x200000 → a < addr ∨ addr + bs.length ≤ a → t.sbyte c a = s.sbyte c a) ∧
  ∀ i a, i ≠ c → t.sbyte i a = s.sbyte i a

/-- No scalar register of the moving strand but those of `ds` differs, nor its PC, loop stack, FLAGS, trap registers,
status registers, tiles or maps. -/
def SameStrandBut (s t : State) (ds : List Reg) : Prop :=
  (∀ r, r ∉ ds → t.get r = s.get r) ∧
    { t.strand with regs := s.strand.regs, handles := s.strand.handles } = s.strand

/-- Semaphore `k` becomes `v`: no other semaphore changes, an EQ watcher of `k` that waits for `v` has seen it (R317), the
latch bit of the core whose block holds it is set (R386), and no byte and nothing else of any core changes. -/
def SemBecomes (s t : State) (k : Nat) (v : BitVec 32) : Prop :=
  t.sem k = v ∧ (∀ j, j ≠ k → t.sem j = s.sem j) ∧ SameBytes s t ∧
  t.semWaiters = s.semWaiters.map (fun w => if w.key = k ∧ w.eq = true ∧ w.c = v then { w with matched := true } else w) ∧
  ∀ c, t.core c = if semOwner k = some c then (s.core c).onStrand (fun x => { x with latch := bset x.latch 0 }) else s.core c

/-! ## What an access meets -/

/-- The moving strand's access of `n` bytes at `ea` through handle `h`, which is not h15, passes the checks of R307 and of
the line and the page, and goes to the page `p`; `acc` says what it is. -/
def Reaches (s : State) (h : BitVec 4) (ea n : Nat) (acc : AccKind) (p : Trans × Handle) : Prop :=
  h ≠ 15 ∧ s.handlePage h.toNat ea acc = .ok p ∧ ea % n = 0 ∧
    s.accessCheck s.me.fn (some s.actor.core) p.1 ea n acc.writes = .ok ()

/-- No lazy tile has a leaf in the bytes [lo, hi) that the write would change, or none is left unmaterialised (R246,
R247). -/
def Unshared (s : State) (scratch : Bool) (lo hi : Nat) : Prop := s.aliasGate s.actor.core scratch lo hi = .ok ()

/-! ## What an instruction does -/

/-- `i` retires after the effect `P`: it answers the state that retiring leaves of one that satisfies `P` (R290, R300). -/
def Retires (i : Instr) (s : State) (P : State → Prop) : Prop := ∃ t, exec i s = .next t.retire ∧ P t

/-- `i` writes `v` to the scalar register `d`, or nothing where `d` is s0, changes nothing else, and retires (R268,
R290). -/
def WritesReg (i : Instr) (s : State) (d : Reg) (v : Word) : Prop :=
  Retires i s (fun t => t.get d = (if d = 0 then 0 else v) ∧ OnlyRegs s t [d])

/-- `i` writes `v` to `d` with the further effect `P` on the moving strand, changes no other register and no byte, and
retires. -/
def WritesRegAnd (i : Instr) (s : State) (d : Reg) (v : Word) (P : State → Prop) : Prop :=
  Retires i s (fun t => t.get d = (if d = 0 then 0 else v) ∧ (∀ r, r ≠ d → t.get r = s.get r) ∧ P t ∧ OnlyStrand s t)

/-- `i` writes `v` to `d`, ORs `f` into FLAGS, changes nothing else, and retires (R225, R295). -/
def WritesRegFlags (i : Instr) (s : State) (d : Reg) (v : Word) (f : NumFlags) : Prop :=
  Retires i s (fun t => t.get d = (if d = 0 then 0 else v) ∧ t.strand.flags = s.strand.flags ||| f ∧ OnlyRegsFlags s t [d])

/-- `i` changes the moving strand by `f`, nothing else, and retires. -/
def RetiresStrand (i : Instr) (s : State) (f : Strand → Strand) : Prop :=
  Retires i s (fun t => t = s.onStrand f ∧ SameBytes s t)

/-- `i` takes the precise event `code` with TRAPINFO `info` (R253): with a valid handler and no handler entered the strand
enters it, else the strand ends and its node fails. -/
def Traps (i : Instr) (s : State) (code info : Nat) : Prop := exec i s = .next (s.trap code info)

/-- `i` sets PC to `p` and changes nothing else of the strand's registers; `stalled`, `toForce` and `status` are the
model's own record of what an instruction waits for. -/
def Jumps (i : Instr) (s : State) (p : Va) : Prop :=
  ∃ t, exec i s = .next t ∧ OnlyStrand s t ∧
    t.strand = { s.strand with pc := p, stalled := false, toForce := [], status := .running }

/-- `i` links and jumps: `d` takes PC + 4, PC becomes `p`, and no other register changes. -/
def Links (i : Instr) (s : State) (d : Reg) (p : Va) : Prop :=
  ∃ t, exec i s = .next t ∧ t.get d = (if d = 0 then 0 else BitVec.ofNat 64 ((s.strand.pc.toNat + 4) % 2 ^ 57)) ∧
    OnlyStrand s t ∧
    t.strand = { s.strand with regs := t.strand.regs, pc := p, stalled := false, toForce := [], status := .running } ∧
    ∀ r, r ≠ d → t.get r = s.get r


/-- `i` appends `node` to the thunk table (R328): the lowest free node takes it with one name, no use, the append's CSEQ and
PC; its operands gain a use; a leaf's intervals enter the CAM; `td` names it, and the node that `td` named before loses
that name; FLAGS takes `f`; no byte and no scalar register changes; and `i` retires. -/
def Appends (i : Instr) (s : State) (td : Reg) (node : Node) (leaves : List CamEntry) (f : NumFlags) : Prop :=
  ∀ n, s.nodeGate s.actor.core = .ok n →
    let old := s.me.thunks
    let full : Node := { node with names := 1, uses := 0, nflags := 0, cseq := old.cseq, arena := none, creatorPc := s.strand.pc }
    let grown := (old.setNode n full).addUses node.opnd
    let added : Thunks := { grown with
      cseq := old.cseq + 1, joinAll := false, cam := leaves.foldl (fun cam e => camInsert cam { e with leaves := [n] }) old.cam }
    Retires i s (fun t =>
      t.me.thunks = (match s.strand.tile td with
        | some k => added.dropName k
        | none => added) ∧
      t.strand.tile td = some n ∧ (∀ r, r ≠ td → t.strand.tile r = s.strand.tile r) ∧
      t.strand = { s.strand with tiles := t.strand.tiles, flags := s.strand.flags ||| f } ∧ SameBytes s t ∧
      ∀ c, c ≠ s.actor.core → t.core c = s.core c)

/-- `i` takes 0x01 with its word in TRAPINFO[31:0] and `reason` above it (R329, Table 18-3). -/
def RefusesTile (i : Instr) (s : State) (reason : Nat) : Prop := Traps i s 1 ((wordOf i).toNat + reason * 2 ^ 32)

/-! ## Engines -/

/-- The word at the next sequence of ring `r` of core `c` begins, and leaves `u` (R141, R144, R279): it is not one whose
exception is pending, fewer than four words are unconfirmed, its checks find nothing, and either its await has passed before
or it awaits nothing, or nobody is queued on a semaphore whose value is large enough: its count is subtracted and AWT set. -/
def Begins (s u : State) (c r : Nat) (check : Option Nat) (aw rs : BitVec 10) : Prop :=
  let g := (s.core c).ring r
  let m := s.mark c r g.next
  (g.pendx = false ∨ g.next ≠ g.xseq) ∧ g.flight.length < 4 ∧ (∀ p, g.wait ≠ .failed p) ∧ (∀ p, g.wait ≠ .nodeFailed p) ∧
  check = none ∧
  s.semFault c r g.next (if markAwt m || markDone m then 0 else aw) (if markDone m then 0 else rs) = none ∧
  (((markAwt m = true ∨ markDone m = true ∨ semCount aw = 0) ∧ u = s) ∨
   (markAwt m = false ∧ markDone m = false ∧ ∃ k, semCount aw ≠ 0 ∧ s.slotSem c (semSlot aw) = some k ∧
    s.semQueued k = false ∧ semCount aw ≤ (s.sem k).toNat ∧
    u = (s.semWrite k (s.sem k - BitVec.ofNat 32 (semCount aw))).setMark c r g.next (markProg m) true false))

/-- From `u` the word at the next sequence of ring `r` of core `c` has executed: the engine goes on to the next sequence, or to
another word of the ring that is in progress (R371), and the word joins the unconfirmed ones as `f`; no other ring, no other
core, no register and no byte of memory changes. -/
def Executed (u t : State) (c r : Nat) (f : Flight) : Prop :=
  let g := (u.core c).ring r
  let h := (t.core c).ring r
  (g.jobs = [] → h.next = g.next + 1 ∧ h.wait = .none ∧ h.jobs = []) ∧
  (g.jobs ≠ [] → h.next = g.moveOn.next ∧ h.wait = g.moveOn.wait ∧ h.jobs = g.moveOn.jobs) ∧
  h.flight = g.flight ++ [{ f with seq := g.next, since := u.cycle }] ∧
  h.rhead = g.rhead ∧ h.rtail = g.rtail ∧ h.rkeep = g.rkeep ∧ h.pendx = g.pendx ∧
  (∀ q, q ≠ r → (t.core c).ring q = (u.core c).ring q) ∧ (t.core c).strand = (u.core c).strand ∧
  (∀ i, i ≠ c → t.core i = u.core i) ∧ SameMem u t

/-- The word at the next sequence of ring `r` of core `c` ends with an engine status exception (R167): PENDX is set with XCODE
and XSEQ, and no byte changes. -/
def EndsWith (s t : State) (c r xcode : Nat) : Prop :=
  let g := (t.core c).ring r
  g.pendx = true ∧ g.xcode = BitVec.ofNat 8 xcode ∧ g.xseq = ((s.core c).ring r).next ∧ SameBytes s t

/-- Every word of rings 0 to 5 of core `c` that the planner wrote is over, and it has none to write. -/
def State.unplanned (s : State) (c : Nat) : Prop := (s.core c).thunks.words = [] ∧ (s.core c).thunks.queue = []

/-- The word of `u` at the next sequence of ring `r` of core `c`, at RHEAD, is over in `t` (R141): it is DONE, RHEAD
has passed it, its raise is applied, where it may name its semaphore (R143), and its flags are in FLAGS of the strand, which is
there to take them, unless it was DONE before, and no byte of memory changes. -/
def Over (u t : State) (c r : Nat) (raise : BitVec 10) (flags : NumFlags) : Prop :=
  let g := (u.core c).ring r
  let h := (t.core c).ring r
  h.next = g.next + 1 ∧ h.flight = [] ∧ h.rhead = g.next + 1 ∧ h.rtail = g.rtail ∧
  markDone (t.mark c r g.next) = true ∧
  (t.core c).strand.flags = (if markDone (u.mark c r g.next) then (u.core c).strand.flags else (u.core c).strand.flags ||| flags) ∧
  (∀ k, t.sem k = if semCount raise ≠ 0 ∧ markDone (u.mark c r g.next) = false ∧ u.slotSem c (semSlot raise) = some k ∧
      (semSlot raise < 96 ∨ u.semAllowed c k = true)
    then semAddVal (u.sem k) (semCount raise) else u.sem k) ∧
  SameMem u t

/-- Where a word that is confirmed at once finds its ring: nothing unconfirmed, itself at RHEAD and the only one left to run,
the strand neither exited nor saved and no planned word. -/
def State.ready (u : State) (c r : Nat) : Prop :=
  let g := (u.core c).ring r
  g.flight = [] ∧ g.jobs = [] ∧ g.next = g.rhead ∧ g.rtail = g.next + 1 ∧ (u.core c).strand.status ≠ .exited ∧
  (u.core c).strand.status ≠ .saved ∧ u.unplanned c

/-- Tables 19-1 and 19-2: the vector words that run a nest, with their VOP. -/
def nestWords : List ((VWord → Instr) × Nat) :=
  [(.vmov, 1), (.vadd, 2), (.vsub, 3), (.vmul, 4), (.vfma, 5), (.vdiv, 6), (.vmin, 7), (.vmax, 8), (.vabs, 9), (.vneg, 10),
   (.vexp, 11), (.vlog, 12), (.vrcp, 13), (.vrsq, 14), (.vtanh, 15), (.vsilu, 16), (.vcmp, 17), (.vsel, 18), (.vand, 19),
   (.vor, 20), (.vxor, 21), (.vshl, 22), (.vshr, 23), (.vcvt, 24), (.vqnt, 25), (.vrsum, 26), (.vrmax, 27), (.vscan, 28),
   (.vgath, 29), (.vscat, 30), (.vhins, 31), (.vdrn, 33)]

end Sys2Proof.Machine
end

