-- ==== Sys2Proof/Certificates/Slice0/Obligations.lean ====
section
/-! DEFINITION. What is claimed of the model. Each statement's docstring names the rules of the spec that it formalises; a
clause that rests on the model's own choice names its log entry. A statement of several parts is their conjunction. -/

open Sys2Proof Sys2Proof.Machine

/-! ## Scalar integers and floats -/

/-- Table 16-1 (R291): each three-register member of the ALU group but the divisions writes its value to s[d].

Table 16-1: CLZ, CTZ and POPC; 64 for an s[a] of 0 where the table says so.

R291: SEXT and ZEXT with the width codes 0, 1 and 2.

R292 and Table 16-2: division never traps, with its borderline cases. -/
def Obligations.IntegerOperationsWriteTableValue : Prop :=
  (∀ (d a b : Reg) (s : State),
    let x := s.get a
    let y := s.get b
    let sh := y.toNat % 64
    WritesReg (.add d a b) s d (BitVec.ofNat 64 (x.toNat + y.toNat)) ∧
    WritesReg (.sub d a b) s d (BitVec.ofInt 64 ((x.toNat : Int) - y.toNat)) ∧
    WritesReg (.and d a b) s d (x &&& y) ∧
    WritesReg (.or d a b) s d (x ||| y) ∧
    WritesReg (.xor d a b) s d (x ^^^ y) ∧
    WritesReg (.andn d a b) s d (x &&& ~~~y) ∧
    WritesReg (.sll d a b) s d (BitVec.ofNat 64 (x.toNat * 2 ^ sh)) ∧
    WritesReg (.srl d a b) s d (BitVec.ofNat 64 (x.toNat / 2 ^ sh)) ∧
    WritesReg (.sra d a b) s d (BitVec.ofInt 64 (x.toInt / 2 ^ sh)) ∧
    WritesReg (.mul d a b) s d (BitVec.ofNat 64 (x.toNat * y.toNat)) ∧
    WritesReg (.mulhu d a b) s d (BitVec.ofNat 64 (x.toNat * y.toNat / 2 ^ 64)) ∧
    WritesReg (.mulhs d a b) s d (BitVec.ofInt 64 (x.toInt * y.toInt / 2 ^ 64)) ∧
    WritesReg (.min d a b) s d (if x.toInt < y.toInt then x else y) ∧
    WritesReg (.max d a b) s d (if y.toInt < x.toInt then x else y) ∧
    WritesReg (.minu d a b) s d (if x.toNat < y.toNat then x else y) ∧
    WritesReg (.maxu d a b) s d (if y.toNat < x.toNat then x else y) ∧
    WritesReg (.slt d a b) s d (if x.toInt < y.toInt then 1 else 0) ∧
    WritesReg (.sltu d a b) s d (if x.toNat < y.toNat then 1 else 0) ∧
    WritesReg (.seq d a b) s d (if x = y then 1 else 0)) ∧
  (∀ (d a : Reg) (s : State),
    let x := s.get a
    (∃ n : Nat, WritesReg (.clz d a) s d (BitVec.ofNat 64 n) ∧ n ≤ 64 ∧
      (∀ k : Nat, k < n → x.getLsbD (63 - k) = false) ∧ (n < 64 → x.getLsbD (63 - n) = true)) ∧
    (∃ n : Nat, WritesReg (.ctz d a) s d (BitVec.ofNat 64 n) ∧ n ≤ 64 ∧
      (∀ k : Nat, k < n → x.getLsbD k = false) ∧ (n < 64 → x.getLsbD n = true)) ∧
    WritesReg (.popc d a) s d (BitVec.ofNat 64 ((List.range 64).filter (fun k => x.getLsbD k)).length)) ∧
  (∀ (d a : Reg) (s : State),
    let x := s.get a
    WritesReg (.sext d a 0) s d ((x.setWidth 8).signExtend 64) ∧
    WritesReg (.sext d a 1) s d ((x.setWidth 16).signExtend 64) ∧
    WritesReg (.sext d a 2) s d ((x.setWidth 32).signExtend 64) ∧
    WritesReg (.zext d a 0) s d ((x.setWidth 8).setWidth 64) ∧
    WritesReg (.zext d a 1) s d ((x.setWidth 16).setWidth 64) ∧
    WritesReg (.zext d a 2) s d ((x.setWidth 32).setWidth 64)) ∧
  (∀ (d a b : Reg) (s : State),
    let x := s.get a
    let y := s.get b
    let most : Word := 0x8000000000000000
    WritesReg (.div d a b) s d
      (if y = 0 then -1 else if x = most ∧ y = -1 then most else BitVec.ofInt 64 (x.toInt.tdiv y.toInt)) ∧
    WritesReg (.rem d a b) s d
      (if y = 0 then x else if x = most ∧ y = -1 then 0 else BitVec.ofInt 64 (x.toInt.tmod y.toInt)) ∧
    WritesReg (.divu d a b) s d (if y = 0 then -1 else BitVec.ofNat 64 (x.toNat / y.toNat)) ∧
    WritesReg (.remu d a b) s d (if y = 0 then x else BitVec.ofNat 64 (x.toNat % y.toNat)))

/-- Table 16-3 (R293) and R294: the immediate forms, LI and LIH. -/
def Obligations.ImmediateFormsWriteTableValue : Prop :=
  ∀ (d a : Reg) (imm : BitVec 14) (sh : BitVec 6) (long : BitVec 20) (s : State),
    let x := s.get a
    WritesReg (.addi d a imm) s d (BitVec.ofInt 64 (x.toNat + imm.toInt)) ∧
    WritesReg (.andi d a imm) s d (x &&& imm.setWidth 64) ∧
    WritesReg (.ori d a imm) s d (x ||| imm.setWidth 64) ∧
    WritesReg (.xori d a imm) s d (x ^^^ imm.setWidth 64) ∧
    WritesReg (.slti d a imm) s d (if x.toInt < imm.toInt then 1 else 0) ∧
    WritesReg (.sltiu d a imm) s d (if x.toNat < (imm.signExtend 64).toNat then 1 else 0) ∧
    WritesReg (.slli d a sh) s d (BitVec.ofNat 64 (x.toNat * 2 ^ sh.toNat)) ∧
    WritesReg (.srli d a sh) s d (BitVec.ofNat 64 (x.toNat / 2 ^ sh.toNat)) ∧
    WritesReg (.srai d a sh) s d (BitVec.ofInt 64 (x.toInt / 2 ^ sh.toNat)) ∧
    WritesReg (.li d long) s d (BitVec.ofInt 64 long.toInt) ∧
    WritesReg (.lih d long) s d (BitVec.ofNat 64 ((s.get d).toNat * 2 ^ 20 + long.toNat))

/-- Table 16-4 (R295, R296): a member that produces a float computes its exact value from x, y (and z = s[d] for FMA),
rounds it once in RNE and ORs its flags; a compare gives 1 or 0 with no flag. The formats, the exact operations and the
rounding are the model's definitions of R211, R217 and R222.

Table 16-5 (R296): FCLASS sets exactly the bit of its operand's class.

R297: FCVT rounds the exact value of its source in the mode of b[5:3]; in mode SR the draw comes from STRSTATE, which
takes the new state (R220), but for kind 7, which is exact (Table 16-6); modes 5 to 7 are illegal. -/
def Obligations.FloatMembersRoundOnce : Prop :=
  (∀ (dbl : Bool) (d a b : Reg) (s : State),
    let f : Fmt := if dbl then .f64 else .f32
    let arg (r : Reg) : Val := f.val (if dbl then (s.get r).toNat else (s.get r).toNat % 2 ^ 32)
    let x := arg a
    let y := arg b
    let float (i : Instr) (v : Val × NumFlags) : Prop :=
      WritesRegFlags i s d (BitVec.ofNat 64 (finish f .rne false 0 v).1) (finish f .rne false 0 v).2
    float (.fadd dbl d a b) (vadd x y) ∧ float (.fsub dbl d a b) (vsub x y) ∧ float (.fmul dbl d a b) (vmul x y) ∧
    float (.fdiv dbl d a b) (vdiv x y) ∧ float (.fsqrt dbl d a) (vsqrt x) ∧ float (.fmin dbl d a b) (vmin x y, 0) ∧
    float (.fmax dbl d a b) (vmax x y, 0) ∧ float (.fma dbl d a b) (vfma x y (arg d)) ∧
    WritesReg (.fcmpeq dbl d a b) s d (if veq x y then 1 else 0) ∧
    WritesReg (.fcmplt dbl d a b) s d (if vlt x y then 1 else 0) ∧
    WritesReg (.fcmple dbl d a b) s d (if vlt x y ∨ veq x y then 1 else 0)) ∧
  (∀ (dbl : Bool) (d a : Reg) (s : State),
    let mant : Nat := if dbl then 52 else 23
    let exps : Nat := if dbl then 11 else 8
    let v := (s.get a).toNat
    let t := v % 2 ^ mant
    let e := v / 2 ^ mant % 2 ^ exps
    let neg := v / 2 ^ (mant + exps) % 2
    let gives (k : Nat) : Prop := WritesReg (.fclass dbl d a) s d (BitVec.ofNat 64 (2 ^ k))
    (e = 2 ^ exps - 1 → t ≠ 0 → gives 8) ∧
    (e = 2 ^ exps - 1 → t = 0 → gives (if neg = 1 then 0 else 7)) ∧
    (e = 0 → t = 0 → gives (if neg = 1 then 3 else 4)) ∧
    (e = 0 → t ≠ 0 → gives (if neg = 1 then 2 else 5)) ∧
    (e ≠ 0 → e ≠ 2 ^ exps - 1 → gives (if neg = 1 then 1 else 6))) ∧
  (∀ (dbl : Bool) (d a : Reg) (code : BitVec 6) (s : State),
    let c := fcvtKind dbl (code.toNat % 8) (s.get a)
    (∀ m, modeOf (code.toNat / 8) = some m → m ≠ .sr →
      WritesRegFlags (.fcvt dbl d a code) s d (BitVec.ofNat 64 (roundVal c.2 m false 0 c.1).1) (roundVal c.2 m false 0 c.1).2) ∧
    (code.toNat / 8 = 4 → code.toNat % 8 = 7 → WritesRegFlags (.fcvt dbl d a code) s d
      (BitVec.ofNat 64 (roundVal c.2 .rne false 0 c.1).1) (roundVal c.2 .rne false 0 c.1).2) ∧
    (code.toNat / 8 = 4 → code.toNat % 8 ≠ 7 → Retires (.fcvt dbl d a code) s (fun t =>
      let x := srDraw s.strand.strState
      let r := roundVal c.2 .sr false (x.toNat / 65536) c.1
      t.get d = (if d = 0 then 0 else BitVec.ofNat 64 r.1) ∧ t.strand.flags = s.strand.flags ||| r.2 ∧
        t.strand.strState = x ∧ t.strand.engSeed = s.strand.engSeed ∧ (∀ r, r ≠ d → t.get r = s.get r) ∧ OnlyStrand s t)) ∧
    (5 ≤ code.toNat / 8 → Traps (.fcvt dbl d a code) s 1 (wordOf (.fcvt dbl d a code)).toNat))

/-- The special cases that Table 16-4 names (R296), on FP32 encodings: ∞ − ∞, 0 × ∞, a finite non-zero value over zero,
0/0, √(−0), the root of a negative value, a NaN operand of FMA beside 0 × ∞, and a NaN compared.

R217: rounding in RNE a value that the format holds gives that value's code and no flag. -/
def Obligations.FloatValuesFollowTheirFormat : Prop :=
  (∀ (d a b : Reg) (s : State),
    let x := (s.get a).toNat % 2 ^ 32
    let y := (s.get b).toNat % 2 ^ 32
    let z := (s.get d).toNat % 2 ^ 32
    let nan : Word := 0x7FC00000
    let isNan (v : Nat) : Prop := 0x7F800000 < v % 2 ^ 31
    (x = 0x7F800000 → y = 0xFF800000 → WritesRegFlags (.fadd false d a b) s d nan fNV) ∧
    (x = 0x7F800000 → y = 0x7F800000 → WritesRegFlags (.fsub false d a b) s d nan fNV) ∧
    (x % 2 ^ 31 = 0 → y % 2 ^ 31 = 0x7F800000 → WritesRegFlags (.fmul false d a b) s d nan fNV) ∧
    (0 < x → x < 0x7F800000 → y = 0 → WritesRegFlags (.fdiv false d a b) s d 0x7F800000 fDZ) ∧
    (0 < x → x < 0x7F800000 → y = 2 ^ 31 → WritesRegFlags (.fdiv false d a b) s d 0xFF800000 fDZ) ∧
    (x % 2 ^ 31 = 0 → y % 2 ^ 31 = 0 → WritesRegFlags (.fdiv false d a b) s d nan fNV) ∧
    (x = 2 ^ 31 → WritesRegFlags (.fsqrt false d a) s d 0x80000000 0) ∧
    (2 ^ 31 < x → x ≤ 0xFF800000 → WritesRegFlags (.fsqrt false d a) s d nan fNV) ∧
    (x % 2 ^ 31 = 0 → y % 2 ^ 31 = 0x7F800000 → isNan z → WritesRegFlags (.fma false d a b) s d nan 0) ∧
    (isNan x ∨ isNan y → WritesReg (.fcmpeq false d a b) s d 0 ∧ WritesReg (.fcmplt false d a b) s d 0 ∧
      WritesReg (.fcmple false d a b) s d 0)) ∧
  ((∀ c, c < 2 ^ 32 → Fmt.f32.val c ≠ .nan → roundRne .f32 (Fmt.f32.val c) = (c, 0)) ∧
  (∀ c, c < 2 ^ 64 → Fmt.f64.val c ≠ .nan → roundRne .f64 (Fmt.f64.val c) = (c, 0)) ∧
  (∀ c, c < 2 ^ 16 → Fmt.bf16.val c ≠ .nan → roundRne .bf16 (Fmt.bf16.val c) = (c, 0)) ∧
  (∀ c, c < 2 ^ 16 → Fmt.f16.val c ≠ .nan → roundRne .f16 (Fmt.f16.val c) = (c, 0)))

/-! ## Control flow and registers -/

/-- Table 16-7 (R298): a branch that is taken sets PC := PC + 4 × off14; one that is not retires like any other word.

R299: JAL links and jumps relative to PC; JALR reads s[a] first, links and jumps to s[a] + 4 × imm14, or takes 0x03 with
nothing written when that is not a multiple of 4. -/
def Obligations.BranchesAndJumpsSetPc : Prop :=
  (∀ (a b : Reg) (off : BitVec 14) (s : State),
    let x := s.get a
    let y := s.get b
    let target := BitVec.ofInt 57 ((s.strand.pc.toNat : Int) + 4 * off.toInt)
    let takes (i : Instr) (c : Prop) : Prop := (c → Jumps i s target) ∧ (¬c → exec i s = .next s.retire)
    takes (.beq a b off) (x = y) ∧ takes (.bne a b off) (x ≠ y) ∧ takes (.blt a b off) (x.toInt < y.toInt) ∧
    takes (.bge a b off) (y.toInt ≤ x.toInt) ∧ takes (.bltu a b off) (x.toNat < y.toNat) ∧
    takes (.bgeu a b off) (y.toNat ≤ x.toNat)) ∧
  (∀ (d a : Reg) (off : BitVec 20) (imm : BitVec 14) (s : State),
    let target := ((s.get a).toNat + 4 * imm.toInt) % 2 ^ 64
    Links (.jal d off) s d (BitVec.ofInt 57 ((s.strand.pc.toNat : Int) + 4 * off.toInt)) ∧
    (target % 4 = 0 → Links (.jalr d a imm) s d (BitVec.ofInt 57 target)) ∧
    (target % 4 ≠ 0 → Traps (.jalr d a imm) s 3 target.toNat))

/-- R300 at the LOOP: a count of 0 skips the body and pushes nothing; otherwise the LOOP's PC and count register are
pushed, unless three entries are valid or the body would end at or beyond the top entry's, which takes 0x01.

R290 and R300 after an instruction that did not set PC itself: PC := PC + 4; at the last word of the top entry's body
the count register drops to 0 with the entry popped, or is decremented with PC back to the first word of the body. -/
def Obligations.LoopsRepeatTheirBody : Prop :=
  (∀ (a : Reg) (off : BitVec 14) (s : State),
    let p := s.strand.pc
    let e := BitVec.ofInt 57 ((p.toNat : Int) + 4 * off.toInt)
    let after (v : Va) : Va := BitVec.ofNat 57 (v.toNat + 4)
    let bad : Prop := 3 ≤ s.strand.loops.length ∨ ∃ top rest, s.strand.loops = top :: rest ∧ top.last.toNat ≤ e.toNat
    (s.get a = 0 → Jumps (.loop a off) s (after e)) ∧
    (s.get a ≠ 0 → bad → Traps (.loop a off) s 1 (wordOf (.loop a off)).toNat) ∧
    (s.get a ≠ 0 → ¬bad → ∃ t : State, exec (.loop a off) s = .next t ∧ OnlyStrand s t ∧ t.strand = { s.strand with
        loops := { pc := p, reg := a, last := e } :: s.strand.loops
        pc := after p, stalled := false, toForce := [], status := .running })) ∧
  (∀ s : State,
    let t := s.strand
    let u := s.retire
    let after (v : Va) : Va := BitVec.ofNat 57 (v.toNat + 4)
    OnlyStrand s u ∧
    u.strand = { t with pc := u.strand.pc, loops := u.strand.loops, regs := u.strand.regs, stalled := false, toForce := [], status := .running } ∧
    ((∀ e rest, t.loops = e :: rest → t.pc ≠ e.last) →
      u.strand.pc = after t.pc ∧ u.strand.loops = t.loops ∧ ∀ r, u.get r = s.get r) ∧
    (∀ e rest, t.loops = e :: rest → t.pc = e.last → (s.get e.reg).toNat ≤ 1 →
      u.strand.pc = after e.last ∧ u.strand.loops = rest ∧ u.get e.reg = 0 ∧ ∀ r, r ≠ e.reg → u.get r = s.get r) ∧
    (∀ e rest, t.loops = e :: rest → t.pc = e.last → 1 < (s.get e.reg).toNat →
      u.strand.pc = after e.pc ∧ u.strand.loops = t.loops ∧
      u.get e.reg = BitVec.ofNat 64 ((s.get e.reg).toNat - 1) ∧ ∀ r, r ≠ e.reg → u.get r = s.get r))

/-- Table 15-2 (R303): MFS copies a status register into s[d], by its number. The layouts are those of Tables 14-2, 13-3,
9-11, 12-6, 15-3, 11-3.

R269 and R303: MTS sets the RW fields of a status register, each under the register's own rule, and changes nothing
else; a register that is RO takes 0x02, and so do WDOG and ROLL outside the PF. -/
def Obligations.StatusRegistersAreReadAndWritten : Prop :=
  (∀ (d : Reg) (s : State),
    let t := s.strand
    let pcOf (p : Option Va) : Nat := match p with | some v => v.toNat + 2 ^ 63 | none => 0
    let reads (num : BitVec 12) (v : Nat) : Prop := WritesReg (.mfs d num) s d (BitVec.ofNat 64 v)
    reads 0x000 t.trapPc.toNat ∧ reads 0x001 t.trapCause.toNat ∧ reads 0x002 t.trapInfo.toNat ∧
    reads 0x003 (t.trapVec.toNat + (if t.trapVecValid then 2 ^ 63 else 0)) ∧ reads 0x004 (if t.inHandler then 1 else 0) ∧
    reads 0x005 (pcOf t.demandPc) ∧ reads 0x006 (pcOf t.creatorPc) ∧
    reads 0x010 (t.full.toNat + 2 * t.aliasOn.toNat + 4 * t.revoke.toNat + 8 * t.spdbg.toNat) ∧
    reads 0x011 t.leaseMax.toNat ∧ reads 0x012 t.flags.toNat ∧
    reads 0x013 (t.engSeed.toNat + t.strState.toNat * 2 ^ 32) ∧
    reads 0x014 (s.me.ctx % 4096 + s.me.fn % 64 * 4096) ∧
    (∀ i : Nat, i < 8 → ∀ j : Nat, j < 8 → ∃ v : Nat, reads (BitVec.ofNat 12 (0x18 + i)) v ∧
      v / 256 ^ j % 256 = ((s.ctx s.me.ctx).vdie (8 * i + j) &&& 0xBF).toNat) ∧
    reads 0x020 s.wdog.toNat ∧ reads 0x021 s.rollPeriod.toNat ∧
    reads 0x022 ((s.fn s.me.fn).winok.toNat + 2 * (s.fn s.me.fn).sysok.toNat) ∧ reads 0x030 s.cycle) ∧
  (∀ (d : Reg) (s : State),
    let v := s.get d
    let clamp (lo hi n : Nat) : Nat := if n < lo then lo else if hi < n then hi else n
    let seed (w : BitVec 32) : BitVec 32 := if w = 0 then 1 else w
    RetiresStrand (.mts d 0x000) s (fun t => { t with trapPc := BitVec.ofNat 57 (v.toNat % 2 ^ 57 / 4 * 4) }) ∧
    RetiresStrand (.mts d 0x003) s (fun t => { t with
      trapVec := BitVec.ofNat 57 (v.toNat % 2 ^ 57 / 4 * 4), trapVecValid := v.getLsbD 63 }) ∧
    RetiresStrand (.mts d 0x010) s (fun t => { t with
      full := v.getLsbD 0, aliasOn := v.getLsbD 1, revoke := v.getLsbD 2, spdbg := v.getLsbD 3 }) ∧
    RetiresStrand (.mts d 0x011) s (fun t => { t with leaseMax := BitVec.ofNat 13 (clamp 1 4096 (v.toNat % 2 ^ 13)) }) ∧
    RetiresStrand (.mts d 0x012) s (fun t => { t with flags := v.setWidth 6 }) ∧
    (s.anyRetained s.actor.core 0 (usesSr s.me) = false ∨ seed (v.setWidth 32) = s.strand.engSeed →
      RetiresStrand (.mts d 0x013) s (fun t => { t with
        engSeed := seed (v.setWidth 32), strState := seed ((v >>> 32).setWidth 32) })) ∧
    (∀ i : Nat, i < 8 → Retires (.mts d (BitVec.ofNat 12 (0x18 + i))) s (fun t => SameBytes s t ∧
      (∀ j : Nat, j < 8 → (t.ctx s.me.ctx).vdie (8 * i + j) = (BitVec.ofNat 8 (v.toNat / 256 ^ j) &&& 0xBF)) ∧
      (∀ n : Nat, n / 8 ≠ i → (t.ctx s.me.ctx).vdie n = (s.ctx s.me.ctx).vdie n) ∧
      t = s.onCtx s.me.ctx (fun x => { x with vdiemap := (t.ctx s.me.ctx).vdiemap }))) ∧
    (s.me.fn = 0 → Retires (.mts d 0x020) s (fun t => SameBytes s t ∧
      t = { s with wdog := BitVec.ofNat 32 (clamp 65536 (2 ^ 32 - 1) (v.toNat % 2 ^ 32)) })) ∧
    (s.me.fn = 0 → Retires (.mts d 0x021) s (fun t => SameBytes s t ∧
      t = { s with rollPeriod := BitVec.ofNat 32 (clamp 10000 1000000 (v.toNat % 2 ^ 32)) })) ∧
    (s.me.fn ≠ 0 → Traps (.mts d 0x020) s 2 0 ∧ Traps (.mts d 0x021) s 2 0) ∧
    (∀ num : BitVec 12, num ∈ [0x001#12, 0x002#12, 0x004#12, 0x005#12, 0x006#12, 0x014#12, 0x022#12, 0x030#12] →
      Traps (.mts d num) s 2 0))

/-- R305: SFLAG reads FLAGS and clears the flags that s[a] selects, in one step.

R306 and Table 16-11: RDID gives the strand's identity; R304: VDQ gives the distance of the dies that two virtual dies
name, all ones for one that is not mapped. -/
def Obligations.FlagsAndIdentityAreRead : Prop :=
  (∀ (d a : Reg) (s : State), Retires (.sflag d a) s (fun t =>
    t.get d = (if d = 0 then 0 else BitVec.ofNat 64 s.strand.flags.toNat) ∧
    (∀ k : Nat, k < 6 → t.strand.flags.getLsbD k = (s.strand.flags.getLsbD k && !(s.get a).getLsbD k)) ∧
    OnlyRegsFlags s t [d])) ∧
  (∀ (d a b : Reg) (s : State),
    let c := s.actor.core
    let rd (sel : BitVec 6) (v : Nat) : Prop := WritesReg (.rdid d sel) s d (BitVec.ofNat 64 v)
    let die (r : Reg) : Option (BitVec 32) := if 63 < (s.get r).toNat then none else s.vdie c (s.get r).toNat
    rd 0 (c % 64) ∧ rd 1 (c / 64) ∧ rd 2 c ∧ rd 3 (c / 64 * 2 ^ 38 + c % 64 * 2 ^ 32) ∧ rd 4 s.me.rank ∧
    rd 5 (s.gangCores c).length ∧ (∀ g, s.gang s.me.gang = some g → rd 6 g.inst) ∧
    (∀ n, s.nodeOf c = some n → rd 7 n.peer) ∧
    WritesReg (.vdq d a b) s d (BitVec.ofNat 64 (s.distance (die a) (die b))) ∧
    (die a = none ∨ die b = none → WritesReg (.vdq d a b) s d 0xFFFFFFFF))

/-! ## Memory -/

/-- R312: LDS reads 2^w bytes of the strand's own scratchpad at s[a] + imm11 × 2^w; 0x07 past the scratchpad, then 0x03 for a
misaligned address, then 0x12 with SPDBG set where a word in flight writes the bytes.

R312: STS writes the low 2^w bytes of s[d] to the strand's own scratchpad and no other byte. (`stored` is the model's own
record of the lines stored to since the last RCFENCE, R202.) -/
def Obligations.ScratchLoadsAndStores : Prop :=
  (∀ (d : Reg) (w : BitVec 2) (x : Bool) (a : Reg) (imm : BitVec 11) (s : State),
    let n := 2 ^ w.toNat
    let ea := (s.get a).toNat + imm.toNat * n
    let v := ofBytes ((List.range n).map (fun i => s.sbyte s.actor.core (ea + i)))
    let busy : Prop := s.strand.spdbg = true ∧ s.pendingBytes s.actor.core ea (ea + n) = true
    let i : Instr := .lds d w x a imm
    (0x200000 ≤ ea → Traps i s 7 ea) ∧
    (ea < 0x200000 → ea % n ≠ 0 → Traps i s 3 ea) ∧
    (ea < 0x200000 → ea % n = 0 → busy → Traps i s 0x12 ea) ∧
    (ea < 0x200000 → ea % n = 0 → ¬busy →
      WritesReg i s d (if x then BitVec.ofInt 64 (sint (8 * n) v) else BitVec.ofNat 64 v))) ∧
  (∀ (d : Reg) (w : BitVec 2) (a : Reg) (imm : BitVec 11) (s : State),
    let n := 2 ^ w.toNat
    let ea := (s.get a).toNat + imm.toNat * n
    let c := s.actor.core
    let i : Instr := .sts d w a imm
    (0x200000 ≤ ea → Traps i s 7 ea) ∧
    (ea < 0x200000 → ea % n ≠ 0 → Traps i s 3 ea) ∧
    (ea < 0x200000 → ea % n = 0 → Unshared s true ea (ea + n) → Retires i s (fun t =>
      ScratchStored s t c ea (toBytes n (s.get d).toNat) ∧ SameMem s t ∧ OnlyCore s t c ∧
      t.core c = { s.core c with scratch := (t.core c).scratch, stored := (t.core c).stored })))

/-- R310 through h0 to h14: LD reads 2^w bytes at handle VA + s[a] + imm7 × 2^w, extends them, and changes no byte; ST writes
the low 2^w bytes of s[b] there and, but for the dirty log's own record of the page (R87), no other byte.

Table 10-7 and R307: what an access through a handle that is not ready, or outside its page, does; LD and ST alike. A
PENDING handle makes the strand wait: its instruction is issued again. -/
def Obligations.LoadsAndStoresThroughHandles : Prop :=
  (∀ (r : Reg) (h : BitVec 4) (w : BitVec 2) (x : Bool) (a : Reg) (imm : BitVec 7) (p : Trans × Handle) (s : State),
    let n := 2 ^ w.toNat
    let ea := s.eaM h w a imm
    let v := ofBytes (s.readVia p.1 ea n)
    (Reaches s h ea n .read p → Retires (.ld r h w x a imm) s (fun t =>
      t.get r = (if r = 0 then 0 else if x then BitVec.ofInt 64 (sint (8 * n) v) else BitVec.ofNat 64 v) ∧
      t.strand.handle h.toNat = p.2 ∧ SameStrandBut s t [r] ∧ SameBytes s t)) ∧
    (Reaches s h ea n .write p → Unshared s false ea (ea + n) → Retires (.st r h w a imm) s (fun t =>
      StoredAt (s.noteWrite s.me.fn p.1 ea) t p.1.mtype (p.1.at ea) (toBytes n (s.get r).toNat) ∧
      t.strand.handle h.toNat = p.2 ∧ SameStrandBut s t [] ∧ ∀ c b, t.sbyte c b = s.sbyte c b))) ∧
  (∀ (r : Reg) (h : BitVec 4) (w : BitVec 2) (x : Bool) (a : Reg) (imm : BitVec 7) (s : State),
    let ea := s.eaM h w a imm
    let v := s.strand.handle h.toNat
    let out : Prop := ea < v.tr.base ∨ v.tr.base + v.tr.size ≤ ea
    let both (P : Instr → Prop) : Prop := P (.ld r h w x a imm) ∧ P (.st r h w a imm)
    h ≠ 15 →
    (v.st = .invalid → both (fun i => Traps i s 6 ea)) ∧
    (v.st = .failed → both (fun i => Traps i s (if v.failPerm then 5 else 4) ea)) ∧
    (v.st = .pending → both (fun i => exec i s = .next (s.onStrand (fun t => { t with stalled := true })))) ∧
    (v.st = .revoked → s.strand.revoke = true → both (fun i => Traps i s 6 ea)) ∧
    (v.st = .valid → out → both (fun i => Traps i s 7 ea)) ∧
    (v.st = .valid → ¬out → s.grants s.me.fn v.tr ea .read = true → ea % 2 ^ w.toNat ≠ 0 → Traps (.ld r h w x a imm) s 3 ea) ∧
    (v.st = .valid → ¬out → v.tr.wr = true → s.grants s.me.fn v.tr ea .write = true → ea % 2 ^ w.toNat ≠ 0 →
      Traps (.st r h w a imm) s 3 ea))

/-- R168, R169 and Table 10-1: LD and ST through h15 at a place of a core that R169 admits. A scratchpad's bytes are read and
written; an accumulator's elements too, in a bank that is not lost to the planner (R238); a scalar register and a handle VA
are read; the engine configuration region (Table 9-1) gives the ring, pipe, format, alias and MCFG registers and takes a
format entry, MCFG while ring M is empty, the configuration of an empty pipe, a shadow doubleword of LNT slots 0 to 11; one
of LNT slots 12 to 15 takes 0x01 (R147).

R169 and Table 10-1: an h15 access at or above 2^40 takes 0x07; one that R169 does not admit, and one at an offset that the
table does not list, take 0x02, for LD and for ST. A store to the scalar or handle region, to a bank of an enabled pair or
to an RO register of the engine configuration region takes 0x02, before 0x03 (R255); to BASEG and LOG2N of a ring that is
not idle too, and sets CFGERR (R138). A width that the table does not accept there, and a misaligned address, take 0x03. -/
def Obligations.OnChipLoadsAndStores : Prop :=
  (∀ (r : Reg) (w : BitVec 2) (x : Bool) (a : Reg) (imm : BitVec 7) (c off : Nat) (s : State),
    let n := 2 ^ w.toNat
    let ea := s.eaM 15 w a imm
    let v := ofBytes ((List.range n).map (fun i => s.sbyte c (off + i)))
    (s.onChip s.me.fn s.me.ctx ea n false = .ok (c, .scratch off) →
      WritesReg (.ld r 15 w x a imm) s r (if x then BitVec.ofInt 64 (sint (8 * n) v) else BitVec.ofNat 64 v)) ∧
    (s.onChip s.me.fn s.me.ctx ea n true = .ok (c, .scratch off) → Retires (.st r 15 w a imm) s (fun t =>
      ScratchStored s t c off (toBytes n (s.get r).toNat) ∧ SameMem s t ∧ OnlyCore s t c ∧
      t.core c = { s.core c with scratch := (t.core c).scratch, stored := (t.core c).stored })) ∧
    (let loads (p : Place) (v : Nat) : Prop := s.onChip s.me.fn s.me.ctx ea n false = .ok (c, p) →
       WritesReg (.ld r 15 w x a imm) s r (if x then BitVec.ofInt 64 (sint (8 * n) v) else BitVec.ofNat 64 v)
     let stores (p : Place) (f : Core → Core) : Prop := s.onChip s.me.fn s.me.ctx ea n true = .ok (c, p) →
       Retires (.st r 15 w a imm) s (fun t => SameBytes s t ∧ t = s.onCore c f)
     let k := s.core c
     let val := (s.get r).toNat
     let held (b : Nat) : Prop := bmem k.accLost (b % 4) = false
     (∀ b i, held b → loads (.acc b i) ((s.accAt c b i).toNat + if n = 8 then (s.accAt c b (i + 1)).toNat * 2 ^ 32 else 0)) ∧
     (∀ b i, held b → i % 65536 < 65535 → s.onChip s.me.fn s.me.ctx ea n true = .ok (c, .acc b i) →
       Retires (.st r 15 w a imm) s (fun t => t.accAt c b i = BitVec.ofNat 32 val ∧
         (n = 8 → t.accAt c b (i + 1) = BitVec.ofNat 32 (val / 2 ^ 32)) ∧ SameBytes s t ∧ OnlyCore s t c ∧
         (∀ b' i', b' % 4 ≠ b % 4 ∨ (i' % 65536 ≠ i % 65536 ∧ (n = 8 → i' % 65536 ≠ i % 65536 + 1)) →
           t.accAt c b' i' = s.accAt c b' i') ∧
         t.core c = { k with acc := (t.core c).acc })) ∧
     (∀ q : Nat, q < 64 → loads (.reg q) (k.strand.get (BitVec.ofNat 6 q)).toNat) ∧
     (∀ q, loads (.hva q) (k.strand.handle q).va.toNat) ∧
     (∀ q : Nat, q < 6 → let g := k.ring q
       loads (.cfg (0x40 * q)) (g.baseG.toNat + g.log2n.toNat * 2 ^ 16) ∧ loads (.cfg (0x40 * q + 8)) g.rhead.toNat ∧
       loads (.cfg (0x40 * q + 0x10)) g.rtail.toNat ∧ loads (.cfg (0x40 * q + 0x18)) g.rkeep.toNat) ∧
     loads (.cfg 0x400) (k.pair01.toNat + 2 * k.pair23.toNat) ∧
     (∀ q : Nat, q < 32 → let p := k.pipe q
       loads (.cfg (0x1000 + 0x10 * q)) (p.baseG.toNat + p.slotG.toNat * 2 ^ 16 + p.nslotM1.toNat * 2 ^ 28
         + p.prod.toNat * 2 ^ 36 + p.cons.toNat * 2 ^ 40) ∧
       (p.fill = 0 → stores (.cfg (0x1000 + 0x10 * q)) (fun k => k.setPipe q { p with
         baseG := BitVec.ofNat 16 val, slotG := BitVec.ofNat 12 (val / 2 ^ 16), nslotM1 := BitVec.ofNat 8 (val / 2 ^ 28)
         prod := BitVec.ofNat 4 (val / 2 ^ 36), cons := BitVec.ofNat 4 (val / 2 ^ 40) })) ∧
       loads (.cfg (0x3000 + 8 * q)) (sget 0 k.aliases q).toNat) ∧
     (∀ e : Nat, e < 64 → loads (.cfg (0x2000 + 8 * e)) (sget 0 k.fmtTab e).toNat ∧
       stores (.cfg (0x2000 + 8 * e)) (fun k => { k with fmtTab := sset 0 k.fmtTab e (BitVec.ofNat 6 val) })) ∧
     ((k.ring 1).rtail = (k.ring 1).rkeep →
       stores (.cfg 0x400) (fun k => { k with pair01 := val.testBit 0, pair23 := val.testBit 1 })) ∧
     (∀ e m j : Nat, e < 2 → m < 16 → j < 34 → let o := 0x10000 + 0x4000 * e + 0x400 * m + 0x200 + 8 * j
       (m < 12 → stores (.cfg o) (fun k => { k with
         lntShadow := sset 0 k.lntShadow (16 * e + m) (imgSet (k.lntNext e m) j val) })) ∧
       (12 ≤ m → s.onChip s.me.fn s.me.ctx ea n true = .ok (c, .cfg o) →
         Traps (.st r 15 w a imm) s 1 (wordOf (.st r 15 w a imm)).toNat)))) ∧
  (∀ (r : Reg) (w : BitVec 2) (x : Bool) (a : Reg) (imm : BitVec 7) (s : State),
    let ea := s.eaM 15 w a imm
    let traps (code : Nat) : Prop := Traps (.ld r 15 w x a imm) s code ea ∧ Traps (.st r 15 w a imm) s code ea
    (2 ^ 40 ≤ ea → traps 7) ∧
    (ea < 2 ^ 40 → s.admits s.me.fn s.me.ctx (ea / 2 ^ 32) = false → traps 2) ∧
    (ea < 2 ^ 40 → s.admits s.me.fn s.me.ctx (ea / 2 ^ 32) = true → placeOf (ea % 2 ^ 32) = none → traps 2) ∧
    (ea < 2 ^ 40 → s.admits s.me.fn s.me.ctx (ea / 2 ^ 32) = true →
      let n := 2 ^ w.toNat
      let o := ea % 2 ^ 32
      let k := s.core (ea / 2 ^ 32)
      let ld (code : Nat) : Prop := Traps (.ld r 15 w x a imm) s code ea
      let st (code : Nat) : Prop := Traps (.st r 15 w a imm) s code ea
      let acc : Prop := 0x01000000 ≤ o ∧ o < 0x01100000
      let pair : Bool := if (o - 0x01000000) / 0x40000 < 2 then k.pair01 else k.pair23
      let cfg : Prop := 0x02000000 ≤ o ∧ o < 0x02020000
      let off := o - 0x02000000
      let ring := off / 0x40
      let reg : Prop := 0x03000000 ≤ o ∧ o < 0x03000200
      let hva : Prop := 0x03000400 ≤ o ∧ o < 0x03000478
      (o < 0x200000 → o % n ≠ 0 → ld 3 ∧ st 3) ∧
      (acc → (n < 4 ∨ o % n ≠ 0) → ld 3) ∧ (acc → pair = true → st 2) ∧
      (acc → pair = false → (n < 4 ∨ o % n ≠ 0) → st 3) ∧
      ((reg ∨ hva ∨ cfg) → (n ≠ 8 ∨ o % n ≠ 0) → ld 3) ∧ (reg ∨ hva → st 2) ∧
      (cfg → off < 0x180 → 8 ≤ off % 0x40 → off % 0x40 < 0x38 → st 2) ∧
      (cfg → 0x408 ≤ off → off < 0x430 → st 2) ∧ (cfg → 0x3000 ≤ off → off < 0x3100 → st 2) ∧
      (cfg → 0x1000 ≤ off → off < 0x1200 → (8 ≤ off % 0x10 ∨ (k.pipe ((off - 0x1000) / 0x10)).fill ≠ 0) → st 2) ∧
      (cfg → off < 0x180 → off % 0x40 < 8 → (k.ring ring).idle = false → exec (.st r 15 w a imm) s =
        .next (State.trap (s.onRing (ea / 2 ^ 32) ring (fun g => { g with cfgerr := true })) 2 ea)) ∧
      (cfg → 0x2000 ≤ off → off < 0x2200 → (n ≠ 8 ∨ o % n ≠ 0) → st 3)))

/-- R308, R309 and Table 17-2: TRANS puts the VA into the handle and makes it VALID from the core TLB or PENDING; HINV makes it
INVALID and keeps the VA (the model's choice, log 41: the manual does not say that HVA changes); HQRY gives the fields of the
table (that WR and SIZE too read 0 for a handle that is not VALID is the model's choice, log 57). R311: PF takes no event: it
retires and does nothing through h15, an invalid handle, a failing translation, a HOSTS or window page; it waits where
another agent leases the line (R177); else it changes nothing but what the caches hold and what leaves them, or meets the
integrity failure of its line (R106). -/
def Obligations.HandleInstructionsSetState : Prop :=
  ∀ (h d a : Reg) (f : BitVec 4) (w : BitVec 2) (x : Bool) (imm : BitVec 7) (s : State),
    let va : Va := BitVec.ofNat 57 (s.get a).toNat
    let v := s.strand.handle h.toNat
    let hit := s.me.tlbHit s.me.fn s.me.ctx va.toNat
    let size : Nat := match v.tr.size with | 0x1000 => 1 | 0x10000 => 2 | 0x200000 => 3 | 0x40000000 => 4 | _ => 0
    let mtype : Nat := match v.tr.mtype with | .dev => 0 | .hostc => 1 | .hosts => 2
    let kept (i : Instr) (n : Handle) : Prop := Retires i s (fun t =>
      t.strand = { s.strand with handles := t.strand.handles } ∧ t.strand.handle h.toNat = n ∧
      (∀ k, k ≠ h.toNat → t.strand.handle k = s.strand.handle k) ∧ SameBytes s t ∧
      ∀ c, c ≠ s.actor.core → t.core c = s.core c)
    (∀ tr, hit = some tr → kept (.trans h a) { va := va, st := .valid, tr := tr }) ∧
    (hit = none → kept (.trans h a) { va := va, st := .pending }) ∧
    kept (.hinv h) { va := v.va } ∧
    WritesReg (.hqry d h) s d (BitVec.ofNat 64 (match v.st with
      | .invalid => 0
      | .pending => 1
      | .valid => 2 + size * 2 ^ 3 + mtype * 2 ^ 6 + v.tr.l2atom.toNat * 2 ^ 8 + v.tr.wr.toNat * 2 ^ 9 + v.tr.keyid % 256 * 2 ^ 10
      | .revoked => 3
      | .failed => 4)) ∧
    (let i : Instr := .pf f w x a imm
     let ea := s.eaM f w a imm
     let found := s.handlePage f.toNat ea (if x then .write else .read)
     let check (tr : Trans) : Chk Unit := s.accessCheckOn s.me.fn (some s.actor.core) tr ea 1 false false
     (f = 15 ∨ (s.strand.handle f.toNat).st ≠ .valid → exec i s = .next s.retire) ∧
     (f ≠ 15 → (s.strand.handle f.toNat).st = .valid →
       (∀ e, found = .error e → (∀ dpa, e ≠ .integrity dpa) → exec i s = .next s.retire) ∧
       (∀ p, found = .ok p → p.1.mtype = .hosts ∨ p.1.isWindow = true → exec i s = .next s.retire) ∧
       (∀ p, found = .ok p → p.1.mtype ≠ .hosts → p.1.isWindow = false →
         (check p.1 = .ok () →
           Retires i s (fun t => t = { s with lines := t.lines, counters := t.counters, broken := t.broken })) ∧
         (s.leasedByOther (some s.actor.core) (p.1.line ea) = true →
           exec i s = .next (s.onStrand (fun t => { t with stalled := true }))) ∧
         (∀ dpa, check p.1 = .error (.integrity dpa) →
           exec i s = .next (s.retire.integrityFail s.me.fn dpa (some s.actor.core))))))

/-- R313 through h0 to h14, for the thirteen 4-byte and the thirteen 8-byte atomics: where the access passes R307's checks
and the page is not HOSTS, s[d] takes the old value, the new value is stored where the operation writes, FLAGS takes its
flags, and it retires; other bytes change only by the dirty log's record of the page (R87).

Table 10-3 (R175): an atomic through h15 runs in a scratchpad's atomic unit where that unit has it, else takes 0x09; at a
place behind h15 that is no scratchpad it takes 0x09.

R58, R396 and R397: on a HOSTS page ADD, XCHG and CAS go to the host root and the strand waits, every other operation takes
0x09, the page being recorded as written when the request goes out (R87); the root's answer retires the instruction with the old value in s[d] and the new value in host memory, and an
unsuccessful one takes 0x09. -/
def Obligations.AtomicsReturnOldAndStoreNew : Prop :=
  (∀ (d : Reg) (h : BitVec 4) (a b : Reg) (s : State),
    let fp (op : Val → Val → Val × NumFlags) (w o v _ : Nat) : Nat × NumFlags :=
      let g : Fmt := if w = 8 then .f64 else .f32
      finish g .rne false 0 (op (g.val o) (g.val v))
    let always (_ _ : Nat) : Bool := true
    let equal (o c : Nat) : Bool := decide (o = c)
    let ea := s.strand.ea h.toNat (s.get a) 0
    let done (i : Instr) (w : Nat) (f : Nat → Nat → Nat → Nat → Nat × NumFlags) (stores : Nat → Nat → Bool) : Prop :=
      let v := (s.get b).toNat % 2 ^ (8 * w)
      let cmp := (s.get d).toNat % 2 ^ (8 * w)
      ∀ p, Reaches s h ea w .atomic p → p.1.mtype ≠ .hosts → Unshared s false ea (ea + w) →
        let old := ofBytes (s.readVia p.1 ea w)
        let u := s.noteWrite s.me.fn p.1 ea
        ∃ t, exec i s = .next t.retire ∧
          t.get d = (if d = 0 then 0 else BitVec.ofNat 64 old) ∧ (∀ r, r ≠ d → t.get r = s.get r) ∧
          t.strand.flags = s.strand.flags ||| (f w old v cmp).2 ∧
          (if stores old cmp then StoredAt u t p.1.mtype (p.1.at ea) (toBytes w (f w old v cmp).1) else SameMem u t) ∧
          (∀ c x, t.sbyte c x = s.sbyte c x) ∧ t.strand.pc = s.strand.pc
    let both (four eight : Instr) (f : Nat → Nat → Nat → Nat → Nat × NumFlags) (stores : Nat → Nat → Bool) : Prop :=
      done four 4 f stores ∧ done eight 8 f stores
    both (.atom32Add d h a b) (.atom64Add d h a b) (fun w o v _ => ((o + v) % 2 ^ (8 * w), 0)) always ∧
    both (.atom32And d h a b) (.atom64And d h a b) (fun _ o v _ => (o &&& v, 0)) always ∧
    both (.atom32Or d h a b) (.atom64Or d h a b) (fun _ o v _ => (o ||| v, 0)) always ∧
    both (.atom32Xor d h a b) (.atom64Xor d h a b) (fun _ o v _ => (o ^^^ v, 0)) always ∧
    both (.atom32Min d h a b) (.atom64Min d h a b) (fun w o v _ => (if sint (8 * w) o ≤ sint (8 * w) v then o else v, 0)) always ∧
    both (.atom32Max d h a b) (.atom64Max d h a b) (fun w o v _ => (if sint (8 * w) v ≤ sint (8 * w) o then o else v, 0)) always ∧
    both (.atom32Minu d h a b) (.atom64Minu d h a b) (fun _ o v _ => (min o v, 0)) always ∧
    both (.atom32Maxu d h a b) (.atom64Maxu d h a b) (fun _ o v _ => (max o v, 0)) always ∧
    both (.atom32Xchg d h a b) (.atom64Xchg d h a b) (fun _ _ v _ => (v, 0)) always ∧
    both (.atom32Cas d h a b) (.atom64Cas d h a b) (fun _ o v c => (if o = c then v else o, 0)) equal ∧
    both (.atom32Fadd d h a b) (.atom64Fadd d h a b) (fp vadd) always ∧
    both (.atom32Fmin d h a b) (.atom64Fmin d h a b) (fp (fun x y => (vmin x y, 0))) always ∧
    both (.atom32Fmax d h a b) (.atom64Fmax d h a b) (fp (fun x y => (vmax x y, 0))) always) ∧
  (∀ (d a b : Reg) (c : Nat) (place : Place) (s : State),
    let always (_ _ : Nat) : Bool := true
    let equal (o x : Nat) : Bool := decide (o = x)
    let ea := s.strand.ea 15 (s.get a) 0
    let meets (w : Nat) : Prop := s.onChip s.me.fn s.me.ctx ea w true = .ok (c, place)
    let runs (i : Instr) (w : Nat) (f : Nat → Nat → Nat → Nat → Nat) (stores : Nat → Nat → Bool) : Prop := meets w →
      match place with
      | .scratch off =>
        let v := (s.get b).toNat % 2 ^ (8 * w)
        let cmp := (s.get d).toNat % 2 ^ (8 * w)
        let old := ofBytes ((List.range w).map (fun n => s.sbyte c (off + n)))
        ∃ t, exec i s = .next t.retire ∧
          t.get d = (if d = 0 then 0 else BitVec.ofNat 64 old) ∧ (∀ r, r ≠ d → t.get r = s.get r) ∧ SameMem s t ∧
          (if stores old cmp then ScratchStored s t c off (toBytes w (f w old v cmp)) else SameBytes s t)
      | _ => Traps i s 9 ea
    let lacks (i : Instr) (w : Nat) : Prop := meets w → Traps i s 9 ea
    runs (.atom32Add d 15 a b) 4 (fun w o v _ => (o + v) % 2 ^ (8 * w)) always ∧ lacks (.atom64Add d 15 a b) 8 ∧
    runs (.atom32And d 15 a b) 4 (fun _ o v _ => o &&& v) always ∧ lacks (.atom64And d 15 a b) 8 ∧
    runs (.atom32Or d 15 a b) 4 (fun _ o v _ => o ||| v) always ∧ lacks (.atom64Or d 15 a b) 8 ∧
    runs (.atom32Xor d 15 a b) 4 (fun _ o v _ => o ^^^ v) always ∧ lacks (.atom64Xor d 15 a b) 8 ∧
    runs (.atom32Min d 15 a b) 4 (fun w o v _ => if sint (8 * w) o ≤ sint (8 * w) v then o else v) always ∧ lacks (.atom64Min d 15 a b) 8 ∧
    runs (.atom32Max d 15 a b) 4 (fun w o v _ => if sint (8 * w) v ≤ sint (8 * w) o then o else v) always ∧ lacks (.atom64Max d 15 a b) 8 ∧
    runs (.atom32Minu d 15 a b) 4 (fun _ o v _ => min o v) always ∧ lacks (.atom64Minu d 15 a b) 8 ∧
    runs (.atom32Maxu d 15 a b) 4 (fun _ o v _ => max o v) always ∧ lacks (.atom64Maxu d 15 a b) 8 ∧
    runs (.atom32Xchg d 15 a b) 4 (fun _ _ v _ => v) always ∧
    runs (.atom64Xchg d 15 a b) 8 (fun _ _ v _ => v) always ∧
    runs (.atom32Cas d 15 a b) 4 (fun _ o v c => if o = c then v else o) equal ∧
    runs (.atom64Cas d 15 a b) 8 (fun _ o v c => if o = c then v else o) equal ∧
    lacks (.atom32Fadd d 15 a b) 4 ∧ lacks (.atom64Fadd d 15 a b) 8 ∧
    lacks (.atom32Fmin d 15 a b) 4 ∧ lacks (.atom64Fmin d 15 a b) 8 ∧
    lacks (.atom32Fmax d 15 a b) 4 ∧ lacks (.atom64Fmax d 15 a b) 8) ∧
  (∀ (d : Reg) (h : BitVec 4) (a b : Reg) (p : Trans × Handle) (r : HostsAtom) (s : State),
    let ea := s.strand.ea h.toNat (s.get a) 0
    let asks (i : Instr) (w op : Nat) : Prop := Reaches s h ea w .atomic p → p.1.mtype = .hosts →
      Unshared s false ea (ea + w) →
      let asked : HostsAtom := {
        core := s.actor.core, addr := p.1.at ea, va := ea, base := p.1.base, size := p.1.size, w := w, op := op, d := d
        v := BitVec.ofNat 64 ((s.get b).toNat % 2 ^ (8 * w)), cmp := BitVec.ofNat 64 ((s.get d).toNat % 2 ^ (8 * w)) }
      ∃ t : State, exec i s = .next t ∧ t.strand.status = .waitHosts ∧ t.hostsAtoms = s.hostsAtoms ++ [asked] ∧
        SameMem (s.noteWrite s.me.fn p.1 ea) t ∧ (∀ c n, t.sbyte c n = s.sbyte c n) ∧ ∀ x, t.get x = s.get x
    let refused (i : Instr) (w : Nat) : Prop := Reaches s h ea w .atomic p → p.1.mtype = .hosts → Traps i s 9 ea
    asks (.atom32Add d h a b) 4 0 ∧ asks (.atom32Xchg d h a b) 4 8 ∧ asks (.atom32Cas d h a b) 4 9 ∧
    asks (.atom64Add d h a b) 8 0 ∧ asks (.atom64Xchg d h a b) 8 8 ∧ asks (.atom64Cas d h a b) 8 9 ∧
    refused (.atom32And d h a b) 4 ∧ refused (.atom64And d h a b) 8 ∧ refused (.atom32Or d h a b) 4 ∧
    refused (.atom64Or d h a b) 8 ∧ refused (.atom32Xor d h a b) 4 ∧ refused (.atom64Xor d h a b) 8 ∧
    refused (.atom32Min d h a b) 4 ∧ refused (.atom64Min d h a b) 8 ∧ refused (.atom32Max d h a b) 4 ∧
    refused (.atom64Max d h a b) 8 ∧ refused (.atom32Minu d h a b) 4 ∧ refused (.atom64Minu d h a b) 8 ∧
    refused (.atom32Maxu d h a b) 4 ∧ refused (.atom64Maxu d h a b) 8 ∧ refused (.atom32Fadd d h a b) 4 ∧
    refused (.atom64Fadd d h a b) 8 ∧ refused (.atom32Fmin d h a b) 4 ∧ refused (.atom64Fmin d h a b) 8 ∧
    refused (.atom32Fmax d h a b) 4 ∧ refused (.atom64Fmax d h a b) 8 ∧
    (∀ core, s.hostsAtoms.find? (fun x => decide (x.core = core)) = some r →
      let old := mval s.hostMem r.addr r.w
      let new : Nat := if r.op = 0 then (old + r.v.toNat) % 2 ^ (8 * r.w) else if r.op = 8 then r.v.toNat
        else if old = r.cmp.toNat then r.v.toNat else old
      let rest := s.hostsAtoms.filter (fun x => decide (x.core ≠ core))
      (∃ t : State, exec (.hostsAtomicCompletion core true) s = .next (t.onStrandOf core (fun x => (x.set r.d (BitVec.ofNat 64 old)).retired)) ∧
        t.hostsAtoms = rest ∧ t.cores = s.cores ∧ (∀ x, mbyte t.mem x = mbyte s.mem x) ∧
        (∀ x, r.addr + r.w ≤ x ∨ x < r.addr → mbyte t.hostMem x = mbyte s.hostMem x) ∧
        (new < 256 ^ r.w → mval t.hostMem r.addr r.w = new)) ∧
      exec (.hostsAtomicCompletion core false) s = .next (State.trapOf { s with hostsAtoms := rest } core 9 r.va)))

/-- R314 and R177: LEASE takes the line of a DEV or HOSTC page that is no window's and not L2ATOM, for LEASEMAX cycles, and no
other cache keeps a copy, where the function has a way on the die for it (R79) and the strand's L1 a place; until its L1 holds
the line it waits. It is refused with 0x0A where a lease is held or the page does not allow one, 0x13 on a window page. UNLEASE
ends it and says whether one was still held, not yet expired; LEASE_EXPIRY ends it.

R315, R197, R198 and R202: a FENCE that its scope policy and its window allow retires with no other effect, because an
instruction is one step and every earlier access of the strand has been performed; SYS and WINDOW scopes that SCOPEPOL
forbids take 0x02, a window the function takes no part in 0x13. RCFENCE parts the words enqueued so far on every copy ring
from the later ones, which use no record cached before; the model's note of the lines stored since is empty (R202). -/
def Obligations.LeasesAndFencesHoldAndOrder : Prop :=
  (∀ (d a : Reg) (h : BitVec 4) (core : Nat) (p : Trans × Handle) (s : State),
    let ea := s.strand.ea h.toNat (s.get a) 0
    let allowed : Prop := p.1.mtype ≠ .hosts ∧ p.1.l2atom = false ∧
      (s.strand.lease = none ∨ s.strand.leaseEnd ≤ s.cycle)
    let line := p.1.line ea
    let die := dieOf s.actor.core
    let owned := (s.keepHandle h.toNat p.2).ownLine s.me.fn die (some s.actor.core) .e p.1 ea
    (h ≠ 15 → s.handlePage h.toNat ea .read = .ok p →
      (p.1.isWindow = true → Traps (.lease h a) s 0x13 ea) ∧
      (p.1.isWindow = false → ¬allowed → Traps (.lease h a) s 0x0A (ea / 64 * 64)) ∧
      (p.1.isWindow = false → allowed → s.accessCheck s.me.fn (some s.actor.core) p.1 ea 1 false = .ok () →
        (owned.ownedInL1 s.actor.core line = false → exec (.lease h a) s = .next (s.onStrand (fun t => { t with stalled := true }))) ∧
        ((∃ way ∈ s.waysOf s.me.fn die, ∀ x, s.occupant line die way = some x → s.leasedOn die x = false) →
          (s.l1Others s.actor.core line).length < 8 → Retires (.lease h a) s (fun t => t.strand.lease = some line ∧
          t.strand.leaseEnd = s.cycle + s.strand.leaseMax.toNat ∧
          (∃ y ∈ (t.dirLine line).l1, y.core = s.actor.core ∧ (y.st = .e ∨ y.st = .m)) ∧
          (∀ y ∈ (t.dirLine line).l1, y.core = s.actor.core) ∧ (∀ y ∈ (t.dirLine line).l2, y.die = die) ∧
          (∀ r, t.get r = s.get r) ∧ SameBytes s t)))) ∧
    (2 ^ 40 ≤ ea → h = 15 → Traps (.lease h a) s 7 ea) ∧
    (ea < 2 ^ 40 → h = 15 → s.admits s.me.fn s.me.ctx (ea / 2 ^ 32) = true → (placeOf (ea % 2 ^ 32)).isSome = true →
      Traps (.lease h a) s 0x0A (ea / 64 * 64)) ∧
    WritesRegAnd (.unlease d) s d (if s.strand.lease.isSome ∧ s.cycle < s.strand.leaseEnd then 0 else 1)
      (fun t => t.strand.lease = none) ∧
    (∃ t : State, exec (.leaseExpiry core) s = .next t ∧ SameBytes s t ∧ OnlyCore s t core ∧
      t.core core = (s.core core).onStrand (fun x => { x with lease := none }))) ∧
  (∀ (kind : BitVec 2) (scope : BitVec 3) (win : Reg) (s : State),
    let f := s.fn s.me.fn
    let part : Prop := ∃ w, s.window win.toNat = some w ∧ w.participant s.me.fn = true
    (scope.toNat < 4 → exec (.fence kind scope win) s = .next s.retire) ∧
    (scope = 4 → f.winok = true → part → exec (.fence kind scope win) s = .next s.retire) ∧
    (scope = 5 → f.sysok = true → exec (.fence kind scope win) s = .next s.retire) ∧
    (scope = 4 → f.winok = false → Traps (.fence kind scope win) s 2 0) ∧
    (scope = 5 → f.sysok = false → Traps (.fence kind scope win) s 2 0) ∧
    (scope = 4 → f.winok = true → ¬part → Traps (.fence kind scope win) s 0x13 win.toNat) ∧
    Retires .rcfence s (fun t => SameBytes s t ∧ OnlyCore s t s.actor.core ∧
      t.me = { s.me with rings := t.me.rings, stored := [] } ∧
      ∀ r, t.me.ring r = if 2 ≤ r ∧ r ≤ 5 then { s.me.ring r with fence := s.tick } else s.me.ring r))

/-! ## Synchronisation -/

/-- R316 and Table 17-4: SREAD reads a semaphore, SINIT sets it to s[b][31:0], SSIG adds the signed 16-bit s[b][15:0] and
saturates; an ID that the strand may not name takes 0x02, and SSIG or SINIT on a planner slot 0x01.

R318 and R145: SALIAS binds an alias slot to a semaphore with its physical die, or unbinds it with VALID = 0, once no
retained word names the slot. -/
def Obligations.SemaphoreInstructionsReadAndWrite : Prop :=
  (∀ (d a b : Reg) (k : Nat) (s : State),
    let id := s.semId s.actor.core (s.get a)
    let n : Int := sint 16 (s.get b).toNat
    let sum : Int := ((s.sem k).toNat : Int) + n
    let sat : Nat := if sum < 0 then 0 else if 0xFFFFFFFF < sum then 0xFFFFFFFF else sum.toNat
    (id = .ok k →
      WritesReg (.sread d a) s d (BitVec.ofNat 64 (s.sem k).toNat) ∧
      (plannerSlot k = false →
        Retires (.ssig a b) s (fun t => SemBecomes s t k (BitVec.ofNat 32 sat)) ∧
        Retires (.sinit a b) s (fun t => SemBecomes s t k ((s.get b).setWidth 32))) ∧
      (plannerSlot k = true → Traps (.ssig a b) s 1 (wordOf (.ssig a b)).toNat ∧
        Traps (.sinit a b) s 1 (wordOf (.sinit a b)).toNat)) ∧
    (∀ v : Nat, id = .error (.event 2 v) → Traps (.sread d a) s 2 v ∧ Traps (.ssig a b) s 2 v ∧ Traps (.sinit a b) s 2 v ∧
      ∀ eq, Traps (.swait eq a b) s 2 v)) ∧
  (∀ (n a : Reg) (k : Nat) (s : State), n.toNat < 32 →
    let c := s.actor.core
    let v := s.get a
    let named (x : State) : Bool := (List.range 6).any (fun r => x.anyRetained c r (namesSlot r (96 + n.toNat)))
    let u := if named s then s.demandKeep c else s
    named u = false →
    let binds (x : BitVec 32) : Prop := Retires (.salias n a) s (fun t =>
      sget 0 t.me.aliases n.toNat = x ∧ (∀ i, i ≠ n.toNat → sget 0 t.me.aliases i = sget 0 u.me.aliases i) ∧
      t = u.onCore c (fun y => { y with aliases := t.me.aliases }))
    (v.getLsbD 31 = false → binds 0) ∧
    (v.getLsbD 31 = true → s.semId c v = .ok k → binds (BitVec.ofNat 32 (k + 2 ^ 31))))

/-- R317: with no exception to deliver, SWAIT passes at once where its condition holds, GE behind no earlier waiter and then
subtracting its count; otherwise the strand waits and joins the semaphore's waiters.

R144 and R317: SEMAPHORE_WAKE serves an EQ watcher that has matched first, else the first queued waiter if the value is
large enough: a strand's SWAIT retires; an engine's await passes with AWT set in its word's mark; the count is
subtracted. -/
def Obligations.SemaphoreWaitsPassQueueAndWake : Prop :=
  (∀ (a b : Reg) (k : Nat) (s : State),
    let c : BitVec 32 := (s.get b).setWidth 32
    s.semId s.actor.core (s.get a) = .ok k → s.pendingOn s.actor.core k = none →
    let waits (eq : Bool) : Prop := ∃ t : State, exec (.swait eq a b) s = .next t ∧ t.strand.status = .waitSem k ∧
      t.semWaiters = s.semWaiters ++ [{ core := s.actor.core, ring := none, key := k, eq := eq, c := c }] ∧
      (∀ j, t.sem j = s.sem j) ∧ (∀ r, t.get r = s.get r) ∧ SameBytes s t ∧ t.strand.pc = s.strand.pc
    (s.sem k = c → exec (.swait true a b) s = .next s.retire) ∧
    (s.sem k ≠ c → waits true) ∧
    (s.semQueued k = false → c.toNat ≤ (s.sem k).toNat →
      if c = 0 then exec (.swait false a b) s = .next s.retire
      else Retires (.swait false a b) s (fun t => SemBecomes s t k (BitVec.ofNat 32 ((s.sem k).toNat - c.toNat)))) ∧
    (s.semQueued k = true ∨ (s.sem k).toNat < c.toNat → waits false)) ∧
  (∀ (die idx : Nat) (w : SemWaiter) (s : State), die < 4 → idx < 65536 →
    let k := die * 65536 + idx
    let matched := s.semWaiters.find? (fun w => decide (w.key = k) && w.eq && w.matched)
    let queued := s.semWaiters.find? (fun w => decide (w.key = k) && !w.eq)
    let rest := s.semWaiters.filter (fun x => decide (x ≠ w))
    let left : BitVec 32 := BitVec.ofNat 32 ((s.sem k).toNat - w.c.toNat)
    (matched = some w → exec (.semaphoreWake die idx) s =
      .next (State.onStrandOf { s with semWaiters := rest } w.core Strand.retired)) ∧
    (matched = none → queued = some w → (s.sem k).toNat < w.c.toNat → exec (.semaphoreWake die idx) s = .next s) ∧
    (matched = none → queued = some w → w.c.toNat ≤ (s.sem k).toNat →
      ∃ t : State, (if w.c = 0 then t = { s with semWaiters := rest } else SemBecomes { s with semWaiters := rest } t k left) ∧
        (w.ring = none → exec (.semaphoreWake die idx) s = .next (t.onStrandOf w.core Strand.retired)) ∧
        (∀ r, w.ring = some r → ∃ u : State, exec (.semaphoreWake die idx) s = .next u ∧
          ((u.core w.core).ring r).inWait .await = false ∧
          markAwt (u.mark w.core r ((s.core w.core).ring r).awaitSeq) = true ∧ u.sem k = t.sem k ∧
          (((s.core w.core).ring r).wait = .await →
            ((s.core w.core).ring r).awaitSeq = ((s.core w.core).ring r).next ∧ ((u.core w.core).ring r).wait = .none))))

/-- R179, R180 and R319: WAITQ gives 2 where the context has no wait area and 1 where no record is free; otherwise it claims the
lowest free record, appends it to the queue word and suspends the strand. A strand that a save or a fault took out of its WAITQ
reads its record: WOKEN, it clears USED and gets 0; else it is suspended again.

R319, R179 and R180: WAKE removes min(s[b], count) waiters from the front of the queue and gives their number; with none to
remove, and in a context with no wait area, no byte but the dirty log's record changes (R307). One waiter removed: the record at the
head leaves the queue word, and the strand suspended on it clears its record and its WAITQ retires with 0; no other strand
changes. A waiter that is not resident has WOKEN set in its record. Several are removed one after another.

R320: a strand at BAR counts as arrived; the barrier opens when every strand of the gang is in it or has exited, and then
every strand in it retires its BAR; no byte and no register changes but for the ends of loop bodies at retirement. -/
def Obligations.RecordsAndBarriersSuspendAndWake : Prop :=
  (∀ (d a : Reg) (h : BitVec 4) (p : Trans × Handle) (r v : Nat) (s u : State),
    let ea := s.strand.ea h.toNat (s.get a) 0
    let k := s.keepHandle h.toNat p.2
    let q := ofBytes (k.readVia p.1 ea 8)
    let i : Instr := .waitq d h a
    let gives (n : Word) : Prop := Retires i s (fun t => t.get d = (if d = 0 then 0 else n) ∧ (∀ x, x ≠ d → t.get x = s.get x) ∧
      SameMem (s.noteWrite s.me.fn p.1 ea) t ∧ ∀ c n, t.sbyte c n = s.sbyte c n)
    let joins (w : State) (word : Nat) : Prop := w.accessCheck w.me.fn (some w.actor.core) p.1 ea 8 true = .ok () →
      exec i s = .next ((w.storeVia p.1 ea (toBytes 8 word)).onStrand
        (fun t => { t with status := .waitQueue r d, stalled := true }))
    (s.strand.record = none → s.queuePage h.toNat ea = .ok p →
      ((s.ctx s.me.ctx).waitVa = 0 → gives 2) ∧
      ((s.ctx s.me.ctx).waitVa ≠ 0 → k.freeRecord 0 4096 = .ok none → gives 1) ∧
      ((s.ctx s.me.ctx).waitVa ≠ 0 → k.freeRecord 0 4096 = .ok (some r) → k.setWaitRecord r 0 false true = .ok u →
        qCount q = 0 → joins u (qWord q 1 (r + 1) (r + 1))) ∧
      ((s.ctx s.me.ctx).waitVa ≠ 0 → k.freeRecord 0 4096 = .ok (some r) → k.setWaitRecord r 0 false true = .ok u →
        qCount q ≠ 0 → u.waitRecord (qTail q - 1) = .ok v →
        ∀ w, u.setWaitRecord (qTail q - 1) (r + 1) (nbit v 13) (nbit v 14) = .ok w →
        joins w (qWord q (qCount q + 1) (qHead q) (r + 1)))) ∧
    (s.strand.record = some r → s.waitRecord r = .ok v →
      (v / 2 ^ 13 % 2 = 0 → exec i s = .next (s.onStrand (fun t =>
        { t with status := .waitQueue r d, stalled := true, record := none }))) ∧
      (v / 2 ^ 13 % 2 = 1 → s.setWaitRecord r 0 false false = .ok u →
        exec i s = .next ((u.onStrand (fun t => { t with record := none })).result d 0)))) ∧
  (∀ (d a b : Reg) (h : BitVec 4) (p : Trans × Handle) (r : State × Nat) (s u : State),
    let ea := s.strand.ea h.toNat (s.get a) 0
    let q := ofBytes (s.readVia p.1 ea 8)
    let area := (s.ctx s.me.ctx).waitVa
    let n := if area = 0 then 0 else min (s.get b).toNat (qCount q)
    let k := s.keepHandle h.toNat p.2
    let head := qHead q - 1
    let i : Instr := .wake d h a b
    let stays (w : State) : Prop := w.accessCheck w.me.fn (some w.actor.core) p.1 ea 8 true = .ok ()
    s.queuePage h.toNat ea = .ok p →
    (n = 0 → Retires i s (fun t => t.get d = 0 ∧ (∀ x, x ≠ d → t.get x = s.get x) ∧
      SameMem (s.noteWrite s.me.fn p.1 ea) t ∧ ∀ c n, t.sbyte c n = s.sbyte c n)) ∧
    (n ≠ 0 → k.wakeFirst q n = .ok r → stays r.1 → Retires i s (fun t =>
      t.get d = (if d = 0 then 0 else BitVec.ofNat 64 n) ∧ ofBytes (t.readVia p.1 ea 8) = r.2 % 2 ^ 64 ∧
      t = (r.1.storeVia p.1 ea (toBytes 8 r.2)).set d (BitVec.ofNat 64 n))) ∧
    (∀ v : Nat, n = 1 → k.waitRecord head = .ok v →
      let left := qCount q - 1
      let word := qWord q left (if left = 0 then 0 else v % 2 ^ 13) (qTail q)
      (k.sleeper (head % 4096) = none → k.setWaitRecord head (v % 2 ^ 13) true (v.testBit 14) = .ok u → stays u →
        exec i s = .next ((u.storeVia p.1 ea (toBytes 8 word)).result d 1)) ∧
      (∀ c e, k.sleeper (head % 4096) = some (c, e) → k.setWaitRecord head 0 false false = .ok u → stays (u.onStrandOf c (fun t => (t.set e 0).retired)) →
        exec i s = .next (((u.onStrandOf c (fun t => (t.set e 0).retired)).storeVia p.1 ea (toBytes 8 word)).result d 1))) ∧
    (∀ m, k.wakeFirst q (m + 1) = (match k.wakeFirst q 1 with
      | .ok x => x.1.wakeFirst x.2 m
      | .error e => .error e))) ∧
  (∀ s : State,
    let cores := s.gangCores s.actor.core
    let u := s.onStrand (fun t => { t with status := .waitBar, stalled := true, barArr := t.barArr + 1 })
    let arrived (c : Nat) : Prop := (u.core c).strand.status = .waitBar ∨ (u.core c).strand.status = .exited
    ((∃ c ∈ cores, ¬arrived c) → exec .bar s = .next u) ∧
    ((∀ c ∈ cores, arrived c) → ∃ t : State, exec .bar s = .next t ∧ SameBytes s t ∧
      (∀ c ∈ cores, (u.core c).strand.status = .waitBar → t.core c = (u.core c).onStrand Strand.retired) ∧
      (∀ c, c ∉ cores ∨ (u.core c).strand.status ≠ .waitBar → t.core c = u.core c)))

/-- R384: EXIT ends the strand's issue, its lease, its loops; with no flag set and no exception pending on a ring it changes no
byte and no node; FLAGS that are set go to CTXFLAGS of the context's save area, where it can be written now.

R385 and R386: PAUSE idles the strand for max(s[a], 1) cycles, at most 65,535, and PAUSE_END retires it; WFE returns the
latch and clears it at once where a bit is set, else waits, with a limit where s[a] is not 0; WFE_WAKE and
WFE_LIMIT_EXPIRY return the latch as it then stands.

R388, R389 and R264: PYLD counts a yield and LIVE puts the descriptor of 96 scratch bytes in force; each retires and is a
save point, at which a strand with a save decision pending stops issuing. A LIVE at an address that is not a multiple of
32 takes 0x03, past the scratchpad 0x07, with a bad descriptor 0x01. -/
def Obligations.StrandsEndIdleAndReachSavePoints : Prop :=
  (∀ (p : Trans) (s : State),
    let c := s.actor.core
    let f := s.strand.flags
    let u := (s.abandonWalks c).onStrand (fun t => { t with lease := none, loops := [], status := .exited, stalled := false })
    let x := s.me.ctx
    let pend : Prop := ∃ r, r < 6 ∧ (s.me.ring r).pendx = true
    (∃ t : State, exec .exit s = .next t ∧ t.strand.status = .exited ∧ t.strand.lease = none ∧ t.strand.loops = [] ∧
      ∀ r, t.get r = s.get r) ∧
    (f = 0 → ¬pend → ∃ t : State, exec .exit s = .next t ∧ SameBytes s t ∧ t.nodes = s.nodes) ∧
    (∀ old w, f ≠ 0 → u.peek (u.ctx x).fn x (u.ctx x).saveVa 8 = .ok old → walk u (u.ctx x).fn x (u.ctx x).saveVa .write = .ok p →
      u.poke (u.ctx x).fn x (u.ctx x).saveVa (toBytes 8 (ofBytes old ||| f.toNat)) = .ok (some w) →
      ∃ t : State, exec .exit s = .next t ∧ ofBytes (t.readVia p (u.ctx x).saveVa 8) = (ofBytes old ||| f.toNat))) ∧
  (∀ (d a : Reg) (core : Nat) (limited : Bool) (s : State),
    let n := (s.get a).toNat
    let t0 := s.strand
    let there := (s.core core).strand
    let returns (i : Instr) (c : Nat) (e : Reg) : Prop := ∃ t : State, exec i s = .next t ∧ OnlyCore s t c ∧ SameBytes s t ∧
      ∃ x : Strand, (t.core c).strand = x.retired ∧ x.latch = 0 ∧
        x.get e = (if e = 0 then 0 else BitVec.ofNat 64 ((s.core c).strand.latch).toNat) ∧
        ∀ r, r ≠ e → x.get r = (s.core c).strand.get r
    let span := if n = 0 then 1 else if 65535 < n then 65535 else n
    exec (.pause a) s = .next (s.onStrand (fun t => { t with status := .paused, stalled := true, wakeAt := s.cycle + span })) ∧
    (there.status = .paused → exec (.pauseEnd core) s = .next (s.onStrandOf core Strand.retired)) ∧
    (t0.latch ≠ 0 → returns (.wfe d a) s.actor.core d) ∧
    (t0.latch = 0 → exec (.wfe d a) s = .next (s.onStrand (fun t => { t with
      status := .wfe d (decide (n ≠ 0)), stalled := true, wakeAt := s.cycle + n }))) ∧
    (there.status = .wfe d limited → there.latch ≠ 0 → returns (.wfeWake core) core d) ∧
    (there.status = .wfe d true → returns (.wfeLimitExpiry core) core d)) ∧
  (∀ (a : Reg) (s : State),
    let ea := (s.get a).toNat
    let d := BitVec.ofNat 768 (s.sval s.actor.core ea 96)
    let point (t : State) : Prop := if s.me.saveAsk then t.strand.status = .saving else t.strand.status = .running
    (∃ t u : State, exec .pyld s = .next t ∧ point t ∧ SameBytes s t ∧ u.strand.pylds = s.strand.pylds + 1 ∧
      (∀ r, u.get r = s.get r) ∧ u.strand.pc = s.strand.pc ∧ t.strand = { u.retire.strand with status := t.strand.status }) ∧
    (ea % 32 ≠ 0 → Traps (.live a) s 3 ea) ∧
    (ea % 32 = 0 → 0x200000 < ea + 96 → Traps (.live a) s 7 ea) ∧
    (ea % 32 = 0 → ea + 96 ≤ 0x200000 → liveBad d = true → Traps (.live a) s 1 (wordOf (.live a)).toNat) ∧
    (ea % 32 = 0 → ea + 96 ≤ 0x200000 → liveBad d = false → ∃ t : State, exec (.live a) s = .next t ∧ point t ∧
      t.strand.live = some d ∧ t.strand.liveBytes = some (liveSize d) ∧ SameBytes s t))

/-! ## Rings, pipes, tables, ranges -/

/-- R322, R287 and R276: ENQ writes the word of s[a], s[a + 1] (and s[a + 2] with N/16 of s[b] for ring M) into the slot at
RTAIL with a zero mark and advances RTAIL, changing no other byte; a full ring makes the strand wait; an N that is 0, not a
multiple of 16 or above 512 takes 0x0F. On ring M a full ring is first asked to give up its confirmed words (R157).

R323 and Table 9-3: RINGQ reads RHEAD, RTAIL, RKEEP, the status word, CWP and RCMT by its field code; a read of the status
word clears CFGERR. BUSY: a word is unconfirmed, or the next one has begun, waits, has taken its await or made progress. -/
def Obligations.RingsTakeAndReportWords : Prop :=
  (∀ (ring a b : Reg) (s : State),
    let r := ring.toNat
    let c := s.actor.core
    let g := s.me.ring r
    let n := (s.get b).toNat
    let low := (s.get a).toNat + (s.get (a + 1)).toNat * 2 ^ 64
    let i : Instr := .enq ring a b
    let writesFrom (u : State) (w : Nat) : Prop := Retires i s (fun t =>
      ScratchStored u t c (g.slotAddr g.rtail) (toBytes 24 w ++ toBytes 8 0) ∧ SameMem u t ∧ OnlyCore u t c ∧
      t.me.ring r = { u.me.ring r with rtail := g.rtail + 1, snaps := (t.me.ring r).snaps } ∧
      (∀ q, q ≠ r → t.me.ring q = u.me.ring q) ∧ t.strand = s.strand)
    let writes := writesFrom s
    let waits (u : State) : Prop := exec i s = .next (u.onStrand (fun t => { t with stalled := true }))
    let u := s.demandKeep c
    let matrix (w : Nat) : Prop := let x := low + (s.get (a + 2)).toNat * 2 ^ 128
      w % 2 ^ 143 = x % 2 ^ 143 ∧ w / 2 ^ 143 % 32 = n / 16 % 32 ∧ w / 2 ^ 148 = x / 2 ^ 148
    (6 ≤ r → Traps i s 1 (wordOf i).toNat) ∧
    (r = 0 → g.full = false → writes (low % 2 ^ 96)) ∧
    (2 ≤ r → r < 6 → g.full = false → s.enqGate c (BitVec.ofNat 192 (low % 2 ^ 96)) = .ok () → writes (low % 2 ^ 96)) ∧
    (r = 0 → g.full = true → waits s) ∧
    (2 ≤ r → r < 6 → g.full = true → s.enqGate c (BitVec.ofNat 192 (low % 2 ^ 96)) = .ok () → waits s) ∧
    (r = 1 → (n = 0 ∨ n % 16 ≠ 0 ∨ 512 < n) → Traps i s 0x0F n) ∧
    (r = 1 → n ≠ 0 → n % 16 = 0 → n ≤ 512 →
      (g.full = false → ∃ w : Nat, writes w ∧ matrix w) ∧
      (g.full = true → (u.me.ring 1).full = true → waits u) ∧
      (g.full = true → (u.me.ring 1).full = false → ∃ w : Nat, writesFrom u w ∧ matrix w))) ∧
  (∀ (d ring : Reg) (s : State),
    let r := ring.toNat
    let g := s.me.ring r
    let m := s.mark s.actor.core r g.next
    let active : Bool := decide (g.flight ≠ []) || decide (g.jobs ≠ []) || (decide (g.next ≠ g.rtail) &&
      (g.begun || decide (g.wait ≠ .none ∧ g.wait ≠ .reset) || m.testBit 62 || decide (m % 2 ^ 62 ≠ 0) || decide (g.next ≠ g.rhead)))
    let status := active.toNat + g.resets % 4 * 2 + g.cfgerr.toNat * 8 + g.xcode.toNat * 2 ^ 8 + g.xseq.toNat % 2 ^ 16 * 2 ^ 16
    let reads (f : Reg) (v : Nat) : Prop := WritesReg (.ringq d ring f) s d (BitVec.ofNat 64 v)
    g.pendx = false →
    reads 0 g.rhead.toNat ∧ reads 1 g.rtail.toNat ∧ reads 2 g.rkeep.toNat ∧
    Retires (.ringq d ring 3) s (fun t => t.get d = (if d = 0 then 0 else BitVec.ofNat 64 status) ∧
      t.me.ring r = { g with cfgerr := false } ∧ (∀ q, q ≠ r → t.me.ring q = s.me.ring q) ∧ SameBytes s t ∧
      t.strand = { s.strand with regs := t.strand.regs } ∧ (∀ x, x ≠ d → t.get x = s.get x) ∧
      ∀ c, c ≠ s.actor.core → t.core c = s.core c) ∧
    reads 4 (if r < 2 ∨ g.rtail = g.rkeep then 0 else s.mark s.actor.core r g.rhead % 2 ^ 62) ∧
    reads 5 (if r = 1 then g.rcmt.toNat else 0))

/-- R324 and R151: PDEF sets a pipe that is empty and that no retained word names, with HEAD, TAIL and FILL 0, and takes 0x10
where it is not empty or the value is reserved; PADV pops the slot at HEAD of a pipe that the strand consumes, and takes
0x10 where that is misuse. A change of FILL sets latch bit 3 of the consumer's strand (R386).

R326, R152 and R153: LNTW copies 272 scratch bytes to the shadow of a slot 1 to 11; LNTGO makes the shadow active once no
retained word of the engine names the slot; FMTW sets a format table entry once no retained word uses the table. -/
def Obligations.PipesAndTablesAreWritten : Prop :=
  (∀ (q a : Reg) (s : State), q.toNat < 32 →
    let c := s.actor.core
    let v := (s.get a).toNat
    let u := if s.pipeNamed c q.toNat then s.demandKeep c else s
    let p := s.me.pipe q.toNat
    let good : Prop := (u.me.pipe q.toNat).fill = 0 ∧ v < 2 ^ 44 ∧ v / 2 ^ 36 % 16 < 8 ∧ v / 2 ^ 40 % 16 < 8
    let set : Pipe := {
      baseG := BitVec.ofNat 16 v, slotG := BitVec.ofNat 12 (v / 2 ^ 16), nslotM1 := BitVec.ofNat 8 (v / 2 ^ 28)
      prod := BitVec.ofNat 4 (v / 2 ^ 36), cons := BitVec.ofNat 4 (v / 2 ^ 40), fill := 0, head := 0, tail := 0 }
    let mine : Prop := p.slotG ≠ 0 ∧ p.cons = 0 ∧ (q = 31 ∨ p.fill ≠ 0)
    (u.pipeNamed c q.toNat = false → good → Retires (.pdef q a) s (fun t =>
      t.me.pipe q.toNat = set ∧
      (∀ n, n ≠ q.toNat → t.me.pipe n = u.me.pipe n) ∧ t = u.onMe (fun k => { k with pipes := t.me.pipes }))) ∧
    (u.pipeNamed c q.toNat = false → ¬good → Traps (.pdef q a) s 0x10 q.toNat) ∧
    (mine → q ≠ 31 → Retires (.padv q) s (fun t =>
      t.me.pipe q.toNat = { p with fill := p.fill - 1, head := (p.head + 1) % (p.nslotM1.toNat + 1) } ∧
      (∀ n, n ≠ q.toNat → t.me.pipe n = s.me.pipe n) ∧ t.strand = { s.strand with latch := bset s.strand.latch 3 } ∧ SameBytes s t)) ∧
    (mine → q = 31 → exec (.padv q) s = .next s.retire) ∧
    (¬mine → Traps (.padv q) s 0x10 q.toNat)) ∧
  (∀ (slot : BitVec 4) (eng : Bool) (e a : Reg) (s : State),
    let c := s.actor.core
    let ea := (s.get a).toNat
    let key := 16 * eng.toNat + slot.toNat
    let opened : Prop := 1 ≤ slot.toNat ∧ slot.toNat ≤ 11
    let u := if s.anyRetained c eng.toNat (lntNames eng slot) then s.demandKeep c else s
    let table (x : State) : Bool := x.anyRetained c 0 (tableFmt 0) || x.anyRetained c 1 (tableFmt 1)
    let w := if table s then s.demandKeep c else s
    (¬opened → Traps (.lntw slot eng a) s 1 (wordOf (.lntw slot eng a)).toNat ∧
      Traps (.lntgo slot eng) s 1 (wordOf (.lntgo slot eng)).toNat) ∧
    (opened → ea % 32 = 0 → ea + 272 ≤ 0x200000 → (s.strand.spdbg && s.pendingBytes c ea (ea + 272)) = false →
      Retires (.lntw slot eng a) s (fun t =>
        sget 0 t.me.lntShadow key = BitVec.ofNat 2176 (s.sval c ea 272) ∧
        (∀ k, k ≠ key → sget 0 t.me.lntShadow k = sget 0 s.me.lntShadow k) ∧
        t = s.onMe (fun k => { k with lntShadow := t.me.lntShadow }) ∧ SameBytes s t)) ∧
    (opened → u.anyRetained c eng.toNat (lntNames eng slot) = false → Retires (.lntgo slot eng) s (fun t =>
        sget 0 t.me.lntActive key = sget 0 u.me.lntShadow key ∧
        (∀ k, k ≠ key → sget 0 t.me.lntActive k = sget 0 u.me.lntActive k) ∧
        t = u.onMe (fun k => { k with lntActive := t.me.lntActive }))) ∧
    (table w = false → Retires (.fmtw e a) s (fun t =>
        sget 0 t.me.fmtTab e.toNat = (s.get a).setWidth 6 ∧
        (∀ k, k ≠ e.toNat → sget 0 t.me.fmtTab k = sget 0 w.me.fmtTab k) ∧
        t = w.onMe (fun k => { k with fmtTab := t.me.fmtTab }))))

/-- R325 and R122: TAKE hands out the next chunk of the strand's own range and lowers U; at a level that is not STEAL, or with
no work left in the gang, it gives the empty range [0, 0); with work left elsewhere it asks the next core.

R122 and R402: a steal request takes the upper half of the victim's own range, rounded down, whatever the victim's strand is
doing, after its EXIT or its save too, or nothing from a range of at most one; a range received becomes the thief's own and
its TAKE goes on; an empty answer sends it to the next core while U is not 0. -/
def Obligations.RangesAreTakenAndStolen : Prop :=
  (∀ (d lvl b : Reg) (count chunk : Nat) (s : State),
    let c := s.actor.core
    let t0 := s.strand
    let hi := min (t0.ownLo + chunk) t0.ownHi
    let i : Instr := .take d lvl b
    let gives (lo up u : Nat) (own : Nat) : Prop := Retires i s (fun t =>
      t.get d = (if d = 0 then 0 else BitVec.ofNat 64 lo) ∧ t.get b = (if b = 0 then 0 else BitVec.ofNat 64 up) ∧
      (∀ r, r ≠ d → r ≠ b → t.get r = s.get r) ∧ t.strand.ownLo = own ∧ t.strand.ownHi = t0.ownHi ∧ t.gangU c = u ∧ SameBytes s t)
    lvl.toNat < 6 → (d ≠ b ∨ d = 0) →
    ((∀ x y, s.levelOf c lvl.toNat ≠ some (x, 3, y)) → gives 0 0 (s.gangU c) t0.ownLo) ∧
    (s.levelOf c lvl.toNat = some (count, 3, chunk) → t0.ownLo < t0.ownHi → gives t0.ownLo hi (s.gangU c - (hi - t0.ownLo)) hi) ∧
    (s.levelOf c lvl.toNat = some (count, 3, chunk) → t0.ownHi ≤ t0.ownLo → s.gangU c = 0 → gives 0 0 0 t0.ownLo) ∧
    (s.levelOf c lvl.toNat = some (count, 3, chunk) → t0.ownHi ≤ t0.ownLo → s.gangU c ≠ 0 → 1 < (s.gangCores c).length →
      exec i s = .next (s.onStrand (fun t => { t with
        status := .stealing (nextRank s.me.rank s.me.rank (s.gangCores c).length), record := t.queued, stalled := true })))) ∧
  (∀ (thief victim rank lo hi : Nat) (s : State), thief ≠ victim →
    let v := (s.core victim).strand
    let t0 := (s.core thief).strand
    let n := v.ownHi - v.ownLo
    let asked : Prop := t0.status = .stealing rank ∧ (s.gangCores thief)[rank]? = some victim ∧ t0.reply = none
    let answered : Prop := t0.status = .stealing rank ∧ t0.reply = some (lo, hi)
    (asked → 2 ≤ n → ∃ t : State, exec (.stealRequest thief victim) s = .next t ∧
      (t.core victim).strand = { v with ownHi := v.ownHi - n / 2 } ∧
      (t.core thief).strand = { t0 with reply := some (v.ownHi - n / 2, v.ownHi) } ∧ SameBytes s t ∧
      ∀ c, c ≠ thief → c ≠ victim → t.core c = s.core c) ∧
    (asked → n < 2 → ∃ t : State, exec (.stealRequest thief victim) s = .next t ∧ t.core victim = s.core victim ∧
      (t.core thief).strand = { t0 with reply := some (0, 0) } ∧ SameBytes s t) ∧
    (answered → lo < hi → ∃ t : State, exec (.stealAnswer thief) s = .next t ∧ OnlyCore s t thief ∧
      (t.core thief).strand = { t0 with ownLo := lo, ownHi := hi, reply := none, status := .running }) ∧
    (answered → hi ≤ lo → ∃ t : State, exec (.stealAnswer thief) s = .next t ∧ OnlyCore s t thief ∧
      (t.core thief).strand = { t0 with reply := none, status :=
        (if s.gangU thief = 0 then .running
         else .stealing (nextRank rank (s.core thief).rank (s.gangCores thief).length)) }))

/-! ## Lazy tiles -/

/-- R334 and R335: TLD and TLDS append a leaf with its descriptor's format, rank, extents and place, after every check of its
record, its format, its space and, for a VA, its pages; TFILL appends a scalar of s[a] as FP32 rounded to BF16, with the
flags of that rounding and of the rounding to its own format. That a bad record's reason 5 comes before reason 3 is the
model's choice (log 93).

R336: TMM and TMMS append a product of two named operands whose inner extents agree and whose formats a matrix word
accepts, neither a scalar; TMMS needs the scales of both. An operand register that names nothing gives reason 1, extents
that do not agree 4, which comes before reasons 3 and 2 (the model's order, log 18).

R337: the elementwise instructions append a node of the shape and format of their operands under the scalar rule; TCVT takes
its own format, TSEL its condition from the node that td names on entry. That TSEL's condition takes no part in the format
rule is the model's choice (log 93). -/
def Obligations.TileOperationsAppendNodes : Prop :=
  (∀ (td a : Reg) (fmt : BitVec 6) (s : State),
    let ea := (s.get a).toNat
    let d := TileDesc.of (s.sread s.actor.core ea 64)
    let f := s.resolveFmt d.fmt
    let iv := d.intervals f
    let node (k : NodeKind) : Node := {
      kind := k, fmt := f, rank := d.rank, ext := d.ext
      body := .leaf (d.interval f).1.toNat (d.interval f).2.toNat d.base (((nibs f / 2 : Nat) : Int) :: d.str.drop 1)
        (if d.scaled then some (d.scbase, d.scstr) else none) }
    let leaves (sp : Bool) : List CamEntry := iv.map (fun r => { scratch := sp, lo := r.1.toNat, hi := r.2.toNat, leaves := [] })
    let ready : Prop := ea % 32 = 0 ∧ ea + 64 ≤ 0x200000 ∧ d.bad = false ∧ nodeFmt f = true
    let g := s.resolveFmt fmt
    let r1 := roundRne .bf16 (Fmt.f32.val ((s.get a).toNat % 2 ^ 32))
    (ready → d.place (.tlds td a) true f = .ok () → Appends (.tlds td a) s td (node .tlds) (leaves true) 0) ∧
    (ready → d.place (.tld td a) false f = .ok () →
      (∀ r ∈ iv, s.walkPages r.2.toNat ((r.2 - r.1).toNat / 4096 + 2) r.1.toNat = .ok ()) →
      Appends (.tld td a) s td (node .tld) (leaves false) 0) ∧
    (∀ x, fmtOf g = some x → g ≠ 7 → Appends (.tfill td a fmt) s td
      { kind := .tfill, fmt := g, rank := 1, ext := [1, 1, 1, 1], body := .fill (BitVec.ofNat 32 (r1.1 * 65536)) } []
      (r1.2 ||| (roundRne x (Fmt.bf16.val r1.1)).2)) ∧
    (ea % 32 ≠ 0 → Traps (.tld td a) s 3 ea ∧ Traps (.tlds td a) s 3 ea) ∧
    (ea % 32 = 0 → ea + 64 ≤ 0x200000 → d.bad = true → RefusesTile (.tld td a) s 5 ∧ RefusesTile (.tlds td a) s 5) ∧
    (nodeFmt g = false → RefusesTile (.tfill td a fmt) s 3)) ∧
  (∀ (ofmt : BitVec 3) (td ta tb : Reg) (na nb : Nat) (x y : Int × Int) (s : State),
    let a := s.me.thunks.node na
    let b := s.me.thunks.node nb
    let ea := a.extents
    let eb := b.extents
    let agree : Prop := ea.getD 0 1 = eb.getD 1 1 ∧ ea.drop 2 = [1, 1] ∧ eb.drop 2 = [1, 1]
    let named : Prop := s.strand.tile ta = some na ∧ s.strand.tile tb = some nb
    let fit : Prop := agree ∧ matFmt a.fmt = true ∧ matFmt b.fmt = true ∧ a.scalar = false ∧ b.scalar = false
    let node (k : NodeKind) (body : Body) : Node := {
      kind := k, fmt := ofmt.setWidth 6, rank := 2, ext := [eb.getD 0 1, ea.getD 1 1, 1, 1], opnd := [na, nb], body := body }
    (named → fit → Appends (.tmm ofmt td ta tb) s td (node .tmm .none) [] 0) ∧
    (named → fit → a.roleScales true = some x → b.roleScales false = some y →
      Appends (.tmms ofmt td ta tb) s td (node .tmms (.scales x.1 x.2 y.1 y.2)) [] 0) ∧
    (s.strand.tile ta = none → RefusesTile (.tmm ofmt td ta tb) s 1 ∧ RefusesTile (.tmms ofmt td ta tb) s 1) ∧
    (named → ¬agree → RefusesTile (.tmm ofmt td ta tb) s 4 ∧ RefusesTile (.tmms ofmt td ta tb) s 4) ∧
    (named → fit → a.roleScales true = none → RefusesTile (.tmms ofmt td ta tb) s 7)) ∧
  (∀ (td ta tb : Reg) (mode : BitVec 3) (fmt : BitVec 6) (na nb nc : Nat) (n : Node) (s : State),
    let t := s.me.thunks
    let a := t.node na
    let b := t.node nb
    let two (i : Instr) (sub : Nat) : Prop := elementwiseShape i [a, b] [a, b] [7] = .ok n →
      Appends i s td { n with kind := .tew, sub := sub, opnd := [na, nb] } [] 0
    let one (i : Instr) (sub : Nat) (no : List (BitVec 6)) : Prop := elementwiseShape i [a] [a] no = .ok n →
      Appends i s td { n with kind := .tun, sub := sub, opnd := [na] } [] 0
    s.strand.tile ta = some na →
    (s.strand.tile tb = some nb →
      two (.tewAdd td ta tb) 0 ∧ two (.tewSub td ta tb) 1 ∧ two (.tewMul td ta tb) 2 ∧ two (.tewDiv td ta tb) 3 ∧
      two (.tewMax td ta tb) 4 ∧ two (.tewMin td ta tb) 5 ∧
      (a.scalar = false → b.scalar = false → a.extents = b.extents → a.fmt = b.fmt → a.fmt ≠ 7 →
        Appends (.tewAdd td ta tb) s td { kind := .tew, sub := 0, fmt := a.fmt, rank := a.rank, ext := a.ext, opnd := [na, nb] } [] 0) ∧
      (s.strand.tile td = some nc → elementwiseShape (.tsel td ta tb) [t.node nc, a, b] [a, b] [7] = .ok n →
        Appends (.tsel td ta tb) s td { n with kind := .tsel, opnd := [nc, na, nb] } [] 0)) ∧
    one (.tunExp td ta) 0 [3, 4, 7] ∧ one (.tunLog td ta) 1 [3, 4, 7] ∧ one (.tunRcp td ta) 2 [3, 4, 7] ∧
    one (.tunRsq td ta) 3 [3, 4, 7] ∧ one (.tunTanh td ta) 4 [3, 4, 7] ∧ one (.tunSilu td ta) 5 [3, 4, 7] ∧
    one (.tunNeg td ta) 6 [7] ∧ one (.tunAbs td ta) 7 [7] ∧
    (nodeFmt (s.resolveFmt fmt) = true → Appends (.tcvt mode td ta fmt) s td
      { kind := .tcvt, sub := mode.toNat, fmt := s.resolveFmt fmt, rank := a.rank, ext := a.ext, opnd := [na] } [] 0))

/-- R338 to R340: TRED reduces one axis to extent 1 and refuses scalars, I32 and E8S; TMAP takes its extents from four 16-bit
fields, 0 standing for 65,536, and its map from a map register, which MAPSET and MAPROW write.

R343 to R345: TDROP takes a register's name away, and does nothing but retire where it names none; TQRY reads a node's
properties; TARENA sets the arena while no plan is in flight and no persistent block is held. -/
def Obligations.TileReductionsMapsAndNames : Prop :=
  (∀ (isMax : Bool) (axis : BitVec 2) (td ta : Reg) (m : BitVec 4) (sr : BitVec 5) (na : Nat) (mr a b : BitVec 6)
    (row : BitVec 2) (s : State),
    let n := s.me.thunks.node na
    let e (c : Nat) : Nat := let v := (s.get (sr.setWidth 6)).toNat / 2 ^ (16 * c) % 2 ^ 16; if v = 0 then 65536 else v
    let rank := if e 3 ≠ 1 then 4 else if e 2 ≠ 1 then 3 else if e 1 ≠ 1 then 2 else 1
    let ea := (s.get a).toNat
    let old := s.strand.mapReg mr.toNat
    let coeffs := [0, 1, 2, 3].map (fun c => sint 16 ((s.get a).toNat / 2 ^ (16 * c))) ++ [sint 32 (s.get b).toNat]
    let sets (i : Instr) (v : List Int) : Prop := Retires i s (fun t => t.strand.mapReg mr.toNat = v ∧
      (∀ k, k ≠ mr.toNat → t.strand.mapReg k = s.strand.mapReg k) ∧
      t = s.onStrand (fun x => { x with maps := t.strand.maps }) ∧ SameBytes s t)
    (s.strand.tile ta = some na → n.scalar = false → n.fmt ≠ 4 → n.fmt ≠ 7 → Appends (.tred isMax axis td ta) s td
      { kind := .tred, sub := axis.toNat + (if isMax then 4 else 0), fmt := n.fmt, rank := n.rank
        ext := n.extents.set axis.toNat 1, opnd := [na] } [] 0) ∧
    (s.strand.tile ta = some na → (n.scalar = true ∨ n.fmt = 4 ∨ n.fmt = 7) → RefusesTile (.tred isMax axis td ta) s 3) ∧
    (s.strand.tile ta = some na → Appends (.tmap td ta m sr) s td
      { kind := .tmap, fmt := n.fmt, rank := rank, ext := [e 0, e 1, e 2, e 3], opnd := [na]
        body := .map (s.strand.mapReg m.toNat) } [] 0) ∧
    (ea % 16 = 0 → ea + 80 ≤ 0x200000 → sets (.mapset mr a)
      ((List.range 20).map (fun i => sint 32 (ofBytes ((List.range 4).map (fun j => s.sbyte s.actor.core (ea + 4 * i + j))))))) ∧
    sets (.maprow row mr a b) (old.take (5 * row.toNat) ++ coeffs ++ old.drop (5 * row.toNat + 5))) ∧
  (∀ (d ta a b : Reg) (n : Nat) (s : State),
    let t0 := s.me.thunks
    let first := (s.get a).toNat % 2 ^ 16
    let count := (s.get b).toNat % 2 ^ 17
    let x := t0.node n
    let reads (sel : BitVec 3) (v : Nat) : Prop := WritesReg (.tqry d ta sel) s d (BitVec.ofNat 64 v)
    let free : Prop := t0.plans = [] ∧ t0.persist = []
    (s.strand.tile ta = none → exec (.tdrop ta) s = .next s.retire) ∧
    (s.strand.tile ta = some n → Retires (.tdrop ta) s (fun t => t.me.thunks = t0.dropName n ∧
      (∀ r, r ≠ ta → t.strand.tile r = s.strand.tile r) ∧ t.strand.tile ta = none ∧
      t.strand = { s.strand with tiles := t.strand.tiles } ∧ SameBytes s t)) ∧
    (s.strand.tile ta = some n →
      reads 0 (n + 2 ^ 8) ∧
      reads 1 (x.kind.code + x.fmt.toNat * 2 ^ 8 + x.rank * 2 ^ 16 + x.names * 2 ^ 24 + x.uses * 2 ^ 32) ∧
      reads 2 (x.extents.getD 0 1 + x.extents.getD 1 1 * 2 ^ 32) ∧ reads 3 (x.extents.getD 2 1 + x.extents.getD 3 1 * 2 ^ 32) ∧
      reads 4 x.nflags.toNat ∧ (∀ g, x.arena = some g → reads 5 (g + 2 ^ 16)) ∧ (x.arena = none → reads 5 0) ∧
      reads 6 x.creatorPc.toNat) ∧
    (s.strand.tile ta = none → reads 0 0 ∧ reads 1 0 ∧ reads 6 0) ∧
    reads 7 ((256 - t0.liveNodes.length) + t0.between % 65536 * 2 ^ 16 + (if t0.plans = [] then 0 else 2 ^ 32)) ∧
    (free → first + count ≤ 65536 → Retires (.tarena a b) s (fun t =>
      t = s.onMe (fun k => { k with thunks := { k.thunks with arenaFirst := first, arenaCount := count } }) ∧ SameBytes s t)) ∧
    (free → 65536 < first + count → Traps (.tarena a b) s 7 (32 * (first + count) - 1)) ∧
    (t0.plans = [] → t0.persist ≠ [] → first + count ≤ 65536 → Traps (.tarena a b) s 0x0C 0))

/-- R341, R342 and R242: a TSTORE or FORCE whose checks pass decides its plan whole: the plan joins the table, its words the queue,
and each node it reads gains a use; no register, no memory byte and no other core changes. Then the planner writes what words
it can into the rings, in order, each at its ring's RTAIL; the strand stays until the last is written, FORCE.W until the join
is confirmed. An operand that names nothing gives reason 1; an arena that cannot hold the plan 0x0C.

R242: what a demand that has decided its plan does next: it stays until its last word is written (or, waiting, until its last
join is confirmed), and then retires. -/
def Obligations.DemandsPlanAndReturn : Prop :=
  (∀ (sp wait : Bool) (ta b : Reg) (n : Nat) (loc : Loc) (iv : Int × Int) (dest : DemandDest) (u : State)
    (id : Nat) (s : State),
    let c := s.actor.core
    let ea := (s.get b).toNat
    let node := s.me.thunks.node n
    let bs := s.sread c ea 128
    let at' (o k : Nat) : Nat := ofBytes ((bs.drop o).take k)
    let store : Instr := .tstore sp ta b
    let force : Instr := .force wait ta b
    let box := cutBox ((upto 4).map (fun d => ((at' (8 * d) 4 : Int), (at' (8 * d + 4) 4 : Int)))) node.extents
    let semv := at' 32 1 / 128 % 2 = 1
    let slot := at' 32 1 % 128
    let t0 := s.me.thunks
    let decides (d : Demand) : Prop := s.demand c d = .ok (u, id) → d.implicit = false →
      (∃ p words, u.me.thunks.plans = t0.plans ++ [p] ∧ p.id = id ∧ u.me.thunks.queue = t0.queue ++ words ∧
        (∀ w ∈ words, w.plan = id ∧ w.demandPc = d.pc) ∧
        ∀ k, (u.me.thunks.node k).uses = (t0.node k).uses + p.nodes.count k) ∧
      u.strand = s.strand ∧ SameMem s u ∧ ∀ x, x ≠ c → u.core x = s.core x
    let written (i : Instr) : Prop := ∃ t k, exec i s = .next t ∧ SameMem u t ∧ (∀ x, x ≠ c → t.core x = u.core x) ∧
      t.me.thunks.queue = u.me.thunks.queue.drop k ∧
      (∀ r, (t.me.ring r).rtail = (u.me.ring r).rtail +
        BitVec.ofNat 32 ((u.me.thunks.queue.take k).filter (fun q => decide (q.ring = r))).length) ∧
      t.strand = (if ∃ q ∈ t.me.thunks.queue, q.plan = id then { s.strand with status := .waitPlan id, stalled := true }
        else s.strand.retired)
    (∀ d, decides d) ∧
    ((∀ p, s.strand.status ≠ .waitPlan p) →
    (s.strand.tile ta = none → RefusesTile store s 1 ∧
      ((s.pendingPlanned c (fun _ => true) = none ∨ wait = false) → RefusesTile force s 1)) ∧
    (s.strand.tile ta = some n → ea % 32 = 0 → ea + 64 ≤ 0x200000 →
      s.destination store node (TileDesc.of (s.sread c ea 64)) sp = .ok (loc, iv) → Unshared s sp iv.1.toNat iv.2.toNat →
      (s.demand c { node := n, box := node.whole, dest := .place loc, pc := s.strand.pc } = .ok (u, id) →
        exec store s = .next (u.awaitPlan id false) ∧ written store) ∧
      (∀ need, s.demand c { node := n, box := node.whole, dest := .place loc, pc := s.strand.pc } = .error (.event 0x0C need) →
        Traps store s 0x0C need)) ∧
    (s.strand.tile ta = some n → ea % 32 = 0 → ea + 128 ≤ 0x200000 →
      (s.pendingPlanned c (fun _ => true) = none ∨ wait = false) → at' 34 30 = 0 → ¬(semv ∧ 80 ≤ slot ∧ slot ≤ 95) →
      (at' 33 1 = 0 ∧ at' 64 64 = 0 ∧ dest = .arena) ∨
        ((at' 33 1 = 1 ∨ at' 33 1 = 2) ∧ dest = .place loc ∧
          s.destination force node (TileDesc.of (bs.drop 64)) (decide (at' 33 1 = 2)) = .ok (loc, iv)) →
      s.demand c { node := n, box := box, dest := dest, slot := if semv then some slot else none, pc := s.strand.pc } = .ok (u, id) →
        exec force s = .next (u.awaitPlan id wait) ∧ (wait = false → written force)))) ∧
  (∀ (sp : Bool) (ta b : Reg) (id : Nat) (s : State), s.strand.status = .waitPlan id →
    let u := s.pump s.actor.core
    let t := u.thunks s.actor.core
    let stays (i : Instr) : Prop := exec i s = .next (u.onStrand (fun x => { x with status := .waitPlan id, stalled := true }))
    let unwritten : Prop := ∃ q ∈ t.queue, q.plan = id
    let inFlight : Prop := ∃ p ∈ t.plans, p.id = id
    (unwritten → stays (.tstore sp ta b) ∧ stays (.force false ta b)) ∧
    (¬unwritten → exec (.tstore sp ta b) s = .next u.retire ∧ exec (.force false ta b) s = .next u.retire) ∧
    (u.pendingPlanned s.actor.core (fun w => decide (w.plan = id)) = none →
      (inFlight → stays (.force true ta b)) ∧ (¬inFlight → exec (.force true ta b) s = .next u.retire)))

/-! ## Engine words -/

/-- R141, R167, R279 and R144 for the vector words and the matrix words: a word whose checks find something ends with that
XCODE, whatever its await; one whose semaphore is too small, or has a waiter before it, queues its engine and does nothing
else; with an exception pending at the word, or four words unconfirmed, nothing happens. A reserved opcode ends with XCODE
0x24.

R141, R144, R149, R157, R225, R242 and R249: WORD_CONFIRM ends the oldest unconfirmed word of a ring, at RHEAD, with others
behind it or none: its pipes move, its mark is DONE, its raise is applied once, its flags reach FLAGS, RHEAD passes it. A planned
word's flags go to its node's NFLAGS; its plan's join ends the plan: each node loses a use for each that the plan held, and the
nodes' NFLAGS reach FLAGS. A matrix word that has written a protected bank commits before its raise; the wait of an MCMT that
stands next ends with it, and its commit begins (R395). MNOP and MCMT are confirmed at once; MCMT first copies the banks of the
enabled pairs and sets RCMT to the sequence after it. -/
def Obligations.EngineWordsCheckAwaitAndConfirm : Prop :=
  (∀ (w : VWord) (m : MWord) (word : BitVec 192) (s : State),
    let c := s.actor.core
    let first (i : Instr) (r : Nat) (check : Option Nat) (aw rs : BitVec 10) : Prop :=
      let g := s.me.ring r
      let fresh : Prop := g.pendx = false ∧ g.flight.length < 4 ∧ (∀ p, g.wait ≠ .failed p) ∧
        markDone (s.mark c r g.next) = false
      (g.pendx = true ∧ g.next = g.xseq ∨ 4 ≤ g.flight.length → exec i s = .next s) ∧
      (∀ x, fresh → check = some x → s.strand.status ≠ .exited → (∀ k, s.strand.status ≠ .waitSem k) →
        ∃ t : State, exec i s = .next t ∧ EndsWith s t c r x ∧ t.strand = { s.strand with latch := bset s.strand.latch 2 }) ∧
      (∀ k, fresh → markAwt (s.mark c r g.next) = false → check = none → s.semFault c r g.next aw rs = none → semCount aw ≠ 0 → s.slotSem c (semSlot aw) = some k →
        (s.semQueued k = true ∨ (s.sem k).toNat < semCount aw) → ∃ t : State, exec i s = .next t ∧
          t.semWaiters = s.semWaiters ++ [{ core := c, ring := some r, key := k, eq := false, c := BitVec.ofNat 32 (semCount aw) }] ∧
          (t.me.ring r) = { g with wait := .await } ∧ (∀ j, t.sem j = s.sem j) ∧ t.strand = s.strand ∧ SameBytes s t)
    (∀ e ∈ nestWords, first (e.1 w) 0 (vecCheck e.2 w s.me) w.await w.raise) ∧
    first (.vhdrn w) 0 (vecCheck 0x20 w s.me) w.await w.raise ∧ first (.vadv w) 0 (vecCheck 0x22 w s.me) w.await w.raise ∧
    first (.vnop w) 0 (vecCheck 0x23 w s.me) w.await w.raise ∧
    first (.mma m) 1 (matCheck 1 m s.me) m.await m.raise ∧ first (.mmas m) 1 (matCheck 2 m s.me) m.await m.raise ∧
    first (.mspm m) 1 (matCheck 3 m s.me) m.await m.raise ∧ first (.mzero m) 1 (matCheck 4 m s.me) m.await m.raise ∧
    first (.mcmt m) 1 (matCheck 5 m s.me) m.await m.raise ∧ first (.mnop m) 1 (matCheck 6 m s.me) m.await m.raise ∧
    (s.strand.status ≠ .exited → (∀ k, s.strand.status ≠ .waitSem k) → ∀ r, r < 6 → s.actor.unit = r + 1 →
      markDone (s.mark c r (s.me.ring r).next) = false → ∃ t : State, exec (.reservedEngineOpcode word) s = .next t ∧ EndsWith s t c r 0x24)) ∧
  (∀ (w : MWord) (f : Flight) (rest : List Flight) (q b : Nat) (r : Nat) (core : Nat) (p : PlannedWord) (plan : Plan) (s u : State),
    let c := s.actor.core
    let k := s.core core
    let g := k.ring r
    let pipe := k.pipe q
    let th := k.thunks
    let h := u.me.ring 1
    let old := s.mark core r f.seq
    let i : Instr := .wordConfirm core r
    let stands : Prop := g.flight = f :: rest ∧ f.seq = g.rhead ∧ g.rhead ≠ g.next ∧ g.rhead ≠ g.rtail ∧ 4 ≤ g.log2n.toNat ∧
      (∀ x ∈ rest, x.seq ≠ f.seq) ∧
      (g.rhead + 1 = g.next ∨ g.rhead + 1 = g.rtail ∨ markDone (s.mark core r (g.rhead + 1)) = false) ∧
      k.strand.status ≠ .exited ∧ k.strand.status ≠ .saved ∧ th.queue = []
    let alone : Prop := r = 1 → rest ≠ [] ∨ g.next = g.rtail
    let commits : Prop := r = 1 ∧ semCount f.raise ≠ 0 ∧ f.bank = some b ∧ k.paired b = true
    let raised (t : State) : Prop := ∀ x, t.sem x = if semCount f.raise ≠ 0 ∧ markDone old = false ∧
        s.slotSem core (semSlot f.raise) = some x ∧ (semSlot f.raise < 96 ∨ s.semAllowed core x = true)
      then semAddVal (s.sem x) (semCount f.raise) else s.sem x
    let passed (t : State) : Prop := ((t.core core).ring r).flight = rest ∧ ((t.core core).ring r).rhead = g.rhead + 1 ∧
      markDone (t.mark core r f.seq) = true ∧ raised t ∧ SameMem s t
    let snapshots (x y : Core) : Prop := ∀ e, e < 65536 → (x.pair01 = true → sfind y.acc (65536 + e) = sfind x.acc e) ∧
      (x.pair23 = true → sfind y.acc (3 * 65536 + e) = sfind x.acc (2 * 65536 + e))
    (r < 6 → stands → th.plannedWord r f.seq = none → alone →
      (f.moves = [] ∨ (f.moves = [.push q 1] ∧ q < 31) ∨ (f.moves = [.pop q 1] ∧ q < 31)) →
      (¬(r = 1 ∧ semCount f.raise ≠ 0 ∧ ∃ x, f.bank = some x ∧ k.paired x = true) → ∃ t : State, exec i s = .next t ∧ passed t ∧
        t.mark core r f.seq = (if f.late then old % 2 ^ 62 else f.prog % 2 ^ 62) + (if markAwt old then 2 ^ 62 else 0) + 2 ^ 63 ∧
        (t.core core).strand.flags = (if markDone old then k.strand.flags else k.strand.flags ||| f.flags) ∧
        (f.moves = [.push q 1] → (t.core core).pipe q =
          { pipe with fill := pipe.fill + 1, tail := (pipe.tail + 1) % (pipe.nslotM1.toNat + 1) }) ∧
        (f.moves = [.pop q 1] → (t.core core).pipe q =
          { pipe with fill := pipe.fill - 1, head := (pipe.head + 1) % (pipe.nslotM1.toNat + 1) })) ∧
      (commits → ∃ t : State, exec i s = .next t ∧ passed t ∧ ((t.core core).ring 1).rcmt = f.seq + 1 ∧
        (t.core core).uncommitted = false ∧ snapshots k (t.core core))) ∧
    (r < 6 → stands → alone → ¬(r = 1 ∧ semCount f.raise ≠ 0 ∧ f.bank ≠ none) → f.moves = [] →
      th.plannedWord r f.seq = some p →
      (p.join = false → ∃ t : State, exec i s = .next t ∧ passed t ∧ (t.core core).strand.flags = k.strand.flags ∧
        (t.core core).thunks.words = th.words.filter (fun x => decide ((x.ring, x.seq) ≠ (r, f.seq))) ∧
        ∀ n, (t.core core).thunks.node n = if n = p.node ∧ (th.node n).live = true
          then { th.node n with nflags := (th.node n).nflags ||| f.flags } else th.node n) ∧
      (p.join = true → th.plans.find? (fun x => decide (x.id = p.plan)) = some plan → (∀ n ∈ plan.nodes, (th.node n).names ≠ 0) →
        ∃ t : State, exec i s = .next t ∧ passed t ∧
        (t.core core).thunks.plans = th.plans.filter (fun x => decide (x.id ≠ plan.id)) ∧
        (∀ n, (t.core core).thunks.node n = { th.node n with
          uses := (th.node n).uses - plan.nodes.count n
          nflags := if n = p.node ∧ (th.node n).live = true then (th.node n).nflags ||| f.flags else (th.node n).nflags }) ∧
        (t.core core).strand.flags = k.strand.flags |||
          plan.nodes.foldl (fun a n => a ||| ((t.core core).thunks.node n).nflags) 0)) ∧
    (r = 1 → stands → rest = [] → th.plannedWord 1 f.seq = none → f.moves = [] → semCount f.raise = 0 → g.pendx = false →
      g.next ≠ g.rtail → bareCommit (s.slotWord core 1 g.next) = true → g.belowRcmt g.next = false →
      (markAwt (s.mark core 1 g.next) = true ∨ semCount (awaitOf 1 (s.slotWord core 1 g.next)) = 0) →
      ∃ t : State, exec i s = .next t ∧ passed t ∧ ((t.core core).ring 1).rcmt = g.next + 1 ∧ snapshots k (t.core core)) ∧
    (Begins s u c 1 (matCheck 6 w s.me) w.await w.raise → u.ready c 1 →
      ∃ t : State, exec (.mnop w) s = .next t ∧ Over u t c 1 w.raise 0 ∧ ∀ b e, t.accAt c b e = u.accAt c b e) ∧
    (Begins s u c 1 (matCheck 5 w s.me) w.await w.raise → u.ready c 1 → h.belowRcmt h.next = false →
      ∃ t : State, exec (.mcmt w) s = .next t ∧ Over u t c 1 w.raise 0 ∧ (t.me.ring 1).rcmt = h.next + 1 ∧
        (∀ e, t.accAt c 0 e = u.accAt c 0 e ∧ t.accAt c 2 e = u.accAt c 2 e) ∧ snapshots u.me t.me) ∧
    (Begins s u c 1 (matCheck 5 w s.me) w.await w.raise → h.flight ≠ [] → exec (.mcmt w) s = .next u))

/-- R346, R347, R141 and R154: a vector word whose pipes have their slots runs every iteration of its nest in order (VHDRN its
table once) and executes, unless an iteration ends it with an XCODE; while it would write a granule that an unconfirmed word
reads, it waits (R142), and so while a pipe has no slot for it (R149); a pipe misused ends it with 0x11. A word of several
outermost iterations runs one of them in a step (the model's choice, log 36), from its last visible PROG on; each leaves its
mark, and the last executes the word; one whose PROG shows every iteration executes at once. VADV pops the pipes of A and B;
VNOP only awaits and raises. -/
def Obligations.VectorWordsRunTheirNest : Prop :=
  ∀ (w : VWord) (d a b : Nat) (dp ap bp : PipeUse) (s u : State),
    let c := s.actor.core
    let k := u.core c
    let img := k.lntImage 0 w.lnt.toNat
    let g := k.ring 0
    let x (vop : Nat) : VRun := {
      c := c, seq := g.next, seed := k.strand.engSeed, vop := vop, w := w, img := img
      planned := (k.thunks.plannedWord 0 g.next).isSome }
    let y (vop : Nat) : VRun := { x vop with dstPipe := d, aPipe := a, bPipe := b }
    let runs (i : Instr) (vop : Nat) (t : VSt) : Prop :=
      let held : Prop := spansMeet (granules t.writes) (granules (g.flight.flatMap Flight.reads)) = true
      Begins s u c 0 (vecCheck vop w s.me) w.await w.raise → (x vop).pipes u = (.slot d, .slot a, .slot b) →
      (held → exec i s = .next u) ∧
      (¬held → t.err = none → ∃ (v : State) (o : Bool) (n : Nat), exec i s = .next v ∧
        Executed t.s v c 0 { seq := g.next, flags := t.flags ||| (y vop).startFlags t.s, raise := w.raise, reads := t.reads, writes := packageSpans c t.writes
                             overlap := o, prog := n, moves := if opKind w.dst = 1 then [.push (opPay w.dst % 32) 1] else [] } ∧
        ∀ e p, v.sbyte e p = t.s.sbyte e p) ∧
      (∀ e, ¬held → t.err = some e → exec i s = .next (t.s.engineExc c 0 g.next e))
    let f0 := (fmtOf (k.fmtAt w img (countersOf img 0))).getD .f32
    let many := levelCount img 0
    let parts (i : Instr) (vop : Nat) : Prop :=
      let whole := (y vop).spans ((y vop).outer u 0 many) f0
      let prog := min (markProg (u.mark c 0 g.next)) many
      let starts : State := u.onRing c 0 (fun h => { h with
        begun := true, done := prog, facc := if prog ≠ 0 then h.flagsOf g.next else 0
        uses := whole.reads, spans := packageSpans c whole.writes, overlap := whole.meets })
      Begins s u c 0 (vecCheck vop w s.me) w.await w.raise → (x vop).pipes u = (.slot d, .slot a, .slot b) → 1 < many →
      let moves : List PipeMove := if opKind w.dst = 1 then [.push (opPay w.dst % 32) 1] else []
      (g.begun = false → g.holds whole = true → exec i s = .next u) ∧
      (g.begun = false → g.holds whole = false → prog = many → ∃ (v : State) (n : Flight), exec i s = .next v ∧
        Executed u v c 0 n ∧ SameBytes u v ∧ n.raise = w.raise ∧ n.flags = g.flagsOf g.next ||| (y vop).startFlags u ∧
        n.prog = many ∧ n.moves = moves) ∧
      ∀ p : State, (g.begun = true ∧ p = u ∨ g.begun = false ∧ g.holds whole = false ∧ prog < many ∧ p = starts) →
        let h := (p.core c).ring 0
        let t := (y vop).outer p h.done 1
        let mark : YoungMark := { seq := g.next, prog := h.done + 1, flags := h.facc ||| t.flags, since := p.cycle }
        (∀ e, t.err = some e → exec i s = .next (t.s.engineExc c 0 g.next e)) ∧
        (t.err = none → h.done + 1 < many → ∃ v : State, exec i s = .next v ∧ SameBytes t.s v ∧ OnlyCore t.s v c ∧
          (v.core c).ring 0 = { (t.s.core c).ring 0 with
            done := h.done + 1, facc := h.facc ||| t.flags, wait := .none, young := ((t.s.core c).ring 0).young ++ [mark] }) ∧
        (t.err = none → many ≤ h.done + 1 → ∃ (v : State) (n : Flight), exec i s = .next v ∧ Executed t.s v c 0 n ∧
          SameBytes t.s v ∧ n.raise = w.raise ∧ n.flags = h.facc ||| t.flags ||| (y vop).startFlags t.s ∧ n.prog = h.done + 1 ∧
          n.moves = moves)
    let blocked (i : Instr) (vop : Nat) : Prop :=
      let z : VRun := { x vop with dstPipe := dp.addr, aPipe := ap.addr, bPipe := bp.addr }
      let misuse : Prop := dp = .misuse ∨ ap = .misuse ∨ bp = .misuse
      Begins s u c 0 (vecCheck vop w s.me) w.await w.raise → (x vop).pipes u = (dp, ap, bp) →
      (misuse → exec i s = .next (u.engineExc c 0 g.next 0x11)) ∧
      (¬misuse → (∃ n, dp = .wait n ∨ ap = .wait n ∨ bp = .wait n) → exec i s = .next (u.onRing c 0 (fun g => { g with
        wait := .pipe, spans := packageSpans c (z.spans (z.all u f0) f0).writes })))
    let each (P : Instr → Nat → Prop) : Prop :=
      P (.vmov w) 1 ∧ P (.vadd w) 2 ∧ P (.vsub w) 3 ∧ P (.vmul w) 4 ∧ P (.vfma w) 5 ∧ P (.vdiv w) 6 ∧ P (.vmin w) 7 ∧
      P (.vmax w) 8 ∧ P (.vabs w) 9 ∧ P (.vneg w) 10 ∧ P (.vexp w) 11 ∧ P (.vlog w) 12 ∧ P (.vrcp w) 13 ∧ P (.vrsq w) 14 ∧
      P (.vtanh w) 15 ∧ P (.vsilu w) 16 ∧ P (.vcmp w) 17 ∧ P (.vsel w) 18 ∧ P (.vand w) 19 ∧ P (.vor w) 20 ∧ P (.vxor w) 21 ∧
      P (.vshl w) 22 ∧ P (.vshr w) 23 ∧ P (.vcvt w) 24 ∧ P (.vqnt w) 25 ∧ P (.vrsum w) 26 ∧ P (.vrmax w) 27 ∧ P (.vscan w) 28 ∧
      P (.vgath w) 29 ∧ P (.vscat w) 30 ∧ P (.vhins w) 31 ∧ P (.vdrn w) 33
    (many ≤ 1 → each (fun i vop => runs i vop (VRun.nest (y vop) (nestSize img) 0 { s := u }))) ∧
    each parts ∧ each blocked ∧ blocked (.vhdrn w) 0x20 ∧
    runs (.vhdrn w) 0x20 ((y 0x20).drainHash { s := u } f0) ∧
    (Begins s u c 0 (vecCheck 0x22 w s.me) w.await w.raise →
      (∀ ms, u.vecAdvance c w = some ms → ∃ t : State, exec (.vadv w) s = .next t ∧
        Executed u t c 0 { seq := g.next, raise := w.raise, moves := ms } ∧ SameBytes u t) ∧
      (u.vecAdvance c w = none → exec (.vadv w) s = .next (u.engineExc c 0 g.next 0x11))) ∧
    (Begins s u c 0 (vecCheck 0x23 w s.me) w.await w.raise → ∃ t : State, exec (.vnop w) s = .next t ∧
      Executed u t c 0 { seq := g.next, raise := w.raise } ∧ SameBytes u t)

/-- R349 to R359 (Tables 19-1 and 19-2) with nest slot 0, which is one iteration, on scratch operands and an idle engine: 128
elements of 32 bits are read from A, from B and from stream 3 at scratch address 0; each result is written to DST, no other
scratch byte changes, and the word's flags are the union. That the iteration reads all its elements before it writes any, also
where DST overlaps A, B or stream 3, is the model's choice (log 49). VCMP writes a byte an element; VCVT rounds FP32 to BF16; VQNT
writes I8 in blocks of 32 with their scales at stream 3; VRSUM and VRMAX write one element, VSCAN every prefix; VGATH
and VSCAT take the indices of stream 3; VHINS skips padding, adds to a key that it finds in its home slot and takes the home slot where that
is empty; VDRN with an empty chain writes out an accumulator row. -/
def Obligations.VectorElementsTakeTheirValue : Prop :=
  ∀ (w : VWord) (s : State),
    let c := s.actor.core
    let seq := (s.me.ring 0).next
    let base := 32 * w.dst.toNat
    let x (e : Nat) : Nat := s.sval c (32 * w.a.toNat + 4 * e) 4
    let y (e : Nat) : Nat := s.sval c (32 * w.b.toNat + 4 * e) 4
    let z (e : Nat) : Nat := s.sval c (4 * e) 4
    let xv (e : Nat) : Val := Fmt.f32.val (x e)
    let yv (e : Nat) : Val := Fmt.f32.val (y e)
    let zv (e : Nat) : Val := Fmt.f32.val (z e)
    let sat := decide (w.mod = 1)
    let rnd (v : Val × NumFlags) : Nat × NumFlags := finish .f32 .rne sat 0 v
    let union (n : Nat) (f : Nat → NumFlags) : NumFlags := (List.range n).foldl (fun a e => a ||| f e) 0
    let ends (t : State) (fl : NumFlags) : Prop :=
      (t.me.ring 0).next = seq + 1 ∧ (∀ r, t.get r = s.get r) ∧ SameMem s t ∧
      ∃ g : Flight, (t.me.ring 0).flight = [g] ∧ g.seq = seq ∧ g.raise = w.raise ∧ g.flags = fl
    let puts (i : Instr) (n width : Nat) (f : Nat → Nat) (fl : NumFlags) : Prop :=
      ∃ t : State, exec i s = .next t ∧ (∀ e, e < n → t.sval c (base + width * e) width = f e) ∧
        (∀ p, p < 0x200000 → (∀ m, m < width * n → p ≠ (base + m) % 0x200000) → t.sbyte c p = s.sbyte c p) ∧ ends t fl
    let writes (i : Instr) (f : Nat → Nat × NumFlags) : Prop := puts i 128 4 (fun e => (f e).1) (union 128 (fun e => (f e).2))
    let all : List Val := (List.range 128).map xv
    let reduces (i : Instr) (vop : Nat) : Prop :=
      let r := treeOf (reduceFn vop) 10 all
      puts i 1 4 (fun _ => (rnd r).1) (rnd r).2
    let scanned := prefixes (reduceFn 0x1C) none all
    let place (e : Nat) : Nat := (base + 4 * z e) % 0x200000
    w.rsv = 0 → w.lnt = 0 → w.dst.toNat < 65536 → (s.me.ring 0).flight = [] → (s.me.ring 0).jobs = [] → Begins s s c 0 none w.await w.raise →
    (w.a.toNat < 65536 → w.b = 0 → w.fmt = 0 → w.mod.toNat ≤ 1 →
      writes (.vmov w) (fun e => rnd (xv e, 0)) ∧ writes (.vabs w) (fun e => rnd (vabs (xv e), 0)) ∧
      writes (.vneg w) (fun e => rnd (vneg (xv e), 0)) ∧ writes (.vexp w) (fun e => rnd (Trans1.exp.eval (xv e))) ∧
      writes (.vlog w) (fun e => rnd (Trans1.log.eval (xv e))) ∧ writes (.vrcp w) (fun e => rnd (Trans1.rcp.eval (xv e))) ∧
      writes (.vrsq w) (fun e => rnd (Trans1.rsq.eval (xv e))) ∧ writes (.vtanh w) (fun e => rnd (Trans1.tanh.eval (xv e))) ∧
      writes (.vsilu w) (fun e => rnd (Trans1.silu.eval (xv e))) ∧
      reduces (.vrsum w) 0x1A ∧ reduces (.vrmax w) 0x1B ∧
      puts (.vscan w) 128 4 (fun e => (rnd (scanned.1.getD e .nan, 0)).1)
        (scanned.2 ||| union 128 (fun e => (rnd (scanned.1.getD e .nan, 0)).2))) ∧
    (w.a.toNat < 65536 → w.b.toNat < 65536 → w.fmt = 0 → w.mod.toNat ≤ 1 →
      writes (.vadd w) (fun e => rnd (vadd (xv e) (yv e))) ∧ writes (.vsub w) (fun e => rnd (vsub (xv e) (yv e))) ∧
      writes (.vmul w) (fun e => rnd (vmul (xv e) (yv e))) ∧ writes (.vfma w) (fun e => rnd (vfma (xv e) (yv e) (zv e))) ∧
      writes (.vdiv w) (fun e => rnd (vdiv (xv e) (yv e))) ∧ writes (.vmin w) (fun e => rnd (vmin (xv e) (yv e), 0)) ∧
      writes (.vmax w) (fun e => rnd (vmax (xv e) (yv e), 0))) ∧
    (w.a.toNat < 65536 → w.b.toNat < 65536 → w.fmt = 0 → w.mod = 0 →
      writes (.vand w) (fun e => (x e &&& y e, 0)) ∧ writes (.vor w) (fun e => (x e ||| y e, 0)) ∧
      writes (.vxor w) (fun e => (x e ^^^ y e, 0)) ∧ writes (.vsel w) (fun e => (if s.sbyte c e = 0 then y e else x e, 0))) ∧
    (w.a.toNat < 65536 → w.b.toNat < 65536 → w.fmt = 4 → w.mod.toNat ≤ 1 →
      (w.mod = 0 → writes (.vshl w) (fun e => (x e * 2 ^ (y e % 32) % 2 ^ 32, 0))) ∧
      writes (.vshr w) (fun e =>
        (if w.mod = 1 then ((sint 32 (x e) / 2 ^ (y e % 32)) % 2 ^ 32).toNat else x e / 2 ^ (y e % 32), 0))) ∧
    (w.a.toNat < 65536 → w.b.toNat < 65536 → w.fmt = 0 →
      puts (.vcmp w) 128 1 (fun e => if vecPred w.mod.toNat (xv e) (yv e) then 1 else 0) 0) ∧
    (w.a.toNat < 65536 → w.b = 0x30000 → w.fmt = 1 → w.mod = 0 →
      puts (.vcvt w) 128 2 (fun e => (roundRne .bf16 (xv e)).1) (union 128 (fun e => (roundRne .bf16 (xv e)).2))) ∧
    (w.a.toNat < 65536 → w.b = 0x30000 → w.fmt = 3 → w.mod = 0 → 0 < w.dst.toNat → base + 128 ≤ 0x200000 →
      let run : VRun := { c := c, seq := seq, seed := s.strand.engSeed, vop := 0x19, w := w, img := lntZero }
      let block (j : Nat) := run.quantBlock .i8 (32 * j) ((List.range 32).map (fun i => xv (32 * j + i)))
      ∃ t : State, exec (.vqnt w) s = .next t ∧
        (∀ e, e < 128 → (t.sbyte c (base + e)).toNat = (block (e / 32)).2.1.getD (e % 32) 0) ∧
        (∀ j, j < 4 → (t.sbyte c j).toNat = (block j).1) ∧
        (∀ p, 4 ≤ p → p < 0x200000 → p < base ∨ base + 128 ≤ p → t.sbyte c p = s.sbyte c p) ∧ ends t (union 4 (fun j => (block j).2.2))) ∧
    (w.a.toNat < 65536 → w.b = 0 → w.fmt = 0 → w.mod = 0 →
      puts (.vgath w) 128 4 (fun e => s.sval c (32 * w.a.toNat + 4 * z e) 4) 0 ∧
      ∃ t : State, exec (.vscat w) s = .next t ∧
        (∀ e, e < 128 → (∀ m, e < m → m < 128 → place m ≠ place e) → t.sval c (place e) 4 = x e) ∧
        (∀ p, p < 0x200000 → (∀ e n, e < 128 → n < 4 → p ≠ place e + n) → t.sbyte c p = s.sbyte c p) ∧ ends t 0) ∧
    (w.a.toNat < 65536 → w.b.toNat < 65536 → w.fmt = 0 →
      let padding : Nat := 0xFFFFFFFF
      ((∀ e, e < 128 → x e = padding) → ∃ t : State, exec (.vhins w) s = .next t ∧ SameBytes s t ∧ ends t 0) ∧
      (∀ e, e < 128 → x e ≠ padding → (∀ m, m < 128 → m ≠ e → x m = padding) →
        let home := (base + 8 * ((x e ^^^ x e / 2 ^ 13) % 2 ^ (6 + w.mod.toNat))) % 0x200000
        let sum := finish .f32 .rne false 0 (vadd (Fmt.f32.val (s.sval c (home + 4) 4)) (yv e))
        let becomes (v : Nat) (fl : NumFlags) : Prop := ∃ t : State, exec (.vhins w) s = .next t ∧ t.sval c home 4 = x e ∧
          t.sval c (home + 4) 4 = v ∧ (∀ p, p < 0x200000 → p < home ∨ home + 8 ≤ p → t.sbyte c p = s.sbyte c p) ∧ ends t fl
        (s.sval c home 4 = x e → becomes sum.1 sum.2) ∧
        (s.sval c home 4 = padding → becomes (roundRne .f32 (yv e)).1 0))) ∧
    (∀ bank row, bank < 4 → row < 128 → w.a.toNat = 0x20000 + 128 * bank + row → w.b = 0 → w.fmt = 0 → w.mod.toNat ≤ 1 →
      s.me.thunks.plannedWord 0 seq = none →
      writes (.vdrn w) (fun e =>
        let m := rnd (Fmt.f32.val (s.ownAcc c bank (512 * row + e)).toNat, 0)
        rnd (Fmt.f32.val m.1, m.2)))

/-- R362 to R368 and R394: a tile-step word of one iteration loads its rows and adds its products to the bank, or overwrites
it, and executes; an iteration that cannot be a tile step, or bad metadata, ends it. MZERO makes every element of its bank
+0. A bank that the planner has used holds undefined values for a word of the strand's own (R238).

R227 and Table 20-2: MMA with nest slot 0 and dense scratch operands in formats of 8 or 16 bits, on an idle engine: every
element of 128 rows and N columns becomes the sum, rounded once, of the bank's element (unless ACCM overwrites) and the 64
products; the other columns and banks keep theirs. The planner has not left the bank undefined (R238). -/
def Obligations.MatrixWordsUpdateTheirBank : Prop :=
  (∀ (w : MWord) (m : MStep) (v : State) (rows : List (List Nat)) (s u : State),
    let c := s.actor.core
    let k := u.core c
    let g := k.ring 1
    let img := k.lntImage 1 w.lnt.toNat
    let b := w.bank.toNat
    let taken := u.takeBank c b g.next
    let u0 := (taken.onRing c 1 (fun g => { g with facc := 0, rows := [] })).onCore c (fun k => { k with rowprog := 0 })
    let v' := v.onCore c (fun k => { k with rowprog := 192 })
    let others (t : State) : Prop := ∀ j e, j < 4 → j ≠ b → t.accAt c j e = taken.accAt c j e
    let steps (i : Instr) (mop : Nat) : Prop :=
      Begins s u c 1 (matCheck mop w s.me) w.await w.raise → g.commitDue k = false → g.begun = false →
      u.matStart c w = some 0 → nestSize img = 1 → (∀ l, l < 6 → cmtInt img l = 0) →
      (∀ e, matStep k c mop w img 0 = .error e → exec i s = .next (u0.engineExc c 1 g.next e)) ∧
      (matStep k c mop w img 0 = .ok m → m.load 192 u0 [] = (v, rows, none) →
        (m.badMeta rows = true → exec i s = .next (v'.engineExc c 1 g.next 0x28)) ∧
        (m.badMeta rows = false → ∃ t : State, exec i s = .next t ∧
          Executed v t c 1 { seq := g.next, flags := (m.compute v' rows).2, raise := w.raise, bank := some b, late := true } ∧
          others t ∧ ∀ e, t.accAt c b e = (m.compute v' rows).1.accAt c b e))
    steps (.mma w) 1 ∧ steps (.mmas w) 2 ∧ steps (.mspm w) 3 ∧
    (Begins s u c 1 (matCheck 4 w s.me) w.await w.raise → g.commitDue k = false →
      (k.paired b = false ∨ (g.belowRcmt g.next = false ∧ markProg (u.mark c 1 g.next) = 0)) →
      ∃ t : State, exec (.mzero w) s = .next t ∧
        Executed u t c 1 { seq := g.next, raise := w.raise, bank := some b } ∧ (∀ e, t.accAt c b e = 0) ∧ others t ∧
        sget 0 (t.core c).mzseq b = g.next ∧ SameBytes u t)) ∧
  (∀ (w : MWord) (fa fb : Fmt) (s : State),
    let c := s.actor.core
    let b := w.bank.toNat
    let n : Nat := if w.n16 = 0 then 512 else 16 * w.n16.toNat
    let a (i k : Nat) : Val := fa.val (s.sval c (w.ava.toNat + (64 * i + k) * fa.bytes) fa.bytes)
    let p (k j : Nat) : Val := fb.val (s.sval c (w.bva.toNat + (n * k + j) * fb.bytes) fb.bytes)
    let row (i j : Nat) : Nat × NumFlags := stepElem (decide (w.accm = 1)) (Fmt.f32.val (s.accAt c b (512 * i + j)).toNat)
      ((List.range 64).map (fun k => a i k)) ((List.range 64).map (fun k => p k j))
    let g := s.me.ring 1
    fmtOf w.fmtA = some fa → fmtOf w.fmtB = some fb → w.fmtA ≠ 0x3F → w.fmtB ≠ 0x3F → fa.isMatrix = true → fb.isMatrix = true →
    8 ≤ fa.bits → 8 ≤ fb.bits → w.ava.toNat % fa.bytes = 0 → w.bva.toNat % fb.bytes = 0 →
    w.lnt = 0 → w.scale = 0 → w.aux = 0 → w.flags = 0x0C → w.accm.toNat < 2 →
    w.ava.toNat < 0x200000 → w.bva.toNat < 0x200000 → n ≤ 512 →
    s.me.snapshot b = false → bmem s.me.accLost b = false → g.flight = [] → g.jobs = [] → g.begun = false → g.belowRcmt g.next = false →
    s.mark c 1 g.next = 0 → Begins s s c 1 none w.await w.raise →
    ∃ t : State, exec (.mma w) s = .next t ∧ (t.me.ring 1).next = g.next + 1 ∧
      (∀ i j, i < 128 → j < n → (t.accAt c b (512 * i + j)).toNat = (row i j).1) ∧
      (∀ i j, i < 128 → n ≤ j → j < 512 → t.accAt c b (512 * i + j) = s.accAt c b (512 * i + j)) ∧
      (∀ d e, d < 4 → d ≠ b → t.accAt c d e = s.accAt c d e) ∧ SameBytes s t ∧ ∀ r, t.get r = s.get r)

/-- R371, R372, R373, R377, R378, R225: a copy or stack-agent word, checked, with its record chosen once, moves its elements
in order from PROG on and is confirmed with the union of their flags when the last has moved; an element that cannot be moved
ends it with that XCODE and PROG at the elements moved, once the words before it are over. A stack agent's word first arrives at its agent, waits there for its
turn (R74), and is taken. CNOP only awaits and raises.

R372 and R280 between scratch ranges that do not meet: CCOPY of a dense row of FP32 elements copies each; CFILL writes its
constant rounded to FP32 in each; CCVT to BF16 rounds each in RNE. No other byte of the element ranges' row changes.

R376: a CSUB or CDRAIN that its stream agent has taken pushes or pops as many slots as its elements fill, once the pipe has
them, and is confirmed when the elements have moved; a count that is no whole number of slots, or a pipe of another producer
or consumer, ends it with 0x11, a region that no descriptor of its node covers with 0x2A. A record with an extent of 0 moves
nothing, and the word completes with its raise (R281). -/
def Obligations.CopyWordsMoveTheirElements : Prop :=
  (∀ (w : CWord) (t : Tsr) (ver : Nat) (stack : Option (Nat × Nat)) (r m x : Nat) (fl : NumFlags) (s p u v : State),
    let c := s.actor.core
    let g := s.me.ring r
    let n := g.next
    let run (cop : Nat) : CRun := { c := c, r := r, seq := n, cop := cop, t := t, stack := stack }
    let word (cop : Nat) : BitVec 192 := (cform (BitVec.ofNat 7 cop) w).setWidth 192
    let record (cop : Nat) : Prop := (g.chosen = some (n, t) ∧ p = s) ∨
      ((∀ k y, g.chosen = some (k, y) → k ≠ n) ∧ s.recordFor c r n (word cop) = .ok (t, ver) ∧
        tsrCheck cop t (s.indices c cop t) = none ∧
        p = s.chooseRecord c r n (stack.map (fun e => 4 * (4 * e.1 + e.2) + (copUnit cop).getD 0)) (recordKey (word cop)) (t, ver))
    let ends (z : State) (e : Nat) : State := if n = g.rhead then z.engineExc c r n e
      else z.onRing c r (fun h => if h.wait = .none then { h with wait := .held } else h)
    let others (z : State) : Prop := ∀ a, a < 0x200000 →
      (∀ i, i < 8 → a ≠ (g.slotAddr n + 24 + i) % 0x200000) → z.sbyte c a = v.sbyte c a
    let j := u.me.ring r
    let moves (i : Instr) (cop : Nat) : Prop :=
      let key : Nat := match stack, copUnit cop with
        | some (d, k), some e => 4 * (4 * d + k) + e
        | _, _ => 0
      let queues : Prop := copUnit cop ≠ none ∧ stack ≠ none ∧ j.begun = false
      let next : Prop := j.wait = .agent ∧ u.agentNext key = some (c, r)
      g.pendx = false → g.flight.length < 4 → (∀ b, g.wait ≠ .failed b ∧ g.wait ≠ .nodeFailed b) →
      (∀ x, copCheck cop w r = some x → exec i s = .next (ends s x)) ∧
      (copCheck cop w r = none → s.agentOf c cop w = .error x → exec i s = .next (ends s x)) ∧
      (∀ e, copCheck cop w r = none → s.agentOf c cop w = .ok stack → (∀ k y, g.chosen = some (k, y) → k ≠ n) →
        s.recordFor c r n (word cop) = .ok (t, ver) → tsrCheck cop t (s.indices c cop t) = some e →
        exec i s = .next (ends s e)) ∧
      (copCheck cop w r = none → s.agentOf c cop w = .ok stack → record cop → Begins p u c r none w.await w.raise →
        (queues → j.wait ≠ .agent → exec i s = .next (u.agentJoin key c r)) ∧
        (queues → j.wait = .agent → u.agentNext key ≠ some (c, r) → exec i s = .next u) ∧
        ∀ q : State, (¬queues ∧ q = u ∨ queues ∧ next ∧ q = u.agentTake key c r) →
          q.ready c r → markProg (q.mark c r n) = 0 →
          ((run cop).elements t.count 0 q 0 = (v, m, fl, none) →
            ∃ z : State, exec i s = .next z ∧ Over v z c r w.raise fl ∧ others z) ∧
          ((run cop).elements t.count 0 q 0 = (v, m, fl, some (.code x)) →
            exec i s = .next ((v.copyMark c r n m fl).engineExc c r n x)))
    s.actor.unit = r + 1 → 2 ≤ r → r ≤ 5 →
    moves (.ccopy w) 1 ∧ moves (.ccvt w) 2 ∧ moves (.cgath w) 3 ∧ moves (.cscat w) 4 ∧ moves (.cfill w) 5 ∧
    moves (.sgath w) 0x0A ∧ moves (.sred w) 0x0B ∧ moves (.scvt w) 0x0C ∧
    (copCheck 0x0D w r = none → Begins s u c r none w.await w.raise → u.ready c r →
      ∃ z : State, exec (.cnop w) s = .next z ∧ Over u z c r w.raise 0)) ∧
  (∀ (t : Tsr) (cop c r : Nat) (seq : BitVec 32) (s : State),
    let x : CRun := { c := c, r := r, seq := seq, cop := cop, t := t, stack := none }
    let n := (t.dim 0).ext
    let dense (src dst : Int) : Prop := t.ndim = 1 ∧ (t.dim 0).sstr = src ∧ (t.dim 0).dstr = dst ∧ t.dsp = true
    let apart (a b : Nat) : Prop := t.src + a * n ≤ t.dst ∨ t.dst + b * n ≤ t.src
    let done (z : Nat) (f : Nat → Nat × NumFlags) : Prop := ∃ (v : State) (fl : NumFlags),
      x.elements n 0 s 0 = (v, n, fl, none) ∧ fl = (List.range n).foldl (fun a e => a ||| (f e).2) 0 ∧
      (∀ e, e < n → v.sval c (t.dst + z * e) z = (f e).1) ∧ SameMem s v ∧
      ∀ p, p < 0x200000 → (p < t.dst ∨ t.dst + z * n ≤ p) → v.sbyte c p = s.sbyte c p
    t.dst + 4 * n ≤ 0x200000 → t.src + 4 * n ≤ 0x200000 ∨ cop = 5 →
    (cop = 1 → dense 4 4 → t.ssp = true → apart 4 4 → t.sfmt = 0 → t.dfmt = 0 →
      done 4 (fun e => (s.sval c (t.src + 4 * e) 4, 0))) ∧
    (cop = 2 → dense 4 2 → t.ssp = true → apart 4 2 → t.sfmt = 0 → t.dfmt = 1 → t.mode = 0 →
      done 2 (fun e => roundRne .bf16 (Fmt.f32.val (s.sval c (t.src + 4 * e) 4)))) ∧
    (cop = 5 → dense 0 4 → t.sfmt = 0 → t.dfmt = 0 → t.mode = 0 →
      done 4 (fun _ => roundRne .f32 (Fmt.f32.val (t.src % 2 ^ 32))))) ∧
  (∀ (w : CWord) (t : Tsr) (stack : Option (Nat × Nat)) (r m : Nat) (fl : NumFlags) (s u v : State),
    let c := s.actor.core
    let g := s.me.ring r
    let n := g.next
    let run (cop : Nat) : CRun := { c := c, r := r, seq := n, cop := cop, t := t, stack := stack }
    let bits := t.count * (goodFmt t.sfmt).bits
    let moves (i : Instr) (cop : Nat) : Prop :=
      let q := (if cop = 8 then t.dst else t.src) % 32
      let p := (u.core c).pipe q
      let slot := 256 * p.slotG.toNat
      let k := bits / slot
      let slots := if q = 31 then 1 else p.nslotM1.toNat + 1
      let h := (run cop).hull (decide (cop = 8))
      let covers (b : Bool) : Prop := ∃ n, u.nodeOf c = some n ∧
        (run cop).covered u n.launch.opVa h.1 h.2 (decide (cop ≠ 8)) n.launch.opcnt 0 = .ok b
      let j := u.me.ring r
      let checked (q : State) : Prop := j.wait = .pipe ∧ q = u ∨
        j.wait ≠ .pipe ∧ covers true ∧ q = u.onRing c r (fun g => { g with begun := true })
      let mine : Prop := (if cop = 8 then p.prod else p.cons) = 7
      let fits : Prop := slot ≠ 0 ∧ bits % slot = 0 ∧ k ≠ 0 ∧ k ≤ slots
      let there : Prop := if cop = 8 then k ≤ u.pipeFree c r q else k ≤ p.fill
      g.pendx = false → g.flight.length < 4 → (∀ b, g.wait ≠ .failed b ∧ g.wait ≠ .nodeFailed b) → copCheck cop w r = none →
      j.begun = true → s.agentOf c cop w = .ok stack → g.chosen = some (n, t) → Begins s u c r none w.await w.raise → u.ready c r →
      (t.count = 0 → ∃ z : State, exec i s = .next z ∧ Over u z c r w.raise 0 ∧ z.me.pipe q = p) ∧
      (t.count ≠ 0 → (¬fits ∨ ¬mine) → exec i s = .next (u.engineExc c r n 0x11)) ∧
      (fits → mine → j.wait ≠ .pipe → covers false → exec i s = .next (u.engineExc c r n 0x2A)) ∧
      ∀ e, checked e → fits → mine → q ≠ 31 →
        (¬there → ∃ z : State, exec i s = .next z ∧ (z.me.ring r) = { e.me.ring r with wait := .pipe, spans := (run cop).destSpans e } ∧ SameBytes u z) ∧
        (there → markProg (e.mark c r n) = 0 →
          (run cop).elements t.count 0 e 0 = (v, m, fl, none) → ∃ z : State, exec i s = .next z ∧ Over v z c r w.raise fl ∧
            z.me.pipe q = (if cop = 8 then { p with fill := p.fill + k, tail := (p.tail + k) % slots }
              else { p with fill := p.fill - k, head := (p.head + k) % slots }))
    s.actor.unit = r + 1 → 2 ≤ r → r ≤ 5 → moves (.csub w) 8 ∧ moves (.cdrain w) 9)

/-- R374, R375, R27, R36: CSEND and CRED with no port to the peer end with NO_ROUTE; otherwise they send their packets and
wait; with every packet sent and answered the word is over, or ends with the lowest status code received. -/
def Obligations.FabricWordsSendAndComplete : Prop :=
  ∀ (w : CWord) (t : Tsr) (r : Nat) (y y' : Transfer) (s u v : State),
    let c := s.actor.core
    let g := s.me.ring r
    let n := g.next
    let run (cop : Nat) : CRun := { c := c, r := r, seq := n, cop := cop, t := t, stack := none }
    let sends (i : Instr) (cop : Nat) : Prop :=
      g.pendx = false → g.flight.length < 4 → (∀ b, g.wait ≠ .failed b ∧ g.wait ≠ .nodeFailed b) → copCheck cop w r = none →
      g.chosen = some (n, t) → Begins s u c r none w.await w.raise → u.ready c r →
      (u.transferOf c r n = none → u.portsTo (u.core c).fn t.peer = [] → exec i s = .next (u.engineExc c r n 1)) ∧
      (u.transferOf c r n = none → u.portsTo (u.core c).fn t.peer ≠ [] →
        (u.beginTransfer c r n t.peer).transferOf c r n = some y → (run cop).sendRest (u.beginTransfer c r n t.peer) y = (v, none) →
        v.transferOf c r n = some y' → y'.packets.all Sent.answered = false → ∃ z : State, exec i s = .next z ∧
          z.fabric = v.fabric ∧ (z.me.ring r).wait = .fabric ∧ (z.me.ring r).next = n ∧ SameBytes v z) ∧
      (u.transferOf c r n = some y → y.done = true → y.packets.all Sent.answered = true →
        (y.status = none → ∃ z : State, exec i s = .next z ∧ Over u z c r w.raise 0 ∧
          z.fabric.transfers = u.fabric.transfers.filter (fun q => decide (q.xfer ≠ y.xfer))) ∧
        (∀ e, y.status = some e → markDone (u.mark c r n) = false → u.strand.status ≠ .exited → (∀ k, u.strand.status ≠ .waitSem k) →
          ∃ z : State, exec i s = .next z ∧ EndsWith u z c r e))
    s.actor.unit = r + 1 → 2 ≤ r → r ≤ 5 → sends (.csend w) 6 ∧ sends (.cred w) 7

/-! ## Exceptions, contexts, scheduling -/

/-- R253, R272, R382 and R383: TRAP, DBGBRK and a word with no instruction take the events 0x11, 0x15 and 0x01: with a valid
handler that is not entered, TRAPPC, TRAPCAUSE and TRAPINFO are set, INH becomes 1 and PC the handler's address; otherwise
the strand ends and its node, if it has not failed already, is FAULTED with the code and PC in FAILINFO. ERET in a handler
restores PC from TRAPPC and clears INH in one step; outside one it is itself 0x01. -/
def Obligations.PreciseEventsEnterHandler : Prop :=
  ∀ (n : BitVec 18) (word : BitVec 32) (s : State),
    let t := s.strand
    let takes (i : Instr) (code info : Nat) : Prop :=
      (t.trapVecValid = true → t.inHandler = false → ∃ u : State, exec i s = .next u ∧ OnlyStrand s u ∧
        u.strand = { t with trapPc := t.pc, trapCause := BitVec.ofNat 8 code, trapInfo := BitVec.ofNat 64 info
                            inHandler := true, pc := t.trapVec, stalled := false, toForce := [], status := .running, record := none }) ∧
      ((t.trapVecValid = false ∨ t.inHandler = true) → ∃ u : State, exec i s = .next u ∧ SameBytes s u ∧
        u.strand = { t with status := .ended, stalled := false, toForce := [], record := none } ∧
        ∀ g x, s.gang s.me.gang = some g → s.node g.fn g.q g.idx = some x → u.node g.fn g.q g.idx = some
          (if x.status = 0 then { x with status := 5, failInfo := BitVec.ofNat 64 (code + t.pc.toNat / 4 * 256) } else x))
    takes (.trap n) 0x11 n.toNat ∧ takes .dbgbrk 0x15 0 ∧ takes (.illegalInstruction word) 1 word.toNat ∧
    (t.inHandler = true → ∃ u : State, exec .eret s = .next u ∧ OnlyStrand s u ∧
      u.strand = { t with pc := t.trapPc &&& ~~~3#57, inHandler := false, stalled := false, toForce := [], status := .running }) ∧
    (t.inHandler = false → takes .eret 1 (wordOf .eret).toNat)

/-- R256 and R248: RINGQ on a ring with an exception pending delivers it: the word's mark is DONE, PENDX clears, the ring goes
on past it where it stood at it, and the strand takes 0x04, 0x05, 0x14 or 0x0E by XCODE with the ring, sequence and XCODE in TRAPINFO; DEMANDPC
and CREATORPC become invalid for a word that no plan wrote. -/
def Obligations.EngineExceptionsAreDelivered : Prop :=
  ∀ (d ring f : Reg) (s : State),
    let r := ring.toNat
    let c := s.actor.core
    let g := s.me.ring r
    let t := s.strand
    let x := g.xcode.toNat
    r < 6 → g.pendx = true → g.jobs = [] → s.unplanned c → t.trapVecValid = true → t.inHandler = false →
    ∃ u : State, exec (.ringq d ring f) s = .next u ∧ (u.me.ring r).pendx = false ∧ (g.next = g.xseq → (u.me.ring r).next = g.xseq + 1) ∧
      (g.xseq = g.rhead → (u.me.ring r).rhead = g.rhead + 1) ∧ markDone (u.mark c r g.xseq) = true ∧ SameMem s u ∧
      u.strand = { t with
        trapPc := t.pc, pc := t.trapVec, inHandler := true, stalled := false, toForce := [], status := .running
        demandPc := none, creatorPc := none, latch := u.strand.latch, record := none
        trapCause := (if x = 0x20 then 4 else if x = 0x21 then 5 else if x = 0 then 0x14 else 0x0E)
        trapInfo := BitVec.ofNat 64 (r * 2 ^ 8 + g.xseq.toNat * 2 ^ 11 + x * 2 ^ 43) }

/-- R390, R391, R267: CTXSV writes the strand's slot, whose PC is the next instruction's, whose s[d] is 1 and whose other
registers, all in a FULL slot and those of SMASK in a LIVE one, are the strand's, then clears s[d] and retires; CTXLD rebuilds the
strand from a slot of its own context, rank and gang size: registers, handles (VALID ones REVOKED), trap registers, its block of
semaphores and its rings are the slot's, FLAGS accumulates, and it goes on at the slot's PC. A VA that is not a multiple of
64 KiB takes 0x03, another KIND 0x01, another strand's slot 0x02. -/
def Obligations.SlotsAreSavedAndLoaded : Prop :=
  ∀ (d a : Reg) (head : List Byte) (i : SlotImage) (v : State) (s : State),
    let c := s.actor.core
    let va := (s.get a).toNat % 2 ^ 57
    let u := s.demandKeep c
    let t := u.strand
    let mine : Prop := bytesAt head 10 2 = s.me.ctx ∧ bytesAt head 12 2 = s.me.rank ∧ bytesAt head 14 2 = (s.gangCores c).length
    let kind := bytesAt head 8 1
    let held := u.onStrand (fun t => t.imaged d)
    let form : SaveForm := { full := t.live.isNone, pc := (t.imaged d).pc, dynamic := false }
    let w (o n : Nat) : Nat := bytesAt i.head o n
    (va % 0x10000 ≠ 0 → Traps (.ctxsv d a) s 3 va ∧ Traps (.ctxld a) s 3 va) ∧
    (va % 0x10000 = 0 → u.me.ringsEmpty = true → held.writeSlot c va form = (v, none) →
      Retires (.ctxsv d a) s (fun x => x.get d = 0 ∧ (∀ r, r ≠ d → x.get r = s.get r) ∧
        x = (v.onStrand (fun _ => t)).set d 0)) ∧
    ((∀ e ∈ t.loops, e.last ≠ t.pc) →
      (∃ p ∈ held.slotParts c form, p.1 = 0 ∧ p.2.take 8 = toBytes 8 ((t.pc.toNat + 4) % 2 ^ 57) ∧
        (p.2.drop 10).take 2 = toBytes 2 s.me.ctx ∧ (p.2.drop 12).take 2 = toBytes 2 s.me.rank) ∧
      ∀ r : Reg, r ≠ 0 → (∀ m, t.live = some m → liveSmask m r.toNat = true ∨ r = d) →
        (0x100 + 8 * r.toNat, toBytes 8 (if r = d then 1 else (t.get r).toNat)) ∈ held.slotParts c form) ∧
    (va % 0x10000 = 0 → s.vaBytes s.me.fn s.me.ctx va 0x1000 = .ok head →
      (kind ≠ 1 → kind ≠ 2 → Traps (.ctxld a) s 1 (wordOf (.ctxld a)).toNat) ∧
      ((kind = 1 ∨ kind = 2) → ¬mine → Traps (.ctxld a) s 2 va) ∧
      ((kind = 1 ∨ kind = 2) → mine → u.me.ringsEmpty = true → u.readSlot s.me.fn s.me.ctx va = .ok i → c < 256 →
        ∃ x : State, exec (.ctxld a) s = .next x ∧ SameMem u x ∧
          x.strand.pc = BitVec.ofNat 57 (w 0 8) &&& ~~~3#57 ∧ x.get 0 = 0 ∧
          (∀ r : Reg, r ≠ 0 → (w 8 1 = 2 ∨ liveSmask i.desc r.toNat = true) → x.get r = BitVec.ofNat 64 (w (0x100 + 8 * r.toNat) 8)) ∧
          x.strand.flags = BitVec.ofNat 6 (w 16 8) ||| t.flags ∧
          (∀ h, h < 15 → (x.strand.handle h).va = BitVec.ofNat 57 (w (0x300 + 8 * h) 8) ∧
            (x.strand.handle h).st = if (w (0x300 + 8 * h) 8).testBit 63 then .revoked else .invalid) ∧
          x.strand.trapPc = BitVec.ofNat 57 (w 48 8) &&& ~~~3#57 ∧ x.strand.trapCause = BitVec.ofNat 8 (w 56 8) ∧
          x.strand.trapInfo = BitVec.ofNat 64 (w 64 8) ∧ x.strand.inHandler = (w 80 8).testBit 0 ∧
          x.strand.loops = i.loops ∧ x.strand.status = .running ∧
          (∀ n, n < 96 → x.sem (semKey (dieOf c) (96 * coreInDie c + n)) = BitVec.ofNat 32 (w (0x900 + 4 * n) 4)) ∧
          ∀ r, r < 6 → (x.me.ring r).rtail = BitVec.ofNat 32 (w (0xB10 + 64 * r) 4) ∧
            (x.me.ring r).rhead = BitVec.ofNat 32 (w ((if w 8 1 = 2 then 0xB08 else 0xB10) + 64 * r) 4)))

/-- R183 and R309: the walk of a pending handle ends VALID with its page, which enters the core TLB, or REVOKED where a shootdown
covered it; one that finds no page leaves the handle PENDING on an outstanding fault (R53).

R54 and R55: RETRY of an outstanding fault lets its agents walk again; FAIL gives each the translation fault, 0x05 for a
permission or stage-2 failure and 0x04 else; the fault is outstanding no more. An answer to a fault that is not outstanding
sets ERR of the FQ, and one to a fault that a function-level reset discarded does not. -/
def Obligations.WalksAndFaultsAreAnswered : Prop :=
  (∀ (core h : Nat) (tr : Trans) (f : WalkFail) (s : State),
    let k := s.core core
    let v := k.strand.handle h
    let w := walk s k.fn k.ctx v.va.toNat .read
    let sets (n : Handle) : Prop := ∃ t : State, exec (.walkComplete core h) s = .next t ∧
      (t.core core).strand.handle h = n ∧ (∀ j, j ≠ h → (t.core core).strand.handle j = k.strand.handle j)
    v.st = .pending → v.fid = none →
    (v.shot = true → sets { v with st := .revoked, shot := false }) ∧
    (v.shot = false → w = .ok tr → sets { v with st := .valid, tr := tr } ∧
      ∃ t : State, exec (.walkComplete core h) s = .next t ∧ (t.core core).tlb = { fn := k.fn, ctx := k.ctx, tr := tr } :: k.tlb ∧
        SameBytes s t) ∧
    (v.shot = false → w = .error f → f.mac = none → ∃ fid, sets { v with fid := some fid } ∧
      ∃ t : State, exec (.walkComplete core h) s = .next t ∧
        ∃ r ∈ t.faults, r.fid = fid ∧ r.va / 4096 = v.va.toNat / 4096 ∧ r.acc = .read ∧ .handle core h ∈ r.waiters)) ∧
  (∀ (fn fid c n : Nat) (r : FaultRec) (s : State), fid < 65536 →
    let asked := s.faults.find? (fun x => decide (x.owner = fn ∧ x.fid = fid))
    let code : Nat := if r.stage2 = true ∨ r.perm = true then 5 else 4
    let u : State := { s with faults := s.faults.filter (fun x => !decide (x.owner = fn ∧ x.fid = fid)) }
    let v := (s.core c).strand.handle n
    let g := (s.core c).ring n
    let both (P : State → Prop) : Prop := (∃ t : State, exec (.faultRetry fn fid) s = .next t ∧ P t) ∧
      ∃ t : State, exec (.faultFail fn fid) s = .next t ∧ P t
    let waits (a : Agent) : Prop := asked = some r ∧ r.fid = fid ∧ r.waiters = [a]
    let keeps (i : Instr) (P : Core → Prop) : Prop := ∃ t : State, exec i s = .next t ∧ P (t.core c) ∧ OnlyCore u t c ∧ SameBytes s t
    (asked = none → (s.fn fn).dropped.contains fid = false → both (fun t => SameBytes s t ∧ t.cores = s.cores ∧
      t.queue fn 3 = { s.queue fn 3 with err := true })) ∧
    (asked = none → (s.fn fn).dropped.contains fid = true → both (fun t => SameBytes s t ∧ t.cores = s.cores ∧
      t.queue fn 3 = s.queue fn 3)) ∧
    (waits (.strand c) →
      exec (.faultRetry fn fid) s = .next (u.onStrandOf c (fun t => { t with status := .running })) ∧
      exec (.faultFail fn fid) s =
        .next ((u.onStrandOf c (fun t => { t with status := .running })).trapOf c code (s.core c).strand.faultVa)) ∧
    (waits (.handle c n) →
      keeps (.faultRetry fn fid) (fun k => k.strand.handle n = { v with fid := none }) ∧
      keeps (.faultFail fn fid) (fun k => k.strand.handle n = { v with
        fid := none, shot := false, failPerm := decide (code = 5), st := if v.shot then .revoked else .failed })) ∧
    (n < 6 → waits (.ring c n) → g.wait.fid = some fid → g.jobs = [] →
      keeps (.faultRetry fn fid) (fun k => k.ring n = { g with wait := .none } ∧ k.strand = (s.core c).strand) ∧
      keeps (.faultFail fn fid) (fun k => k.ring n = { g with
        wait := match g.wait with | .nodeFault _ => .nodeFailed (decide (code = 5)) | _ => .failed (decide (code = 5)) } ∧
        k.strand = (s.core c).strand)))

/-- R116, R117 and R133: LAUNCH_RECORD_FETCH takes the record at the queue's head: one that fails its checks completes with
BAD_RECORD in the CQ, and the decrements held for its slot go; another becomes a node with its predecessor count, ready with its instances when that is 0. DEVIDX
advances. A queue that may not fetch does nothing. -/
def Obligations.RecordsBecomeNodes : Prop :=
  ∀ (fn q : Nat) (s : State),
    let b := s.queue fn (4 + q)
    let x := b.ctx.toNat
    let here := (s.launchBytes fn q).1
    let bytes := (s.launchBytes fn q).2
    let l := launchOf bytes
    let u := here.onQueue fn (4 + q) (fun b => { b with dev := (b.dev + 1) % b.size })
    let fetched (n : TaskNode) : Prop := ∃ t : State, exec (.launchRecordFetch fn q) s = .next t ∧ t.nodes = s.nodes ++ [n] ∧
      (t.queue fn (4 + q)).dev = (b.dev + 1) % b.size ∧ SameBytes s t ∧ t.cores = s.cores
    let quiet : Prop := (∀ n ∈ s.nodes, n.phase ≠ .completing) ∧ (s.fn fn).decs = []
    (s.canFetch fn q = false → exec (.launchRecordFetch fn q) s = .next s) ∧
    (s.canFetch fn q = true → recordBad bytes x (s.captureOf x) = true →
      exec (.launchRecordFetch fn q) s =
        .next ((u.post fn 2 (cqEntry b.dev q 2 x 4 (bytesAt bytes 48 8))).dropDecs fn q b.dev).settleNodes) ∧
    (s.canFetch fn q = true → recordBad bytes x (s.captureOf x) = false → quiet →
      let n : TaskNode := { fn := fn, q := q, idx := b.dev, launch := l, remaining := l.predcnt, instances := l.instances.length }
      (l.predcnt ≠ 0 → fetched n) ∧
      (l.predcnt = 0 → l.barren = false → fetched { n with phase := .ready, order := s.nextOrder, toPlace := l.instances }))

/-- R119 to R122, R125 and Table 8-4: GANG_PLACE starts the first candidate that fits, on all of its cores: the strand of rank r
begins at ENTRY with ARGVA, its rank, the gang's size, its instance and NLEV in s1 to s5, the bounds of each level in s8 to
s19, and 0 in every other register; its semaphores are 0, and no register, tile or ring of an earlier strand is left. -/
def Obligations.GangsStartWithTheirRegisters : Prop :=
  ∀ (die cluster : Nat) (c : Candidate) (passed : List Candidate) (n : TaskNode) (cores : List Nat) (s : State),
    let k := 8 * (die % 4) + cluster % 8
    let l := n.launch
    let size := cores.length
    s.pick k = some (c, passed) → c.bad = false → c.kind = .fresh → s.node c.fn c.q c.idx = some n → s.fitAt c k = some cores →
    cores.Nodup → (∀ x ∈ cores, x < 256) →
    ∃ t : State, exec (.gangPlace die cluster) s = .next t ∧
      (∀ (r core : Nat), cores[r]? = some core →
        let x := t.core core
        x.resident = true ∧ x.fn = c.fn ∧ x.ctx = l.ctx ∧ x.rank = r ∧ x.gang = s.nextGang ∧ x.rings = [] ∧
        x.strand.status = .running ∧ x.strand.pc = l.entry ∧ x.strand.get 1 = l.argVa ∧ x.strand.get 2 = BitVec.ofNat 64 r ∧
        x.strand.get 3 = BitVec.ofNat 64 size ∧ x.strand.get 4 = BitVec.ofNat 64 c.inst ∧ x.strand.get 5 = BitVec.ofNat 64 l.nlev ∧
        (∀ i, i < 6 → x.strand.get (BitVec.ofNat 6 (8 + 2 * i)) = BitVec.ofNat 64 (l.bounds i r size c.inst).1 ∧
          x.strand.get (BitVec.ofNat 6 (9 + 2 * i)) = BitVec.ofNat 64 (l.bounds i r size c.inst).2) ∧
        x.strand.get 6 = 0 ∧ x.strand.get 7 = 0 ∧ (∀ v : Nat, 20 ≤ v → v < 64 → x.strand.get (BitVec.ofNat 6 v) = 0) ∧
        x.strand.tiles = [] ∧ x.strand.handles = [] ∧ x.strand.loops = [] ∧ x.strand.inHandler = false ∧
        ∀ i, i < 96 → t.sem (semKey (dieOf core) (96 * coreInDie core + i)) = 0) ∧
      (t.gang s.nextGang).map Gang.cores = (if s.gangs.any (fun g => decide (g.id = s.nextGang)) then (s.gang s.nextGang).map Gang.cores
        else some cores)

/-- R123, R124 and R126: a cluster whose slice ends, or that is idle and gains work, selects among the functions with work the
one of least pass, the lowest number among equals, unless a multi-cluster gang that still fits has reserved it since its last selection (R124); with none it is idle. At the
end of a slice of `cycles` cycles the holder's pass grows by 2^20 over its tickets, in the proportion used, and its gangs that
were passed over age. While the holder
switches contexts the slice goes on. -/
def Obligations.ClustersSelectLeastPass : Prop :=
  ∀ (die cluster cycles f : Nat) (s : State),
    let k := 8 * (die % 4) + cluster % 8
    let x := s.cluster k
    let selects (i : Instr) (u : State) : Prop :=
      let now := u.eligible k
      let y := (u.cluster k).letIn now
      let bound : Prop := x.reserveDue = true ∧ ∃ r, x.reserved = some r ∧ u.standing r = true
      ∃ t : State, exec i s = .next t ∧
        (∀ r, x.reserveDue = true → x.reserved = some r → u.standing r = true → (t.cluster k).holder = some r.1) ∧
        (¬bound → now = [] → (t.cluster k).holder = none) ∧
        (¬bound → f ∈ now → (∀ g ∈ now, y.pass f < y.pass g ∨ (y.pass f = y.pass g ∧ f ≤ g)) →
          (t.cluster k).holder = some f)
    let charged : State := s.onCluster k (fun c => { c with
      passes := (match c.holder with
        | some g => if s.tickets g k = 0 then c.passes
            else sset 0 c.passes g (c.pass g + 2 ^ 20 / s.tickets g k * cycles / (c.slice * 1300))
        | none => c.passes)
      slice := s.slice, pdl := s.pdl, skipped := c.skipped.map (fun e => if some e.fn = c.holder then { e with age := e.age + 1 } else e) })
    (x.holder = none → selects (.clusterIdleSelect die cluster) s) ∧
    (∀ g, x.holder = some g → exec (.clusterIdleSelect die cluster) s = .next s) ∧
    ((∀ g, x.holder = some g → (s.fn g).switching = none) → selects (.sliceEnd die cluster cycles) charged) ∧
    (∀ g, x.holder = some g → (s.fn g).switching ≠ none → exec (.sliceEnd die cluster cycles) s = .next s)

/-- R129 and Table 8-5 at a drain deadline that has passed: a gang whose estimate fits its pre-emption's deadline is asked to save; else an
idempotent node's gang is discarded and waits to start again; else it is asked to save and DLMISS counts.

R129, R130, R262 and R267: at a save point with its rings empty a strand that is to save is written to the lowest free slot
of its context, LIVE where a descriptor is in force; the last save of a gang writes what the earlier slots take with it; past
the 20 µs limit it is written in full; GANG_RESTORE reads every
slot of a saved gang, rebuilds its ranks on free cores and frees the slots: the registers that a slot holds, its PC and its
semaphores are its rank's again, which runs on unless it waited for something (resume code 0, log 32). -/
def Obligations.GangsAreSavedAndRestored : Prop :=
  (∀ (id : Nat) (g : Gang) (n : TaskNode) (s : State),
    let d := g.deadline
    let bytes := g.cores.foldl (fun m c => max m ((s.core c).strand.liveBytes.getD 3283008)) 0
    let fits : Prop := bytes * 13 ≤ d * 1000
    let asks (misses : Nat) : Prop := ∃ t : State, exec (.drainDeadline id) s = .next t ∧
      (t.gang id).map Gang.phase = some .saving ∧ (∀ c ∈ g.cores, (t.core c).saveAsk = true ∧ (t.core c).saveBy = s.cycle + 26000) ∧
      (t.node g.fn g.q g.idx).map TaskNode.dlmiss = some (n.dlmiss + misses) ∧ SameBytes s t
    s.gang id = some g → g.id = id → s.node g.fn g.q g.idx = some n →
    (g.phase ≠ .draining → exec (.drainDeadline id) s = .next s) ∧
    (g.phase = .draining → fits → asks 0) ∧
    (g.phase = .draining → ¬fits → n.launch.idemp = false → asks 1) ∧
    (g.phase = .draining → ¬fits → n.launch.idemp = true → ∃ t : State, exec (.drainDeadline id) s = .next t ∧
      (t.gang id).map Gang.phase = some .ready ∧ (t.gang id).map Gang.cores = some [] ∧
      (t.node g.fn g.q g.idx).map TaskNode.discards = some (n.discards + 1) ∧ ∀ c ∈ g.cores, (t.core c).resident = false)) ∧
  (∀ (core id die cluster : Nat) (g : Gang) (c : Candidate) (passed : List Candidate) (cores : List Nat)
    (images : List (Nat × Nat × SlotImage)) (v w : State) (s : State),
    let u := s.demandKeep core
    let x := s.core core
    let y := u.core core
    let k := 8 * (die % 4) + cluster % 8
    let saves (i : Instr) (p : State) (full : Bool) : Prop :=
      let z := p.core core
      let slot := (p.ctx z.ctx).freeSlot
      p.gang z.gang = some g →
      p.writeSlot core ((p.ctx z.ctx).slotVa slot) { full := full, pc := z.strand.pc } = (v, none) →
      v.writeLate core = (w, none) →
      ∃ t : State, exec i s = .next t ∧ (t.ctx z.ctx).used = (w.ctx z.ctx).used ++ [slot] ∧
        (t.gang z.gang).map (fun g => sfind g.slots z.rank) = some (some (some slot)) ∧
        ((t.core core).strand.status = .saved ∨ (t.core core).resident = false) ∧ SameMem w t
    (y.mustSave = true → y.ringsEmpty = true → (∀ r, r < 6 → (y.ring r).pendx = false) → y.strand.status = .saving →
      (y.strand.live = none → saves (.gangSave core) (((u.abandonWalks core).endLease core).haltEngines core) true) ∧
      (y.strand.live ≠ none → saves (.gangSave core) ((u.abandonWalks core).endLease core) false)) ∧
    (x.mustSave = true → x.strand.status ≠ .exited → x.strand.status ≠ .waitHosts →
      (∀ r, r < 6 → (x.ring r).wait ≠ .reset) → x.replayable = true → x.strand.reply = none →
      saves (.saveTimeout core) (((s.abandonWalks core).endLease core).haltEngines core) true) ∧
    (s.gang id = some g → g.id = id → s.pick k = some (c, passed) → s.fitAt c k = some cores → c.kind = .saved id →
      s.readSlots g g.slots = .ok images → ∃ t : State, exec (.gangRestore id die cluster) s = .next t ∧
        (t.gang id).map Gang.cores = some cores ∧ (t.gang id).map Gang.phase = some .running ∧
        (∀ e ∈ images, e.2.1 ∉ (t.ctx g.ctx).used) ∧
        (cores.Nodup → (∀ x ∈ cores, x < 256) → (images.map Prod.fst).Nodup → ∀ e ∈ images, ∀ y, cores[e.1]? = some y →
          s.parkedAt g.ctx e.2.1 = none →
          let w (o n : Nat) : Nat := bytesAt e.2.2.head o n
          let x := t.core y
          x.resident = true ∧ x.rank = e.1 ∧
          (∀ n, n < 96 → t.sem (semKey (dieOf y) (96 * coreInDie y + n)) = BitVec.ofNat 32 (w (0x900 + 4 * n) 4)) ∧
          (w (0xC80 + 40) 8 = 0 → x.strand.status = .running ∧ x.strand.pc = BitVec.ofNat 57 (w 0 8) &&& ~~~3#57 ∧
            ∀ r : Reg, r ≠ 0 → (w 8 1 = 2 ∨ liveSmask e.2.2.desc r.toNat = true) →
              x.strand.get r = BitVec.ofNat 64 (w (0x100 + 8 * r.toNat) 8)))))

/-- R131, R118 and R132: INSTANCE_COMPLETE ends a gang whose strands have all retired EXIT and whose rings are empty: its cores
are free and its node counts one instance more. With the last instance, or when the node has failed, the node completes: its
gangs stop, its record of Table 8-6 is written where CRVA is not 0, CSEM is raised by 1, a status that is not OK is posted in the CQ,
every valid successor entry takes 1 from its node's remaining count, which is ready at 0, or is held for a slot not yet
fetched, a failing status dooming what it reaches, and the node leaves the node table; other nodes stay as they are.

R133: a record with a level of COUNT 0 whose predecessor count is 0 places no gang: at its fetch it completes with status OK,
INSTANCES 0 and TSTART 0 in the steps of R131. -/
def Obligations.InstancesCompleteTheirNode : Prop :=
  (∀ (id : Nat) (g : Gang) (n : TaskNode) (bs : List Byte) (tr : Trans) (s : State),
    let done : Prop := g.cores ≠ [] ∧ ∀ c ∈ g.cores, (s.core c).strand.status = .exited ∧
      ∀ r, r < 6 → ((s.core c).ring r).rtail = ((s.core c).ring r).rkeep
    let l := n.launch
    let place (m : TaskNode) : Prop := m.fn = n.fn ∧ m.q = n.q ∧ m.idx = n.idx
    let count := if n.status = 0 then n.doneCount + 1 else n.doneCount
    let rec' := toBytes 2 n.status ++ toBytes 1 n.requeues ++ toBytes 1 (min 255 n.discards) ++ toBytes 2 (min 65535 n.dlmiss)
      ++ toBytes 2 count ++ toBytes 8 n.tstart ++ toBytes 8 s.cycle ++ toBytes 8 n.failInfo.toNat
    let entry := toBytes 2 n.idx ++ toBytes 1 n.q ++ toBytes 1 1 ++ toBytes 2 l.ctx ++ toBytes 2 n.status ++ toBytes 8 l.crVa
      ++ toBytes 16 0
    let succs := (upto l.nsucc).map (fun i => bytesAt bs (4 * i) 4)
    let named (m : TaskNode) : Nat :=
      if m.fn = n.fn then (succs.filter (fun e => decide (e / 2 ^ 21 = 0 ∧ e % 32 = m.q ∧ e / 32 % 65536 = m.idx))).length else 0
    let cq := s.queue n.fn 2
    s.gang id = some g → g.id = id → s.node g.fn g.q g.idx = some n →
    (n.status = 0 → ¬(∀ c ∈ g.cores, (s.core c).strand.status = .exited) → exec (.instanceComplete id) s = .next s) ∧
    (n.status = 0 → done → n.doneCount + 1 ≠ n.instances → ∃ t : State, exec (.instanceComplete id) s = .next t ∧
      t.gangs = s.gangs.filter (fun x => decide (x.id ≠ id)) ∧ (∀ c ∈ g.cores, (t.core c).resident = false) ∧
      t.node g.fn g.q g.idx = some { n with doneCount := n.doneCount + 1 } ∧ SameMem s t) ∧
    ((n.status = 0 ∧ done ∧ n.doneCount + 1 = n.instances) ∨ n.status ≠ 0 →
      n.fid = none → n.succs = none → n.recorded = false → n.signalled = false → (s.ctx l.ctx).destroying = none →
      (∀ m ∈ s.nodes, place m → m = n) → (∀ m ∈ s.nodes, ¬place m → m.phase ≠ .completing) →
      (∀ m ∈ s.nodes, m.doomed = false ∧ m.launch.barren = false) →
      (∀ m ∈ s.nodes, named m < m.remaining ∨ named m = 0 ∨ (named m = m.remaining ∧ n.status = 0) ∨ place m) →
      (∀ x ∈ s.gangs, x.fn = n.fn ∧ x.q = n.q ∧ x.idx = n.idx → x = g) →
      s.nodeBytes n.fn l.ctx 3 l.succVa (4 * l.nsucc) = .ok bs → (s.fn n.fn).decs.length + l.nsucc ≤ 1024 →
      (l.crVa ≠ 0 → walk s n.fn l.ctx l.crVa .write = .ok tr ∧ s.lineFails tr.mtype (tr.at l.crVa) 32 true = none ∧
        s.cleanPage n.fn tr = false) →
      ∃ t : State, exec (.instanceComplete id) s = .next t ∧ t.node g.fn g.q g.idx = none ∧
        t.gangs = s.gangs.filter (fun x => decide (x.id ≠ id)) ∧ (∀ c ∈ g.cores, (t.core c).resident = false) ∧
        (n.status = 0 ∨ cq.en = false → (l.crVa ≠ 0 → StoredAt s t tr.mtype (tr.at l.crVa) rec') ∧ (l.crVa = 0 → SameMem s t)) ∧
        (∀ key, n.csemKey (n.capture.getD (s.captureOf l.ctx)) = some key → t.sem key = semAddVal (s.sem key) 1) ∧
        (n.status = 0 → t.queue n.fn 2 = cq) ∧
        (n.status ≠ 0 → cq.en = false → (t.queue n.fn 2).held = cq.held ++ [entry]) ∧
        (n.status ≠ 0 → cq.en = true → cq.full = false → cq.held = [] → cq.base.getLsbD 63 = false →
          ∀ i, (h : i < entry.length) → mbyte t.hostMem (cq.base.toNat + 32 * cq.dev + i) =
            if i = 3 ∧ cq.pass = true then entry[i] ||| 0x80 else entry[i]) ∧
        (∀ m, s.node m.fn m.q m.idx = some m → ¬place m →
          (named m < m.remaining ∨ named m = 0 → t.node m.fn m.q m.idx = some { m with
            remaining := m.remaining - named m, doomed := decide (named m ≠ 0 ∧ n.status ≠ 0 ∧ m.capture = none) }) ∧
          (named m = m.remaining → named m ≠ 0 → ∃ o, t.node m.fn m.q m.idx = some { m with
            remaining := 0, phase := .ready, order := o, toPlace := m.launch.instances })) ∧
        (t.fn n.fn).decs = (s.fn n.fn).decs ++ (succs.filter (fun e => decide (e / 2 ^ 21 = 0) &&
          (s.node n.fn (e % 32) (e / 32 % 65536)).isNone)).map (fun e => (e % 32, e / 32 % 65536, decide (n.status ≠ 0))))) ∧
  (∀ (fn q : Nat) (tr : Trans) (s : State),
    let b := s.queue fn (4 + q)
    let x := b.ctx.toNat
    let here := (s.launchBytes fn q).1
    let bytes := (s.launchBytes fn q).2
    let l := launchOf bytes
    s.canFetch fn q = true → recordBad bytes x (s.captureOf x) = false → (∀ n ∈ s.nodes, n.phase ≠ .completing) →
    (s.fn fn).decs = [] → l.predcnt = 0 → l.barren = true → l.nsucc = 0 →
    (∀ g ∈ s.gangs, ¬(g.fn = fn ∧ g.q = q ∧ g.idx = b.dev)) →
    (l.crVa ≠ 0 → walk here fn l.ctx l.crVa .write = .ok tr ∧ here.lineFails tr.mtype (tr.at l.crVa) 32 true = none ∧
      here.cleanPage fn tr = false) →
    ∃ t : State, exec (.launchRecordFetch fn q) s = .next t ∧ t.nodes = s.nodes ∧ t.gangs = s.gangs ∧ (l.csem = none → t.cores = s.cores) ∧
      (t.queue fn (4 + q)).dev = (b.dev + 1) % b.size ∧
      (l.crVa = 0 → SameMem here t) ∧
      (l.crVa ≠ 0 → StoredAt here t tr.mtype (tr.at l.crVa) (toBytes 16 0 ++ toBytes 8 s.cycle ++ toBytes 8 0)) ∧
      ∀ (idx vd : Nat) (d : Nat), l.csem = some (idx, vd) → localDie (captured (some (here.captureOf l.ctx)) vd) = some d →
        t.sem (semKey d idx) = semAddVal (s.sem (semKey d idx)) 1)

/-- R158 to R163: every cause of an engine reset reloads the engine at RHEAD (RKEEP for ring M) with nothing unconfirmed and
counts it (marks old enough to be visible are written first); a rolling reset happens at a boundary and counts nothing; a strike on protected storage changes nothing;
ENGINE_RESET_DONE lets the engine run again. The third counted reset, or one that meets a word that cannot be replayed,
resets the core, which CORE_RESET_DONE frees, and is recorded with cause 0x23 in the bank of the core's cluster (R257). A stack
agent that is reset (a ring of 6 or more) keeps no cached record (R393). That the reload is done in the step of the cause is the
model's choice (log 13).

R67, R68, R70, R146 and R24: a die reset takes every core of the die out of use; its end frees them, sets every semaphore of
the die to 0, and clears the alias bindings to it, once the die is in its last accepted power state, which it first goes to by
the transition of R21. An alarm is recorded in bank 5 with cause 0x24 (R257). That semaphores and bindings are cleared at
DIE_RESET_DONE is the model's choice (log 59). -/
def Obligations.ResetsReloadEnginesAndClearDies : Prop :=
  (∀ (c r : Nat) (s : State), r < 6 →
    let k := s.core c
    let g := k.ring r
    let may : Prop := k.resident = true ∧ k.inReset = false ∧ g.wait ≠ .reset ∧ k.strand.status ≠ .saved ∧
      ∀ y ∈ g.young, s.cycle < y.since + 2100
    let few : Prop := g.replayable = true ∧ g.resets < 2
    let reloads (i : Instr) (n : Nat) : Prop := ∃ t : State, exec i s = .next t ∧
      let h := (t.core c).ring r
      h.wait = .reset ∧ h.next = (if r = 1 then g.rkeep else g.rhead) ∧ h.flight = [] ∧ h.resets = g.resets + n ∧
      h.rhead = g.rhead ∧ h.rtail = g.rtail ∧ h.rkeep = g.rkeep ∧ (t.core c).strand = k.strand ∧ SameBytes s t
    let bank (t : State) : Bank := sget {} t.banks (16 * dieOf c + 6 + coreInDie c / 8)
    let downs (i : Instr) : Prop := ∃ t : State, exec i s = .next t ∧ (t.core c).inReset = true ∧ (t.core c).resident = false ∧
      ((bank s).valid = false → (bank t).valid = true ∧ (bank t).ue = true ∧ (bank t).cause = 0x23 ∧
        (bank t).unit = BitVec.ofNat 16 (coreInDie c))
    let cause (i : Instr) : Prop := (few → reloads i 1) ∧ (¬few → downs i)
    (may → cause (.parityError c r) ∧ cause (.protocolAlarm c r)) ∧
    (may → g.empty = false → g.wait ≠ .await → g.wait ≠ .pipe → g.wait ≠ .held → (∀ f, g.wait ≠ .fault f ∧ g.wait ≠ .nodeFault f) → cause (.watchdogExpiry c r)) ∧
    (may → r = 0 → cause (.strikeReport c .vector)) ∧ (may → r = 1 → cause (.strikeReport c .matrix)) ∧
    exec (.strikeReport c .protectedStorage) s = .next s ∧
    (may → k.boundary r = true → reloads (.rollingReset c r) 0) ∧
    (k.resident = true → k.boundary r = false → ∃ t : State, exec (.rollingReset c r) s = .next t ∧
      ((t.core c).ring r) = { g with roll := true } ∧ SameBytes s t) ∧
    (g.wait = .reset → ∃ t : State, exec (.engineResetDone c r) s = .next t ∧ (t.core c).ring r = { g with wait := .none } ∧
      OnlyCore s t c ∧ SameBytes s t) ∧
    (∀ (a : Nat), a < 16 → ∃ t : State, exec (.parityError c (6 + a)) s = .next t ∧
      ∀ x i v, i < 4 → v ∈ ((t.core x).ring (i + 2)).cache → v.agent ≠ some (16 * dieOf c + a)) ∧
    (k.inReset = true → (∀ e ∈ s.dieResets, e.1 ≠ c / 64) → (∀ n ∈ s.nodes, n.reset = none) →
      ∃ t : State, exec (.coreResetDone c) s = .next t ∧ (t.core c).inReset = false ∧ OnlyCore s t c)) ∧
  (∀ (die : Nat) (s : State), die < 4 →
    (∃ t : State, exec (.arbiterAlarm die) s = .next t ∧
      ((sget {} s.banks (16 * die + 5)).valid = false →
        (sget {} t.banks (16 * die + 5)).valid = true ∧ (sget {} t.banks (16 * die + 5)).cause = 0x24) ∧
      ∀ i, i < 64 → (t.core (64 * die + i)).inReset = true ∧ (t.core (64 * die + i)).resident = false) ∧
    ((∀ e ∈ s.dieResets, e.1 ≠ die) → exec (.dieResetDone die) s = .next s) ∧
    ((∃ e ∈ s.dieResets, e.1 = die) → s.settled die = false →
      exec (.dieResetDone die) s = .next (if (s.pow die).phase = .steady then s.nextPower die else s)) ∧
    ((∃ e ∈ s.dieResets, e.1 = die) → s.settled die = true → (∀ n ∈ s.nodes, n.reset = none) →
      ∃ t : State, exec (.dieResetDone die) s = .next t ∧
      (∀ i, i < 64 → (t.core (64 * die + i)).inReset = false) ∧ (∀ i, i < 65536 → t.sem (65536 * die + i) = 0) ∧
      (∀ k, k / 65536 ≠ die → t.sem k = s.sem k) ∧
      (∀ c a, ssorted (s.core c).aliases = true → sget 0 (t.core c).aliases a =
        (if field (sget 0 (s.core c).aliases a) 16 2 = die then 0 else sget 0 (s.core c).aliases a)) ∧
      (∀ e ∈ t.dieResets, e.1 ≠ die) ∧
      t.pow die = s.pow die ∧ ((s.pow die).clamp = false → (t.pow die).cur = (s.pow die).req ∧ (t.pow die).phase = .steady)))

/-- R257 to R260 and Table 14-5: a corrected error counts in CE and an uncorrectable one in UE, without wrapping; an invalid bank
takes the record, a corrected record gives way to an uncorrectable one, and an uncorrectable record that the host has not
read sets OVERFLOW. A machine fault of cause 0x22 fails the context on the core, 0x23 resets the core, 0x24 the die. The
host's read of STATUS answers it and marks the record read; its clear empties the bank. That any other cause does nothing after its
record is the model's choice (log 14). -/
def Obligations.ErrorBanksRecord : Prop :=
  ∀ (die bank : Nat) (e : ErrorReport) (s : State), die < 4 → bank < 16 →
    let k := 16 * die + bank
    let b := sget {} s.banks k
    let at' (t : State) : Bank := sget {} t.banks k
    let inc (v : BitVec 32) : BitVec 32 := if v = 0xFFFFFFFF then v else v + 1
    let same (t : State) : Prop := ∀ j, j ≠ k → sget {} t.banks j = sget {} s.banks j
    let whole (t : State) (ue : Bool) (cause : Byte) : Prop := at' t = {
      valid := true, ue := ue, overflow := b.overflow, read := false, cause := cause, kind := e.kind, unit := e.unit, fn := e.fn
      addr := e.addr, ce := if ue then b.ce else inc b.ce, uec := if ue then inc b.uec else b.uec }
    let core := 64 * die + e.unit.toNat % 64
    (∃ t : State, exec (.correctedError die bank e) s = .next t ∧ same t ∧ SameBytes s t ∧ t.cores = s.cores ∧
      ((b.valid = false ∨ (b.ue = false ∧ b.read = true)) → whole t false 0) ∧
      (b.valid = true → (b.ue = true ∨ b.read = false) → at' t = { b with ce := inc b.ce })) ∧
    (∃ t : State, exec (.uncorrectableError die bank e) s = .next t ∧
      same t ∧ ((b.valid = false ∨ b.ue = false ∨ b.read = true) → whole t true e.cause) ∧
      (b.valid = true → b.ue = true → b.read = false → at' t = { b with uec := inc b.uec, overflow := true }) ∧
      (e.cause.toNat < 0x20 ∨ 0x24 < e.cause.toNat → t.cores = s.cores)) ∧
    (e.cause = 0x23 → ∃ t : State, exec (.uncorrectableError die bank e) s = .next t ∧ (t.core core).inReset = true) ∧
    (e.cause = 0x24 → ∃ t : State, exec (.uncorrectableError die bank e) s = .next t ∧
      ∀ i, i < 64 → (t.core (64 * die + i)).inReset = true) ∧
    (e.cause = 0x22 → (s.core core).resident = true → (s.ctx (s.core core).ctx).destroying = none →
      ∃ t : State, exec (.uncorrectableError die bank e) s = .next t ∧ (t.ctx (s.core core).ctx).failed = true) ∧
    (∃ t : State, exec (.errorBankStatusRead die bank) s = .next t ∧ t.answer = toBytes 8 b.status ∧
      at' t = { b with read := b.valid } ∧ same t ∧ SameBytes s t) ∧
    (∃ t : State, exec (.errorBankClear die bank) s = .next t ∧ at' t = {} ∧ same t ∧ SameBytes s t)

/-! ## Start, power, host interface -/

/-- R59 to R63, R67 and R71: a start is a package reset: everything in flight is lost, host memory and the always-on domain
stay, and the journal takes every node fetched and not completed. It begins at step 1, warm only where no digest mismatch
forces it to be cold. A step that finds what Table 5-2 names ends the start with that CODE: a bad signature or another digest
of the firmware, a bad record, too few units; else it takes effect and gives way to the next of Table 5-1. Where the supply
fails and the always-on domain with it, the journal and the digest are gone. The model's choices: a short harvest is a bad record
and the order of the record's checks (logs 65, 18); PORTS shows the ports of a disabled tier as absent, and step 7 ends once every
die is in P0 with no clamp, where it first goes (R24, R21; log 89). -/
def Obligations.StartsRunTheirSteps : Prop :=
  ∀ (o : StartOutcome) (s : State),
    let t0 := s.start
    let cleared (t : State) : Prop := t.cores = [] ∧ t.nodes = [] ∧ t.gangs = [] ∧ t.ctxs = [] ∧ t.fns = [] ∧ t.mem = [] ∧
      t.sems = [] ∧ t.power = [] ∧ t.hostMem = s.hostMem
    let kept (t : State) : Prop := t.config.journal.map Prod.fst = s.config.journal.map Prod.fst ++ s.nodes ∧
      t.config.digest = s.config.digest ∧ t.config.minSvn = s.config.minSvn
    let resets (i : Instr) (t0 : Start) : Prop := ∃ t : State, exec i s = .next t ∧ cleared t ∧ kept t ∧ t.start = t0
    let under : Prop := t0.step ≠ 0 ∧ t0.done = false ∧ t0.fail = false
    let r := Sys2Proof.Config.configRecord s.tick
    let image := Sys2Proof.Config.firmware t0.loaded
    let key := Sys2Proof.Config.romKey
    let signed : Prop := Sys2Proof.Config.slhVerify key (r.take 280) ((r.drop 280).take 16224) = true ∧
      recSerial r = Sys2Proof.Config.controllerSerial
    let short : Prop := ∃ g, g < 52 ∧ (physicalUnits (harvestGroup r g).1).length < (harvestGroup r g).2
    let fails (code : Nat) : Prop :=
      (t0.step = 2 ∧ t0.warm = true ∧ code = 2 ∧ s.config.digest ≠ some (sha256 image)) ∨
      (t0.step = 2 ∧ t0.warm = false ∧ code = 1 ∧
        Sys2Proof.Config.slhVerify key image (Sys2Proof.Config.firmwareSig t0.loaded) = false) ∨
      (t0.step = 4 ∧ code = 3 ∧ ¬signed) ∨ (t0.step = 4 ∧ code = 4 ∧ signed ∧ recSvn r < s.config.minSvn) ∨
      (t0.step = 4 ∧ code = 3 ∧ signed ∧ ¬recSvn r < s.config.minSvn ∧ short) ∨
      (t0.step = 5 ∧ code = 5 ∧ o = .insufficient) ∨ (t0.step = 6 ∧ code = 6 ∧ o = .scanFailure) ∨
      (t0.step = 6 ∧ code = 5 ∧ o ≠ .scanFailure ∧ s.scanned = none)
    let cool : Prop := ∀ d, d < 4 → (s.pow d).phase = .steady ∧ (s.pow d).cur = 0 ∧ (s.pow d).clamp = false
    resets .coldStart { step := 1, loaded := s.tick } ∧
    resets .warmStart { step := 1, warm := !t0.forceCold, loaded := s.tick } ∧
    resets .junctionPowerRemoval { forceCold := t0.forceCold } ∧ resets (.supplyLoss false) { forceCold := t0.forceCold } ∧
    (∃ t : State, exec (.supplyLoss true) s = .next t ∧ cleared t ∧ t.config.journal = [] ∧ t.config.digest = none ∧ t.start = {}) ∧
    (¬under → exec (.startStepDone o) s = .next s) ∧
    (∀ code, under → fails code → exec (.startStepDone o) s = .next { s with start := { t0 with
      fail := true, code := code, forceCold := t0.forceCold || decide (code = 2) } }) ∧
    (under → t0.step = 7 → ¬cool → ∃ t : State, exec (.startStepDone o) s = .next t ∧ { t with power := s.power } = s ∧
      ∀ d, d < 4 → (t.pow d).clamp = false ∧ (t.pow d).req = 0 ∧
        ((s.pow d).phase ≠ .steady → (t.pow d).phase = (s.pow d).phase) ∧
        ((s.pow d).phase = .steady → (s.pow d).cur ≠ 0 → (t.pow d).phase = .raising ∧ (t.pow d).goal = 0)) ∧
    (under → (∀ code, ¬fails code) → (t0.step = 7 → cool) → ∃ t : State, exec (.startStepDone o) s = .next t ∧
      t.start.step = (if t0.warm = true ∧ t0.step = 5 then 7 else min 7 (t0.step + 1)) ∧ t.start.fail = false ∧
      t.start.done = decide (t0.step = 7) ∧ t.hostMem = s.hostMem ∧
      (t0.step = 2 → t0.warm = false → t.config.digest = some (sha256 image)) ∧
      (t0.step = 3 → ∀ d, d < 4 → sget 0 t.config.identity d = sha256 (Sys2Proof.Config.pufResponse d)) ∧
      (t0.step = 4 → t.config.record = r.take 280 ∧ t.config.serial = recSerial r ∧ t.config.svn = recSvn r ∧
        t.config.fabricOn = (recOptions r).getLsbD 0 ∧ t.config.tier2On = (recOptions r).getLsbD 1 ∧
        t.config.minSvn = (if t0.warm = false ∧ s.config.minSvn < recSvn r then recSvn r else s.config.minSvn) ∧
        (∀ d, d < 4 → t.floorMv d = recFloor r d) ∧
        ∀ g, g < 52 → sget [] t.config.units g = (physicalUnits (harvestGroup r g).1).take (harvestGroup r g).2) ∧
      (t0.step = 5 → (∀ p, p < 4 →
          t.start.ports.getLsbD p = (!s.config.tier2On || decide (sget 0 t.config.frames p = 0)) ∧
          sget 0 t.config.frames p = (if t0.warm = true then sget 0 s.config.frames p
            else if s.config.tier2On = false ∨ bmem (Sys2Proof.Config.portsAbsent s.tick) p = true ∨
              2 ^ 41 < Sys2Proof.Config.portBytes s.tick p then 0
            else (Sys2Proof.Config.portBytes s.tick p - 2 ^ 30) / (2 ^ 21 + 2 ^ 18 + 2 ^ 13))) ∧
        t.retiredGroups = (if t0.warm = true then s.retiredGroups else s.retiredGroups ||| s.untrained)) ∧
      (t0.step = 6 → some t.config.units = s.scanned) ∧
      (t0.step = 7 → (∀ a, mbyte t.mem a = 0) ∧ t.poison = [] ∧ t.broken = [] ∧ (∀ k, k ≠ 0 → sfind t.keys k = none) ∧
        (sfind t.keys 0).isSome = true ∧ t.cycle = 0 ∧ t.power = s.power) ∧
      (t0.step ≠ 7 → SameBytes s t ∧ t.cores = s.cores))

/-- R21 to R23 and R25: a write to PSREQ is held under the clamp, denied below the floor, busy during a transition, else
accepted; an up-step raises the voltage and then switches the clock, a down-step switches the clock and then lowers the
voltage; the clamp takes a die above its clamp state there, its release takes it to REQ, each with its event; the samples
fill their registers, and a read of PWRMEAS clears PEAKW. That a target below the floor is denied before it is busy is the
model's choice (log 18). -/
def Obligations.PowerStatesMoveInPhases : Prop :=
  ∀ (die : Nat) (target : BitVec 2) (watts active mem sync : BitVec 16) (s : State), die < 4 →
    let p := s.pow die
    let floor := s.floorMv die
    let mv (q : BitVec 2) : Nat := if q = 0 then 800 else if q = 1 then 720 else if q = 2 then 650 else 580
    let low : BitVec 2 := if floor ≤ 580 then 3 else if floor ≤ 650 then 2 else if floor ≤ 720 then 1 else 0
    let aim (x : DiePower) : BitVec 2 := if x.clamp then (if x.cur < low then low else x.cur) else x.req
    let toward (x : DiePower) (q : BitVec 2) : DiePower := { x with
      goal := q
      phase := if q < x.cur then .raising else if x.cur < q then .switchingDown
        else if x.vmv.toNat ≠ mv x.cur then .lowering else .steady }
    let has (t : State) (x : DiePower) : Prop := t.pow die = x ∧ (∀ d, d ≠ die → t.pow d = s.pow d) ∧ { t with power := s.power } = s
    let becomes (i : Instr) (x : DiePower) : Prop := ∃ t : State, exec i s = .next t ∧ has t x
    let posts (i : Instr) (code : Nat) (x y : DiePower) : Prop := ∃ u t : State, has u x ∧ exec i s = .next t ∧
      t.pow die = y ∧ { t with power := [] } = { u.event 0 code die with power := [] }
    let asked : DiePower := { p with target := target }
    let up : DiePower := { p with vmv := BitVec.ofNat 16 (mv p.goal), phase := .switchingUp }
    let settled : DiePower := { p with vmv := BitVec.ofNat 16 (mv p.cur), phase := .steady }
    let fast : DiePower := { p with cur := p.goal, phase := .steady }
    let on : DiePower := { p with clamp := true }
    let off : DiePower := { p with clamp := false }
    (p.clamp = true → becomes (.powerStateRequest die target) { asked with req := target, result := 3 }) ∧
    (p.clamp = false → mv target < floor → becomes (.powerStateRequest die target) { asked with result := 1 }) ∧
    (p.clamp = false → floor ≤ mv target → p.phase ≠ .steady → becomes (.powerStateRequest die target) { asked with result := 2 }) ∧
    (p.clamp = false → floor ≤ mv target → p.phase = .steady →
      becomes (.powerStateRequest die target) (toward { asked with req := target, result := 0 } target)) ∧
    (p.phase = .raising → becomes (.voltageRampDone die) up) ∧
    (p.phase = .lowering → becomes (.voltageRampDone die) (toward settled (aim settled))) ∧
    (p.phase = .switchingUp → becomes (.clockSwitchDone die) (toward fast (aim fast))) ∧
    (p.phase = .switchingDown → becomes (.clockSwitchDone die) { p with cur := p.goal, phase := .lowering }) ∧
    (p.phase ≠ .raising → p.phase ≠ .lowering → exec (.voltageRampDone die) s = .next s) ∧
    (p.phase ≠ .switchingUp → p.phase ≠ .switchingDown → exec (.clockSwitchDone die) s = .next s) ∧
    (p.clamp = true → exec (.thermalClampEngage die) s = .next s) ∧
    (p.clamp = false → posts (.thermalClampEngage die) 1 on
      (if p.phase = .steady ∨ p.phase = .raising then toward on (aim on) else on)) ∧
    (p.clamp = false → exec (.thermalClampRelease die) s = .next s) ∧
    (p.clamp = true → posts (.thermalClampRelease die) 2 off (if p.phase = .steady then toward off p.req else off)) ∧
    exec (.pwrmeasSample watts) s = .next { s with watts := watts, peakW := if s.peakW < watts then watts else s.peakW } ∧
    becomes (.stallSample die active mem sync) { p with active := active, memStall := mem, syncStall := sync, seq := p.seq + 1 } ∧
    exec .peakwRead s = .next { s with answer := toBytes 8 (s.watts.toNat + s.peakW.toNat * 2 ^ 16), peakW := 0 }

/-- R45 and R49: a report entry goes to the ring at DEVIDX with bit P of the pass, DEVIDX advances modulo the size, P turns at
the wrap, and the vector is signalled, or made pending where its MSI-X entry masks it (log 92); while the queue is disabled, or
full, or holds earlier entries, it is held, and OVF is set for lack of space. The first CQ or FQ entry held so posts event 6.

R46 to R48: EN rising with good fields makes both indices 0 and the pass 1, with bad ones sets ERR; while EN is 1 the fields
keep their values, and EN falling keeps DEVIDX; a doorbell on a disabled queue, not below the entry count, or past DEVIDX of a
report queue, sets ERR and posts event 4, and any other is the host's new index; the read of the status clears ERR and OVF.
Entries that a report queue holds are written at an enable or a doorbell (R49); a CQ's enable reports the journal (R71). -/
def Obligations.QueuesFollowTheirControl : Prop :=
  (∀ (fn q : Nat) (bs : List Byte) (s : State), 1 ≤ q → q < 4 →
    let b := s.queue fn q
    let byte := if q = 3 then 7 else 3
    let width := if q = 1 then 16 else 32
    let size := 2 ^ (b.log2sz.toNat + 4)
    let full : Prop := (b.dev + 1) % size = b.host % size
    let t := s.pushEntry fn q bs
    let next := (b.dev + 1) % size
    let masked := (sget 0 (s.fn fn).msixTab (2 * (q - 1) + 1)).getLsbD 32
    (b.en = true → ¬full → b.held = [] → b.base.getLsbD 63 = false → bs.length = width →
      t.queue fn q = { b with dev := next, pass := if next = 0 then !b.pass else b.pass } ∧
      t.msix = (if masked then s.msix else s.msix ++ [(fn, q - 1)]) ∧
      (t.fn fn).msixPend = (if masked then bset (s.fn fn).msixPend (q - 1) else (s.fn fn).msixPend) ∧
      (∀ i, (h : i < bs.length) → mbyte t.hostMem (b.base.toNat + width * b.dev + i) =
        if i = byte ∧ b.pass = true then bs[i] ||| 0x80 else bs[i]) ∧
      (∀ a, a < b.base.toNat + width * b.dev ∨ b.base.toNat + width * b.dev + width ≤ a →
        mbyte t.hostMem a = mbyte s.hostMem a) ∧ t.mem = s.mem) ∧
    ((b.en = false ∨ full ∨ b.held ≠ []) → b.base.getLsbD 63 = false → SameBytes s t ∧ t.msix = s.msix ∧
      t.queue fn q = { b with held := b.held ++ [bs], ovf := b.ovf || (b.en && decide full) }) ∧
    (b.en = true → full → b.episode = false → q ≠ 1 → b.base.getLsbD 63 = false → ∃ u : State,
      u.queue fn q = { b with held := b.held ++ [bs], ovf := true, episode := true } ∧ SameBytes s u ∧
      s.post fn q bs = u.event fn 6 (0x100 + 0x20 * q))) ∧
  (∀ (fn : Nat) (q : QueueId) (v : BitVec 64) (x : BitVec 32) (s : State),
    let n := queueNum q
    let b := s.queue fn n
    let size := 2 ^ (b.log2sz.toNat + 4)
    let has (t : State) (c : Queue) : Prop := t.queue fn n = c ∧ (∀ m, m ≠ n → t.queue fn m = s.queue fn m) ∧ SameBytes s t ∧
      t.cores = s.cores
    let becomes (i : Instr) (c : Queue) : Prop := ∃ t : State, exec i s = .next t ∧ has t c
    let set : Queue := { b with
      log2sz := v.extractLsb' 1 4
      ctx := if n < 4 then 0 else v.extractLsb' 16 12
      prio := if n < 4 then 0 else v.extractLsb' 28 4 }
    let good : Prop := set.log2sz.toNat ≤ 12 ∧ b.base.toNat % 4096 = 0 ∧
      (n < 4 ∨ ((s.ctx set.ctx.toNat).live = true ∧ (s.ctx set.ctx.toNat).fn = fn))
    let quiet : Prop := (n = 0 ∨ 4 ≤ n) ∨ (b.held = [] ∧ b.episode = false)
    let past : Prop := 1 ≤ n ∧ n ≤ 3 ∧ (b.dev + size - b.host) % size < (x.toNat + size - b.host) % size
    (b.en = true → exec (.queueEnable fn q v) s = .next s) ∧
    (b.en = true → becomes (.queueDisable fn q v) { b with en := false }) ∧
    (b.en = false → becomes (.queueDisable fn q v) set) ∧
    (b.en = false → ¬good → becomes (.queueEnable fn q v) { set with err := true }) ∧
    (b.en = false → good → quiet → (n = 2 → ∀ e ∈ s.config.journal, e.1.fn ≠ fn) →
      becomes (.queueEnable fn q v) { set with en := true, host := 0, dev := 0, pass := true }) ∧
    (b.en = false → good → n = 2 → ∃ t : State, exec (.queueEnable fn q v) s = .next t ∧
      t.config.journal = s.config.journal.filter (fun e => decide (e.1.fn ≠ fn))) ∧
    ((b.en = false ∨ size ≤ x.toNat ∨ past) → ∃ u : State, has u { b with err := true } ∧
      exec (.queueDoorbell fn q x) s = .next (u.event fn 4 (if n < 4 then 0x100 + 0x20 * n else 0x200 + 0x20 * (n - 4)))) ∧
    (¬(b.en = false ∨ size ≤ x.toNat ∨ past) → quiet → becomes (.queueDoorbell fn q x) { b with host := x.toNat }) ∧
    (∃ t : State, exec (.queueStatusRead fn q) s = .next t ∧ has t { b with err := false, ovf := false } ∧
      t.answer = toBytes 8 (b.dev % 2 ^ 16 + b.err.toNat * 2 ^ 16 + b.ovf.toNat * 2 ^ 17)))

/-- Tables 4-2, 4-3 and 14-4 (R4, R46, R54, R259): a write to a BAR0 offset is the write to the field there: QBASE while EN is 0,
EN, DB, FRESP by its ACTION (a reserved one sets ERR of the FQ), the MSI-X table (an entry that is unmasked so signals its
pending vector, log 92), PSREQ of a die and CLEAR of an error bank in the PF's page; any other offset ignores it.

R138: a write of BASEG and LOG2N is placed while the ring is empty and its engine idle and LOG2N is 4 to 14, else refused with
CFGERR; the read of the ring's status answers its fields, BUSY while a word is in progress, and clears CFGERR. -/
def Obligations.RegisterWritesReachTheirField : Prop :=
  (∀ (fn off die bank : Nat) (q : QueueId) (v : BitVec 64) (s : State),
    let n := queueNum q
    let b := s.queue fn n
    let at' := if n < 4 then 0x100 + 0x20 * n else 0x200 + 0x20 * (n - 4)
    let does (o : Nat) (i : Instr) : Prop := exec (.registerWrite fn o v) s = exec i s
    let action := v.toNat / 2 ^ 16 % 4
    (∃ t : State, exec (.registerWrite fn at' v) s = .next t ∧ t.queue fn n = (if b.en then b else { b with base := v }) ∧
      (∀ m, m ≠ n → t.queue fn m = s.queue fn m) ∧ SameBytes s t ∧ t.cores = s.cores) ∧
    (v.getLsbD 0 = true → does (at' + 8) (.queueEnable fn q v)) ∧ (v.getLsbD 0 = false → does (at' + 8) (.queueDisable fn q v)) ∧
    does (at' + 0x10) (.queueDoorbell fn q (v.setWidth 32)) ∧
    (action = 0 → does 0x180 (.faultRetry fn (v.toNat % 2 ^ 16))) ∧ (action = 1 → does 0x180 (.faultFail fn (v.toNat % 2 ^ 16))) ∧
    (2 ≤ action → ∃ t : State, exec (.registerWrite fn 0x180 v) s = .next t ∧ SameBytes s t ∧
      t.queue fn 3 = { s.queue fn 3 with err := true } ∧ ∀ m, m ≠ 3 → t.queue fn m = s.queue fn m) ∧
    (0x7000 ≤ off → off < 0x7080 → ∃ t : State, exec (.registerWrite fn off v) s = .next t ∧ SameBytes s t ∧
      sget 0 (t.fn fn).msixTab ((off - 0x7000) / 8) = v ∧ (∀ m, t.queue fn m = s.queue fn m) ∧
      (bmem (s.fn fn).msixPend ((off - 0x7000) / 16) = false → t.msix = s.msix ∧ (t.fn fn).msixPend = (s.fn fn).msixPend) ∧
      (bmem (s.fn fn).msixPend ((off - 0x7000) / 16) = true → off % 16 = 8 → v.getLsbD 32 = false →
        t.msix = s.msix ++ [(fn, (off - 0x7000) / 16)] ∧ bmem (t.fn fn).msixPend ((off - 0x7000) / 16) = false)) ∧
    (die < 4 → exec (.registerWrite 0 (0x8000 + 8 * die) v) s = exec (.powerStateRequest die (v.extractLsb' 0 2)) s) ∧
    (die < 4 → bank < 16 → exec (.registerWrite 0 (0x9000 + 0x200 * die + 0x20 * bank + 0x18) v) s =
      (if v.getLsbD 0 then exec (.errorBankClear die bank) s else .next s)) ∧
    ((off < 0x100 ∨ (0x188 ≤ off ∧ off < 0x200) ∨ (0x600 ≤ off ∧ off < 0x7000) ∨ (0x7080 ≤ off ∧ off < 0x8000) ∨ (0x8020 ≤ off ∧ off < 0x9000) ∨
      0x9800 ≤ off ∨
      (0x7080 ≤ off ∧ fn ≠ 0)) → exec (.registerWrite fn off v) s = .next s)) ∧
  (∀ (core ring : Nat) (v : BitVec 64) (s : State), ring < 6 →
    let g := (s.core core).ring ring
    let n := v.toNat / 2 ^ 16 % 16
    let idle : Prop := g.rkeep = g.rtail ∧ g.flight = [] ∧ g.pendx = false
    let m := s.mark core ring g.next
    let busy : Bool := decide (g.flight ≠ [] ∨ g.jobs ≠ [] ∨ (g.next ≠ g.rtail ∧ (g.begun = true ∨ (g.wait ≠ .none ∧ g.wait ≠ .reset) ∨
      markAwt m = true ∨ markProg m ≠ 0 ∨ g.next ≠ g.rhead)))
    let becomes (i : Instr) (h : Ring) : Prop := ∃ t : State, exec i s = .next t ∧ (t.core core).ring ring = h ∧
      (∀ r, r ≠ ring → (t.core core).ring r = (s.core core).ring r) ∧ (t.core core).strand = (s.core core).strand ∧
      (∀ c, c ≠ core → t.core c = s.core c) ∧ SameBytes s t
    (idle → 4 ≤ n → n ≤ 14 → becomes (.ringConfigWrite core ring v) { g with
      baseG := BitVec.ofNat 16 v.toNat, log2n := BitVec.ofNat 4 n }) ∧
    ((¬idle ∨ n < 4 ∨ 14 < n) → becomes (.ringConfigWrite core ring v) { g with cfgerr := true }) ∧
    becomes (.ringStatusRead core ring) { g with cfgerr := false } ∧
    (∃ t : State, exec (.ringStatusRead core ring) s = .next t ∧ t.answer = toBytes 8 (busy.toNat + g.resets % 4 * 2 +
      g.cfgerr.toNat * 8 + g.pendx.toNat * 16 + g.xcode.toNat * 2 ^ 8 + g.xseq.toNat % 2 ^ 16 * 2 ^ 16)))

/-- R43, R44, R88 and R106, for an access within one page of BAR2: a read answers the bytes, all ones where the page is not mapped
or the line, or the line of a table that the walk reads, fails its check (an integrity failure of the function); a write stores
them, and drops every device copy and lease of the lines but for a window line that its home slice serves (R80), or is
dropped; each unmapped access, a write through a page above 4 KiB while the log is on among them (R87), posts event 7. An AtomicOp of 4 or 8 bytes answers the old value and stores the new one, or completes with
Completer Abort (2) where it is misaligned, unmapped, on a host page or fails its check, with Unsupported Request (1) for
another width. A write of a clean page enters the dirty log, or sets LOST where the log is full. The model's choices: a misaligned
AtomicOp posts no event 7 (log 91), the host's access ends the leases of the line and its own hold (logs 73, 37), and BAR2 reaches
host pages and its writes are logged (log 74).

R51, R57, R109 and R177: a host snoop takes every device copy of a host line, or leaves shared ones, and ends the leases on it;
the host's request for a device line takes every device copy and lease and the host holds the line, but for a window's; the
returned line is held no more, and a strand that waited for it issues again. No byte changes. That both snoops end a lease, and the
strand's wait, are the model's (logs 73, 37). -/
def Obligations.HostAccessesReachDeviceMemory : Prop :=
  (∀ (fn off len w : Nat) (op : HostAtomic) (data : List Byte) (v cmp : BitVec 64) (t : Trans) (x : Nat) (s : State),
    let within (n : Nat) : Prop := 0 < n ∧ off + n ≤ 2 ^ 44 ∧ off % 4096 + n ≤ 4096
    let found (wr : Bool) : Except WalkFail Trans := walk2 s fn off (if wr then .write else .read)
    let mapped (n : Nat) (wr : Bool) : Prop := within n ∧ found wr = .ok t
    let unmapped (n : Nat) (wr : Bool) : Prop := 2 ^ 44 < off + n ∨ (within n ∧ ∃ e, found wr = .error e ∧ e.mac = none)
    let fails (n : Nat) (wr : Bool) : Option Nat := s.lineFails t.mtype (t.at off) n wr
    let broken (n : Nat) (wr : Bool) (l : Nat) : Prop :=
      (mapped n wr ∧ fails n wr = some l) ∨ (within n ∧ ∃ e, found wr = .error e ∧ e.mac = some l)
    let posts (u : State) : State := u.event 0 7 (off % 2 ^ 44 + fn % 64 * 2 ^ 44)
    let ones : State := { s with answer := List.replicate len 0xFF }
    let aborts (u : State) : Prop := exec (.hostAtomicop fn off w op v cmp) s = .next { u with answer := [], answerStatus := 2 }
    let clean : Prop := s.cleanPage fn t = true
    let gone (u : State) (n : Nat) : Prop := ∀ b, b < n → s.servedHome t (lineKey t.mtype (t.at off + b)) = false →
      (∀ d, d < 4 → (u.dirLine (lineKey t.mtype (t.at off + b))).copy d = none) ∧
      (u.dirLine (lineKey t.mtype (t.at off + b))).hostHolds = false ∧
      ∀ c, (u.core c).strand.lease ≠ some (lineKey t.mtype (t.at off + b))
    let old := ofBytes (s.readPa .dev (t.at off) w)
    let new : Option Nat := match op with
      | .fetchAdd => some ((old + v.toNat) % 2 ^ (8 * w))
      | .swap => some (v.toNat % 2 ^ (8 * w))
      | .cas => if old = cmp.toNat % 2 ^ (8 * w) then some (v.toNat % 2 ^ (8 * w)) else none
    (unmapped len false → exec (.hostBar2Read fn off len) s = .next (posts ones)) ∧
    (mapped len false → fails len false = none → ∃ u : State, exec (.hostBar2Read fn off len) s = .next u ∧
      u.answer = s.readPa t.mtype (t.at off) len ∧ SameBytes s u ∧ u.cores = s.cores) ∧
    (broken len false x → exec (.hostBar2Read fn off len) s = .next (ones.integrityFail fn (64 * x) none)) ∧
    (unmapped data.length true → exec (.hostBar2Write fn off data) s = .next (posts s)) ∧
    (broken data.length true x →
      exec (.hostBar2Write fn off data) s = .next (s.integrityFail fn (64 * x) none)) ∧
    (mapped data.length true → fails data.length true = none → ∃ u : State, exec (.hostBar2Write fn off data) s = .next u ∧
      gone u data.length ∧ (¬clean → StoredAt s u t.mtype (t.at off) data) ∧
      (clean → (s.fn fn).dlog.full = false → (u.fn fn).dlog.tail = ((s.fn fn).dlog.tail + 1) % 2 ^ (s.fn fn).dlog.log2n) ∧
      (clean → (s.fn fn).dlog.full = true → (u.fn fn).dlog.lost = true)) ∧
    (w ≠ 4 → w ≠ 8 → exec (.hostAtomicop fn off w op v cmp) s = .next { s with answer := [], answerStatus := 1 }) ∧
    (w = 4 ∨ w = 8 →
      (off % w ≠ 0 → aborts s) ∧
      (off % w = 0 → unmapped w true → aborts (posts s)) ∧
      (off % w = 0 → mapped w true → t.mtype ≠ .dev → aborts s) ∧
      (off % w = 0 → broken w true x → aborts (s.integrityFail fn (64 * x) none)) ∧
      (off % w = 0 → mapped w true → t.mtype = .dev → fails w true = none → ∃ u : State,
        exec (.hostAtomicop fn off w op v cmp) s = .next u ∧ u.answer = toBytes w old ∧ u.answerStatus = 0 ∧ gone u 1 ∧
        (¬clean → match new with
          | some n => StoredAt s u .dev (t.at off) (toBytes w n)
          | none => SameMem s u)))) ∧
  (∀ (addr dpa : Nat) (s : State),
    let k := 2 ^ 60 + addr / 64
    let d := dpa / 64
    let window : Prop := secondTier dpa = false ∧ (s.windowOf (frameOf dpa)).isSome = true
    let becomes (i : Instr) (key : Nat) (P : Line → Prop) : Prop := ∃ t : State, exec i s = .next t ∧ P (t.dirLine key) ∧
      (∀ j, j ≠ key → t.dirLine j = s.dirLine j) ∧ (∀ c, (t.core c).strand.lease ≠ some key) ∧ SameBytes s t ∧
      ∀ c r, (t.core c).strand.get r = (s.core c).strand.get r
    let none' (l : Line) : Prop := ∀ c, c < 4 → l.copy c = none
    becomes (.hostSnoop addr true) k (fun l => none' l ∧ l.hostHolds = false) ∧
    becomes (.hostSnoop addr false) k (fun l => l = { s.dirLine k with
      l2 := (s.dirLine k).l2.map (fun c => { c with st := .s }), l1 := (s.dirLine k).l1.map (fun x => { x with st := .s })
      cxl := if (s.dirLine k).l2 = [] then none else some .s }) ∧
    (window → exec (.hostOwnershipRequest dpa) s = .next s) ∧
    (¬window → becomes (.hostOwnershipRequest dpa) d (fun l => none' l ∧ l.hostHolds = true)) ∧
    (∃ t : State, exec (.hostLineReturn dpa) s = .next t ∧ t.dirLine d = { s.dirLine d with hostHolds := false } ∧
      (∀ j, j ≠ d → t.dirLine j = s.dirLine j) ∧ SameBytes s t ∧
      ∀ c, (s.core c).strand.status = .waitLine (dpa / 64 * 64) → (t.core c).strand = { (s.core c).strand with
        status := .running }))

/-! ## Fabric -/

/-- R30, R32, R39 and R40: the 256 bytes of a flit that cannot be corrected, or has a reserved field, are discarded, counted and
asked for again; one in order acknowledges the sender's flits, returns its credits and is taken: the last data flit of a packet
hands it to the receiver, a retry request resends from the flit after its ACKSEQ on; a copy of a flit received before is
dropped, a gap asked for again once. A retrained port resends its buffer, a port that fails to is retired with event 3 and
leaves every route; a transfer with a packet there and no other port ends with PORT_LOST. That a retry request names the flit
after its ACKSEQ and is heeded after a gap, and that a lost transfer ends whole, are the model's choices (logs 29, 31).

R29 and R30, Tables 3-1 and 3-2: the 256 bytes of a flit are its header, the 228 bytes of its body, a CRC-32 of both and 16 bytes
of parity; every field of the header is read back at every value that its width admits. The CRC's polynomial and the code's
field are the model's (log 81).

R16 and R17: traffic between the dies of a diagonal pair goes 0→1→3, 3→2→0, 1→0→2 and 2→3→1; a retired link between two dies
that a link joins carries no more traffic once no request between its dies is outstanding (a word that an agent holds or that
waits for it, a fill that is pending), its two dies reach each other by the three other links, and a diagonal pair whose
route used it takes the other one. That a second retirement changes nothing of these routes is the model's (log 87). -/
def Obligations.LinksCarryFlitsInOrder : Prop :=
  (∀ (port seq : Nat) (raw : List Byte) (f : Flit) (y : Transfer) (p : Sent) (s : State),
    let q := s.port port
    let on : Prop := q.retired = false ∧ s.config.fabricOn = true ∧ port < 36
    let plain : Prop := on ∧ readFlit raw = some (f, false)
    let free : Prop := q.retraining = false ∧ q.txq = []
    let room : Prop := free ∧ q.replay.length < 1024
    let key := f.crvc * 64 + f.vftag
    let k := f.vc * 64 + f.vftag
    let bs := sget [] q.assembly k ++ f.body
    let need := 32 + ofBytes ((bs.drop 16).take 2)
    let again : Flit := { vc := 7, type := 2, seq := q.txSeq, ackSeq := (q.rxSeq + 4095) % 4096 }
    let asks (t : State) : Prop := t.fabric.rx = s.fabric.rx ∧ t.fabric.wire = s.fabric.wire ++ [(port, again)] ∧
      t.port port = { q with rxLost := true, txSeq := (q.txSeq + 1) % 4096, replay := q.replay ++ [again] }
    let behind := (q.rxSeq + 4096 - f.seq) % 4096
    let bank (u : State) : Bank := sget {} u.banks (16 * (port / 9) + 15)
    let gives (P : State → Prop) : Prop := ∃ t : State, exec (.flitReceive port raw) s = .next t ∧ P t
    let resent (l : List Flit) (n : Nat) : List (Nat × Flit) := (l.dropWhile (fun x => decide (x.seq ≠ n))).map (fun x => (port, x))
    (¬on → exec (.flitReceive port raw) s = .next s) ∧
    (on → readFlit raw = none → gives (fun t => t.fabric.rx = s.fabric.rx ∧
      (bank t).uec = (if (bank s).uec = 0xFFFFFFFF then 0xFFFFFFFF else (bank s).uec + 1) ∧ (room → asks t))) ∧
    (on → readFlit raw = some (f, true) → gives (fun t =>
      (bank t).ce = (if (bank s).ce = 0xFFFFFFFF then 0xFFFFFFFF else (bank s).ce + 1))) ∧
    (plain → free → f.seq = q.rxSeq → gives (fun t => (t.port port).rxSeq = (q.rxSeq + 1) % 4096 ∧ (t.port port).rxLost = false ∧
      (t.port port).credit key = q.credit key + f.crcnt ∧
      (∀ a x b, q.replay = a ++ x :: b → x.seq = f.ackSeq → (∀ z ∈ a, z.seq ≠ f.ackSeq) →
        ∃ l, (t.port port).replay = b ++ l ∧ (f.type ≠ 0 → l = [])) ∧
      (f.type = 1 → t.fabric.rx = s.fabric.rx ∧ t.fabric.wire = s.fabric.wire) ∧
      (f.type = 2 → t.fabric.rx = s.fabric.rx ∧
        t.fabric.wire = s.fabric.wire ++ resent (t.port port).replay ((f.ackSeq + 1) % 4096)) ∧
      (f.type = 0 → sget [] (t.port port).assembly k = (if need ≤ bs.length then [] else bs) ∧
        t.fabric.rx = (if need ≤ bs.length then
          s.fabric.rx ++ [{ port := port, vc := f.vc, vftag := f.vftag, pkt := packetOf (bs.take need) }] else s.fabric.rx)))) ∧
    (plain → f.seq ≠ q.rxSeq → q.rxSeq < 4096 →
      (behind ≤ 2048 → exec (.flitReceive port raw) s = .next s) ∧
      (2048 < behind → q.rxLost = true → f.type ≠ 2 → exec (.flitReceive port raw) s = .next s) ∧
      (2048 < behind → q.rxLost = true → f.type = 2 → free → gives (fun t => t.fabric.rx = s.fabric.rx ∧
        t.fabric.wire = s.fabric.wire ++ resent q.replay ((f.ackSeq + 1) % 4096) ∧ (t.port port).rxSeq = q.rxSeq)) ∧
      (2048 < behind → q.rxLost = false → f.type ≠ 2 → room → gives asks)) ∧
    (q.retired = false → q.retraining = false → ∃ t : State, exec (.retryRequestReceive port seq) s = .next t ∧
      t.fabric.wire = s.fabric.wire ++ resent q.replay seq ∧
      t.port port = { q with retrySeq := seq, retries := if q.retrySeq = seq then q.retries + 1 else 1 }) ∧
    (q.retired = true ∨ q.retraining = true → exec (.retryRequestReceive port seq) s = .next s) ∧
    (q.retired = false → ∃ t : State, exec (.portRetrain port) s = .next t ∧ t.port port = { q with retraining := true } ∧
      (∀ j, j ≠ port → t.port j = s.port j) ∧ t.fabric.wire = s.fabric.wire ∧ { t with fabric := s.fabric } = s) ∧
    (q.retired = true → exec (.portRetrain port) s = .next s) ∧
    (q.retraining = false ∨ q.retired = true → ∀ ok, exec (.portRetrainDone port ok) s = .next s) ∧
    (q.retraining = true → q.retired = false →
      (q.txq = [] → ∃ t : State, exec (.portRetrainDone port true) s = .next t ∧
        t.port port = { q with retraining := false, retries := 0 } ∧
        t.fabric.wire = s.fabric.wire ++ q.replay.map (fun x => (port, x))) ∧
      (port < 36 → s.fabric.transfers = [] → ∃ u : State, exec (.portRetrainDone port false) s = .next (u.event 0 3 port) ∧
        u.port port = { q with retired := true, retraining := false, txq := [], replay := [], assembly := [] } ∧
        ∀ peer, (sget 0 u.fabric.routes peer).getLsbD port = false) ∧
      (port < 36 → ssorted s.fabric.routes = true → s.fabric.transfers = [y] → y.packets = [p] → p.answered = false → p.port = port →
        (∀ j ∈ s.portsTo y.fn y.peer, j = port) → ∃ t : State, exec (.portRetrainDone port false) s = .next t ∧
          t.fabric.transfers = [{ y with
            packets := [{ p with answered := true }], status := some (min 6 (y.status.getD 6)), done := true }]))) ∧
  (∀ (f : Flit), f.vc < 8 → f.vftag < 64 → f.type < 8 → f.seq < 4096 → f.ackSeq < 4096 → f.crvc < 8 → f.crcnt < 256 →
    f.rsv < 2 ^ 17 → f.body.length = 228 →
      flitOf (f.bytes.take 236) = f ∧ f.bytes.length = 256 ∧
      (f.bytes.drop 8).take 228 = f.body ∧ (f.bytes.drop 236).take 4 = toBytes 4 (crc32 (f.bytes.take 236)) ∧
      ofBytes (f.bytes.take 8) = f.vc + f.vftag * 2 ^ 3 + f.type * 2 ^ 9 + f.seq * 2 ^ 12 + f.ackSeq * 2 ^ 24 + f.crvc * 2 ^ 36
        + f.crcnt * 2 ^ 39 + f.rsv * 2 ^ 47) ∧
  (∀ (a b : Nat) (s : State), a < 4 → b < 4 → s.movingLinks = [] →
    let up : Prop := a ≠ b ∧ a + b ≠ 3 ∧ (a, b) ∉ s.reroutedLinks ∧ (b, a) ∉ s.reroutedLinks
    let u : State := { s with reroutedLinks := s.reroutedLinks ++ [(a, b)] }
    let quiet : Prop := (∀ e ∈ s.agents, e.2.waiting = [] ∧ e.2.holds = []) ∧ ∀ e ∈ s.lines, ∀ x ∈ e.2.l1, x.fillBy ≤ s.cycle
    let busy : Prop := (∃ e ∈ s.agents, ∃ h ∈ e.2.holds, dieOf h.core = a ∧ e.1 / 16 = b) ∨
      ∃ e ∈ s.lines, ∃ x ∈ e.2.l1, s.cycle < x.fillBy ∧ dieOf x.core = a ∧ keyHome e.1 = b
    (up → quiet → exec (.routeChange a b) s = .next u) ∧
    (up → busy → exec (.routeChange a b) s = .next { s with movingLinks := [(a, b)] }) ∧
    (up → s.hops a b = 1 ∧ u.hops a b = 3 ∧ u.hops b a = 3) ∧
    (¬up → exec (.routeChange a b) s = .next s) ∧
    (s.reroutedLinks = [] → s.route 0 3 = [0, 1, 3] ∧ s.route 3 0 = [3, 2, 0] ∧ s.route 1 2 = [1, 0, 2] ∧ s.route 2 1 = [2, 3, 1] ∧
      (up → s.route a b = [a, b] ∧
        ∀ i, i ∈ [0, 1, 2, 3] → u.route i (3 - i) = (if (a = i ∧ b = i ^^^ 1) ∨ (b = i ∧ a = i ^^^ 1) ∨
          (a = i ^^^ 1 ∧ b = 3 - i) ∨ (b = i ^^^ 1 ∧ a = 3 - i) then [i, 3 - (i ^^^ 1), 3 - i] else [i, i ^^^ 1, 3 - i]))))

/-- R34 to R37: a WRITE, SIGNAL or REDUCE packet that the target's export entry does not admit is answered with a NAK of its status
and writes nothing; a WRITE that lands stores its bytes, counts for its transfer and is answered with an ACK, waits on
the fault where a page is not there, and is refused where a line fails its check (R106); a SIGNAL is held until each of the
COUNT packets has landed (in a reduction: has been summed) or been refused, then adds DELTA, or takes the lowest status of the
refused ones, and is answered; an ACK or a NAK answers its packet, whose word's progress counts the elements answered. That
answers carry COUNT of a SIGNAL (log 29), the order of the refusals (log 18), the tag that an answer carries as DSTFN (log 31) and
what a resent SIGNAL meets (log 30) are the model's choices.

R34 and R38: a REDUCE packet with a good contributor count, index and format forms its slot, another is answered SLOT_MISMATCH,
and one that disagrees with its slot in count or format spoils it. With every contribution there the slot's sum in port order,
each addition rounded to FP32 and the last to the payload format, is written, its flags go to CTXFLAGS of the region's context,
and the slot is free; it waits on a fault of the pages; before that nothing happens. A packet that needs a slot where all 256 of
its die are held waits in its buffer (log 30), and a SLOT above 255, a count outside 2 to 16 and a format that is not one of a
reduction are SLOT_MISMATCH (log 100): the model's choices. -/
def Obligations.PacketsAreCheckedAndReduced : Prop :=
  (∀ (port vftag va from' tag d st' dpa : Nat) (p : Packet) (tr : Trans) (i : Incoming) (z : RxPacket) (y : Transfer) (q : Sent)
    (w : WalkFail) (s : State),
    let u := (s.takeRx port vftag p).1
    let x := (s.takeRx port vftag p).2
    let f := p.dstFn.toNat % 64
    let peer := p.srcPeer.toNat % 1024
    let e := match x.entry with | some e => e | none => s.exportEntry f p.region.toNat
    let badHeader : Bool := decide (p.type = 0 ∨ 5 < p.type ∨ p.rsv ≠ 0 ∨ 1024 ≤ p.srcPeer.toNat ∨ 64 ≤ p.dstFn.toNat ∨
      p.status ≠ 0 ∨ (p.type = 2 ∧ 65536 ≤ p.semid.toNat) ∨ (p.type ≠ 2 ∧ p.semid ≠ 0))
    let may : Bool := if p.type = 1 then e.write else if p.type = 2 then e.signal else e.reduce
    let refused : Option Nat :=
      if badHeader then some 3
      else if e.valid = false ∨ (peer, vftag) ∉ e.pairs then some 2
      else if may = false then some 4
      else if e.length < p.offset.toNat + p.len.toNat then some 3
      else if p.type = 2 ∧ (p.semid.toNat < e.semBase ∨ e.semBase + e.semCnt ≤ p.semid.toNat) then some 3
      else none
    let nak (v : State) (x : RxPacket) (st : Nat) : State := ((v.refuseOffset p st).answerPacket x.port x.vftag p st).returnCredit x
    let rejects (i : Instr) : Prop := ∀ st, refused = some st → exec i s = .next (nak u { x with pkt := p } st)
    let answer (st : Nat) : RxPacket := { port := 36, vc := 5, vftag := f, pkt := {
      type := if st = 0 then 4 else 5, srcPeer := BitVec.ofNat 16 s.fabric.peer, dstFn := BitVec.ofNat 8 vftag
      status := BitVec.ofNat 8 st, xfer := p.xfer, region := p.region, offset := p.offset
      count := if p.type = 2 then p.count else 0 } }
    let held : RxPacket := { x with entry := some e }
    let pages := u.pagesFor f e.ctx 20 (e.base + p.offset.toNat) p.len.toNat
    let write : Instr := .fabricWritePacket port vftag p
    let signal : Instr := .fabricSignalPacket port vftag p
    let past := (u.incomingOf peer p.xfer.toNat).bind Incoming.answered
    let apply : Instr := .fabricSignalApply from' tag
    let e' := match z.entry with | some e => e | none => s.exportEntry (z.pkt.dstFn.toNat % 64) z.pkt.region.toNat
    let due : Prop := z.pkt.count.toNat ≤ (if i.reduce then i.summed.length else i.landed.length) + i.refused.length
    let key := d * 65536 + z.pkt.semid.toNat
    let sum : Int := ((s.sem key).toNat : Int) + z.pkt.delta.toInt
    let sat : Nat := if sum < 0 then 0 else if 0xFFFFFFFF < sum then 0xFFFFFFFF else sum.toNat
    let answered (t : State) (st : Nat) : Prop := exec apply s = .next (t.answerPacket z.port z.vftag z.pkt st) ∧
      ∃ j, t.incomingOf from' tag = some j ∧ j.signal = none ∧ j.answered = some st
    let own : Prop := s.fabric.transfers = [y] ∧ y.xfer = p.xfer.toNat ∧ y.fn = f ∧ y.peer = peer ∧ y.core < 256 ∧
      y.packets = [q] ∧ q.answered = false ∧ q.pkt.offset = p.offset ∧ (if q.pkt.type = 2 then q.pkt.count else 0) = p.count
    let m := s.mark y.core y.ring y.seq
    let answers (i : Instr) (st : Nat) : Prop := own → ∃ t : State, exec i s = .next t ∧
      t.fabric.transfers = [{ y with
        packets := [{ q with answered := true }], status := if st = 0 then y.status else some (min st (y.status.getD st)) }] ∧
      t.mark y.core y.ring y.seq = q.elems % 2 ^ 62 + (if markAwt m then 2 ^ 62 else 0) + (if markDone m then 2 ^ 63 else 0) ∧
      (y.done = true → ((s.core y.core).ring y.ring).wait = .fabric → ((t.core y.core).ring y.ring).wait = .none) ∧ SameMem s t
    rejects write ∧ rejects signal ∧ rejects (.fabricReducePacket port vftag p) ∧
    (∀ st, (u.answerPacket 36 vftag p st).fabric.rx = u.fabric.rx ++ [answer st]) ∧
    (refused = none → pages = .ok [(tr, va, p.payload.length)] → u.cleanPage f tr = false → ∃ t : State, exec write s = .next t ∧
      StoredAt s t tr.mtype (tr.at va) p.payload ∧ (∃ j, t.incomingOf peer p.xfer.toNat = some j ∧ p.offset.toNat ∈ j.landed) ∧
      (port = 36 → t.fabric.rx = u.fabric.rx ++ [answer 0])) ∧
    (refused = none → pages = .error (.walk va .write w) → exec write s =
      .next (u.fault (.packet held) none (if x.port < 36 then x.port / 9 else 0) f e.ctx va .write w).1) ∧
    (refused = none → x.pkt = p → pages = .error (.integrity dpa) →
      exec write s = .next (nak (u.integrityFail f dpa none) held 3)) ∧
    (refused = none → past = none → ∃ t : State, exec signal s = .next t ∧ SameBytes s t ∧
      ∃ j, t.incomingOf peer p.xfer.toNat = some j ∧ j.signal = some held) ∧
    (refused = none → past = some st' → exec signal s = .next ((u.answerPacket port vftag p st').returnCredit x)) ∧
    (s.incomingOf from' tag = some i → i.signal = some z →
      (¬due → exec apply s = .next s) ∧
      (due → i.refused = [] → localDie (some ((s.fn i.fn).guest e'.semDie)) = some d → ∃ t : State,
        SemBecomes { s with fabric := t.fabric } t key (BitVec.ofNat 32 sat) ∧ answered t 0) ∧
      (due → st' ∈ i.refused.map Prod.snd → (∀ r ∈ i.refused, st' ≤ r.2) → ∃ t : State,
        { t with fabric := s.fabric } = s ∧ answered t st')) ∧
    answers (.fabricAck port vftag p) 0 ∧ answers (.fabricNak port vftag p) p.status.toNat) ∧
  (∀ (port vftag fn die region slot va : Nat) (p : Packet) (tr : Trans) (r : RedSlot) (c1 c2 : Contribution) (a1 a2 : Part) (g : Fmt)
    (pages : List (Trans × Nat × Nat)) (acc : AccKind) (w : WalkFail) (s : State),
    let u := (s.takeRx port vftag p).1
    let x := (s.takeRx port vftag p).2
    let f := p.dstFn.toNat % 64
    let n := p.count.toNat % 256
    let ix := p.count.toNat / 256 % 256
    let peer := p.srcPeer.toNat % 1024
    let e := match x.entry with | some e => e | none => s.exportEntry f p.region.toNat
    let i : Instr := .fabricReducePacket port vftag p
    let good : Prop := p.slot.toNat ≤ 255 ∧ 2 ≤ n ∧ n ≤ 16 ∧ ix < n ∧ (reduceFmt p.fmt.toNat).isSome = true
    let whole : Instr := .reductionSlotComplete fn die region slot
    let sum := finish .f32 .rne false 0 (vadd (g.val (ofBytes a1.bytes)) (g.val (ofBytes a2.bytes)))
    let out := finish g .rne false 0 (Fmt.f32.val sum.1, sum.2)
    let complete : Prop := r.dead = false ∧ r.fid = none ∧ r.n = 2 ∧ (r.contribs = [c1, c2] ∨ r.contribs = [c2, c1]) ∧
      c1.parts = [a1] ∧ c2.parts = [a2] ∧
      (∀ c ∈ [c1, c2], c.peer ≠ s.fabric.peer ∧ ∀ i z, s.incomingOf c.peer c.xfer = some i → i.signal = some z →
        z.pkt.count.toNat ≤ i.landed.length) ∧
      a1.port < a2.port ∧ a1.offset = a2.offset ∧ a1.offset < 2 ^ 48 ∧ a1.bytes.length = g.bytes ∧ a2.bytes.length = g.bytes ∧
      reduceFmt r.fmt = some g
    let target := s.pagesFor fn r.entry.ctx 300 (r.entry.base + a1.offset) g.bytes
    (e.refusal vftag p = none → ¬good → x.pkt = p →
      exec i s = .next (((u.refuseOffset p 5).answerPacket x.port x.vftag p 5).returnCredit x)) ∧
    (e.refusal vftag p = none → good → u.incomingOf peer p.xfer.toNat = none →
      (p.type = 3 → x.pkt = p → u.redSlot f p.region.toNat p.slot.toNat = none →
        256 ≤ ((u.fn f).redSlots.filter (fun r => decide (r.die = (if x.port < 36 then x.port / 9 else 0)) && !r.dead)).length →
        exec i s = .next { u with fabric := { u.fabric with held := u.fabric.held ++ [{ x with entry := some e }] } }) ∧
      (u.redSlot f p.region.toNat p.slot.toNat = none → (u.fn f).redSlots.length < 256 →
        u.pagesFor f e.ctx 20 (e.base + p.offset.toNat) p.len.toNat = .ok pages → ∃ t : State, exec i s = .next t ∧ SameBytes s t ∧
          t.redSlot f p.region.toNat p.slot.toNat = some {
            region := p.region.toNat, slot := p.slot.toNat, die := if port < 36 then port / 9 else 0, n := n, fmt := p.fmt.toNat
            entry := e
            contribs := [{ index := ix, peer := peer, xfer := p.xfer.toNat
                           parts := [{ offset := p.offset.toNat, bytes := p.payload, port := port, vftag := vftag }] }] }) ∧
      (u.redSlot f p.region.toNat p.slot.toNat = some r → r.dead = false → r.region = p.region.toNat → r.slot = p.slot.toNat →
        (r.n ≠ n ∨ r.fmt ≠ p.fmt.toNat) → ∃ t : State, exec i s = .next t ∧ SameBytes s t ∧
          (t.redSlot f p.region.toNat p.slot.toNat).map RedSlot.dead = some true)) ∧
    (s.redSlot fn region slot = some r →
      (r.contribs.length < r.n → exec whole s = .next s) ∧
      (complete → target = .ok [(tr, va, g.bytes)] → s.cleanPage fn tr = false → ∃ v t : State,
        StoredAt s v tr.mtype (tr.at va) (toBytes g.bytes out.1) ∧ exec whole s = .next t ∧
        SameMem (v.orCtxFlags r.entry.ctx out.2) t ∧ t.redSlot fn region slot = none) ∧
      (complete → target = .error (.walk va acc w) →
        let z := s.fault (.slot fn region slot) none r.die fn r.entry.ctx va acc w
        exec whole s = .next (z.1.putSlot fn { r with fid := some z.2 }))))

/-! ## Functions and admin commands -/

/-- R41, R55, R92: a function-level reset of a VF leaves it no queue, export, reduction slot, node, gang, context, outstanding fault,
waiting command or fabric traffic but the answers that it owes; its partition, guest-die table and stage-2 root stay; other functions keep their exports and partitions. The
PF's own is not described, and changes nothing. What stays and what is cleared beyond R92's list is the model's choice (logs 66,
31). -/
def Obligations.FunctionLevelResetsClearTheFunction : Prop :=
  ∀ (fn : Nat) (s : State),
    ((fn = 0 ∨ 63 < fn) → exec (.functionLevelReset fn) s = .next s) ∧
    (0 < fn → fn ≤ 63 → ∃ t : State, exec (.functionLevelReset fn) s = .next t ∧
      (t.fn fn).queues = [] ∧ (t.fn fn).exports = [] ∧ (t.fn fn).redSlots = [] ∧ (t.fn fn).decs = [] ∧
      (t.fn fn).part = (s.fn fn).part ∧ (t.fn fn).guestDies = (s.fn fn).guestDies ∧ (t.fn fn).s2root = (s.fn fn).s2root ∧
      (∀ x ∈ t.nodes, x.fn ≠ fn) ∧ (∀ x ∈ t.gangs, x.fn ≠ fn) ∧ (∀ x ∈ t.ctxs, x.2.fn ≠ fn) ∧ (∀ x ∈ t.faults, x.fn ≠ fn) ∧
      (∀ x ∈ t.fabric.transfers, x.fn ≠ fn) ∧ (∀ x ∈ t.fabric.incoming, x.fn ≠ fn) ∧
      (∀ x ∈ t.fabric.ports, ∀ y ∈ x.2.txq, y.flit.type = 0 → y.flit.vftag = fn → y.flit.vc = 5) ∧
      (∀ x ∈ t.pending, x.cmd.fn ≠ fn) ∧
      ∀ g, g ≠ fn → (t.fn g).exports = (s.fn g).exports ∧ (t.fn g).part = (s.fn g).part)

/-- R33, R50, R52, R93 and R94: CTX_CREATE makes the lowest free context of the operands and answers its CTXID; CTX_DESTROY
withdraws the exports that name the context and completes once its nodes have; EXPORT_SET replaces or withdraws one entry, and
completes once nothing is left that was checked against the old one; CTX_SWITCH stops the outgoing context's placement and admits the incoming one once the outgoing one holds no core;
INVAL_RANGE leaves no translation and no handle of the range, and completes once no AtomicOp in it is outstanding; a bad operand gives STATUS 3, a command that cannot begin 4, a
reserved opcode 1, a VF's hypervisor opcode 2. The model's choices: which CTXID is given (log 22), what a misaligned area, the low
bits of a root, and a context that is not the function's or is being destroyed do (logs 69, 30), and when EXPORT_SET completes
(log 78). -/
def Obligations.ContextCommandsActOnTheirContext : Prop :=
  ∀ (cmd : AdminCmd) (e : Export) (s : State),
    let fn := cmd.fn
    let stops (i : Instr) (st : Nat) : Prop := exec i s = .next (s.complete cmd st 0)
    let done (i : Instr) (r : Nat) (P : State → Prop) : Prop := ∃ u : State, P u ∧ exec i s = .next (u.complete cmd 0 r)
    let owned (x : Nat) : Prop := x < 4096 ∧ (s.ctx x).live = true ∧ (s.ctx x).fn = fn
    let weight := arg cmd 8 2
    let create : Instr := .ctxCreate cmd
    let bad : Prop := 256 < weight ∨ arg cmd 24 8 % 0x10000 ≠ 0 ∨ arg cmd 32 8 % 0x10000 ≠ 0 ∨ arg cmd 40 2 = 0 ∨ 4096 < arg cmd 40 2
    let x := arg cmd 8 2
    let y := arg cmd 10 2
    let r := arg cmd 8 1
    let flags := arg cmd 9 1
    let va := arg cmd 16 8
    let len := arg cmd 24 8
    let set : Instr := .exportSet cmd
    let pending : Pending := { cmd := cmd, begun := true, tick := s.tick }
    let replaces (z : Export) : Prop := ∃ u : State, u.exportEntry fn r = z ∧
      (∀ k, k ≠ r → u.exportEntry fn k = s.exportEntry fn k) ∧
      (u.oldChecks fn r s.tick = true → exec set s = .next { u with pending := u.pending ++ [pending] }) ∧
      (u.oldChecks fn r s.tick = false → done set 0 (fun v => { v with pending := u.pending } = u))
    let away (u : State) : Prop := SameBytes s u ∧ ∀ c,
      (∀ z ∈ (u.core c).tlb, z.fn = fn → z.ctx = x → (u.core c).fn = fn → (u.core c).ctx = x →
        z.tr.base + z.tr.size ≤ va ∨ va + len ≤ z.tr.base) ∧
      ∀ h, (u.core c).fn = fn → (u.core c).ctx = x → ((u.core c).strand.handle h).st = .valid →
        ((u.core c).strand.handle h).tr.base + ((u.core c).strand.handle h).tr.size ≤ va ∨
          va + len ≤ ((u.core c).strand.handle h).tr.base
    let atoms : Prop := ∃ a ∈ s.hostsAtoms, (s.core a.core).fn = fn ∧ (s.core a.core).ctx = x ∧ a.base < va + len ∧ va < a.base + a.size
    (bad → stops create 3) ∧
    (¬bad → (∀ n, n < 4096 → (s.ctx n).live = true) → stops create 4) ∧
    (∀ n, ¬bad → n < 4096 → (s.ctx n).live = false → (∀ m, m < n → (s.ctx m).live = true) → done create n (fun u =>
      u.ctx n = { live := true, fn := fn, weight := if weight = 0 then 16 else weight, s1root := va / 4096 * 4096
                  waitVa := arg cmd 24 8 % 2 ^ 57, saveVa := arg cmd 32 8 % 2 ^ 57, slots := arg cmd 40 2 } ∧
      (∀ m, m ≠ n → u.ctx m = s.ctx m) ∧ { u with ctxs := s.ctxs } = s)) ∧
    (¬owned x → stops (.ctxDestroy cmd) 3) ∧ (owned x → (s.ctx x).destroying ≠ none → stops (.ctxDestroy cmd) 4) ∧
    (owned x → (s.ctx x).destroying = none → ∃ t : State, exec (.ctxDestroy cmd) s = .next t ∧
      (∀ k, (t.exportEntry fn k).valid = true → (t.exportEntry fn k).ctx ≠ x) ∧
      ((∃ n ∈ s.nodes, n.launch.ctx = x) → (t.ctx x) = { s.ctx x with destroying := some cmd.cid }) ∧
      ((∀ n ∈ s.nodes, n.launch.ctx ≠ x) → (t.ctx x).live = false)) ∧
    (flags % 2 = 0 → arg cmd 9 55 ≠ 0 → stops set 3) ∧
    (flags % 2 = 0 → arg cmd 9 55 = 0 → replaces {}) ∧
    (flags % 2 = 1 → (16 ≤ flags ∨ ¬owned (arg cmd 10 2) ∨ len = 0 ∨ 2 ^ 57 < va + len ∨ 16 < arg cmd 13 1 ∨ arg cmd 14 2 ≠ 0 ∨
      arg cmd 36 4 ≠ 0 ∨ arg cmd 48 16 ≠ 0 ∨ (s.ctx (arg cmd 10 2)).destroying ≠ none) → stops set 3) ∧
    (flags % 2 = 1 → s.exportOf cmd = none → ∃ l, exec set s = .next (State.complete { s with broken := s.broken ++ l } cmd 3 0)) ∧
    (flags % 2 = 1 → s.exportOf cmd = some e → replaces { e with gen := s.tick + 1 } ∧
      e.valid = true ∧ e.write = nbit flags 1 ∧ e.reduce = nbit flags 2 ∧ e.signal = nbit flags 3 ∧ e.ctx = arg cmd 10 2 ∧
      e.base = va ∧ e.length = len ∧ e.semDie = arg cmd 12 1 ∧ e.semBase = arg cmd 32 2 ∧ e.semCnt = arg cmd 34 2 ∧
      e.pairs.length = arg cmd 13 1) ∧
    ((¬owned x ∨ ¬owned y ∨ x = y) → stops (.ctxSwitch cmd) 3) ∧
    (owned x → owned y → x ≠ y → ((s.fn fn).switching ≠ none ∨ s.hyperBusy fn = true) → stops (.ctxSwitch cmd) 4) ∧
    (owned x → owned y → x ≠ y → (s.fn fn).switching = none → s.hyperBusy fn = false →
      ((s.ctx x).admitted = false ∨ ∀ g ∈ s.gangs, g.ctx = x → g.cores = []) → done (.ctxSwitch cmd) 0 (fun u =>
        u.ctx x = { s.ctx x with admitted := false } ∧ u.ctx y = { s.ctx y with admitted := true } ∧
        (u.fn fn).switching = none ∧ (∀ n, n ≠ x → n ≠ y → u.ctx n = s.ctx n) ∧ SameBytes s u)) ∧
    (len = 0 → stops (.invalRange cmd) 0) ∧ (len ≠ 0 → ¬owned x → stops (.invalRange cmd) 3) ∧
    (len ≠ 0 → owned x → ¬atoms → done (.invalRange cmd) 0 away) ∧
    (len ≠ 0 → owned x → atoms → ∃ u : State, exec (.invalRange cmd) s = .next u ∧ away u ∧
      u.pending = s.pending ++ [{ cmd := cmd, begun := true }]) ∧
    exec (.adminReservedOpcode cmd) s =
      .next (s.complete cmd (if fn ≠ 0 ∧ 0x40 ≤ cmd.opc.toNat ∧ cmd.opc.toNat < 0x80 then 2 else 1) 0)

/-- R76 to R78, R92, R97 and R105: PART_SET puts the descriptor's partition in force, unless it breaks R77 or R97 (STATUS 3) or
another PART_SET of the function is in progress (4), and waits while a context switch of it is (R94; that it then answers 4 is the
model's reading, log 67); a descriptor that cannot be read gives 3 (on a failing line an integrity failure too, R106); with VALID = 0 the function owns nothing; the groups that join or leave read
as zero. PART_QUERY writes the descriptor in force with its share, groups, L2 lines charged and shed bit. The order of the
refusals is the model's (log 68). -/
def Obligations.PartitionCommandsSetAndQuery : Prop :=
  ∀ (cmd : AdminCmd) (b : List Byte) (t : State) (s : State),
    let f := arg cmd 8 2
    let stops (i : Instr) (st : Nat) : Prop := exec i s = .next (s.complete cmd st 0)
    let set : Instr := .partSet cmd
    let query : Instr := .partQuery cmd
    let p := partOf b
    let q : Partition := if p.valid then p else {}
    let busy : Prop := ∃ q ∈ s.pending, q.begun = true ∧ q.cmd.opc = 0x40 ∧ arg q.cmd 8 2 = f
    let notes (i : Instr) : Prop := ∃ l, exec i s = .next (State.complete { s with broken := s.broken ++ l } cmd 3 0)
    let read : Prop := f ≤ 63 ∧ ¬busy ∧ (s.fn f).switching = none ∧ s.gpaRead 0 (arg cmd 16 8) 256 = some b
    let d := s.descBytes f
    cmd.fn = 0 →
    (63 < f → stops set 3 ∧ stops query 3) ∧ (f ≤ 63 → busy → stops set 4) ∧
    (f ≤ 63 → ¬busy → (s.fn f).switching ≠ none →
      exec set s = .next { s with pending := s.pending ++ [{ cmd := cmd, begun := false }] }) ∧
    (f ≤ 63 → ¬busy → (s.fn f).switching = none → s.gpaRead 0 (arg cmd 16 8) 256 = none → notes set) ∧
    (read → ((∃ k, k < 32 ∧ p.clusters.getLsbD k = true ∧ (sget 0 p.tickets k = 0 ∨ 1024 < sget 0 p.tickets k)) ∨
        (∃ k, k < 32 ∧ p.clusters.getLsbD k = false ∧ sget 0 p.tickets k ≠ 0) ∨
        p.clusters &&& s.retiredClusters ≠ 0 ∨ p.pcg &&& s.retiredGroups ≠ 0 ∨ p.agents &&& s.retiredAgents ≠ 0 ∨
        (∃ i, i < 36 ∧ p.ports.getLsbD i = true ∧ (s.port i).retired = true) ∨
        (∃ g, g < 64 ∧ g ≠ f ∧ (s.fn g).part.pcg &&& p.pcg ≠ 0) ∨
        (∃ g k, g < 64 ∧ g ≠ f ∧ k < 4 ∧ (s.fn g).part.way k &&& p.way k ≠ 0) ∨
        (∃ g, g < 192 ∧ p.pcg.getLsbD g = true ∧ p.way (g / 48) = 0) ∨ (p.valid = true ∧ sfind s.keys f = none) ∨
        4 ≤ bytesAt b 0 2 ∨ bytesAt b 7 1 ≠ 0 ∨ bytesAt b 12 4 ≠ 0) → stops set 3) ∧
    (read → descReserved b = false → s.partBad f p = false → (∀ g ∈ s.gangs, g.fn ≠ f) → ∃ u : State,
      exec set s = .next (u.complete cmd 0 0) ∧ (u.fn f).part = q ∧ (u.fn f).shed = false ∧
      (∀ g, g ≠ f → u.fn g = s.fn g) ∧ (∀ a, a < 2 ^ 40 → ((s.fn f).part.pcg ^^^ q.pcg).getLsbD (groupOf (a / 2 ^ 21)) = true →
        mbyte u.mem a = 0) ∧
      ∀ a, (a < 2 ^ 40 → ((s.fn f).part.pcg ^^^ q.pcg).getLsbD (groupOf (a / 2 ^ 21)) = false) → mbyte u.mem a = mbyte s.mem a) ∧
    (f ≤ 63 → s.gpaWrite 0 (arg cmd 16 8) 256 d = none → notes query) ∧
    (f ≤ 63 → s.gpaWrite 0 (arg cmd 16 8) 256 d = some t → exec query s = .next (t.complete cmd 0 0)) ∧
    d.length = 256 ∧ bytesAt d 128 2 = s.share f % 2 ^ 16 ∧ bytesAt d 130 2 = s.groupsOf f % 2 ^ 16 ∧
    (∀ k, k < 4 → bytesAt d (132 + 4 * k) 4 = s.l2Charge f k % 2 ^ 32) ∧ bytesAt d 148 1 = (s.fn f).shed.toNat

/-- R28, R82, R86, R89, R126, R143, R181 and R197: the PF's table commands: each checks its operands (STATUS 3; 4 where it cannot
begin), sets what it names, changes nothing else, and completes. DLOG_ARM completes when the log is full; turning the log off
completes it too. A hypervisor command of a VF gives STATUS 2. Which operands out of range give STATUS 3 (log 71), and that a log's
ring lies in PF memory (log 21), are the model's readings. -/
def Obligations.TableCommandsSetTheirEntry : Prop :=
  ∀ (cmd : AdminCmd) (fn : Nat) (cid : BitVec 16) (s : State),
    let f := arg cmd 8 2
    let x := s.fn f
    let d := x.dlog
    let stops (i : Instr) (st : Nat) : Prop := exec i s = .next (s.complete cmd st 0)
    let sets (i : Instr) (P : Fn → Prop) : Prop := ∃ u : State, exec i s = .next (u.complete cmd 0 0) ∧ P (u.fn f) ∧
      (∀ g, g ≠ f → u.fn g = s.fn g) ∧ { u with fns := s.fns } = s
    let v := arg cmd 12 4
    let e := arg cmd 10 1
    let wrong : Prop := 63 < f ∨ 63 < e ∨ 2 ^ 17 ≤ v ∨ (v / 2 ^ 15 % 4 = 3 ∧ v / 2 ^ 12 % 8 = 0)
    let base := arg cmd 12 2
    let n := arg cmd 14 2
    let clash : Prop := ∃ g, g < 64 ∧ g ≠ f ∧ 0 < n ∧ 0 < (sget (0, 0) (s.fn g).semRange e).2 ∧
      base < (sget (0, 0) (s.fn g).semRange e).1 + (sget (0, 0) (s.fn g).semRange e).2 ∧ (sget (0, 0) (s.fn g).semRange e).1 < base + n
    let noRange : Prop := 63 < f ∨ 3 < e ∨ base < 6144 ∨ 65536 < base + n ∨ clash
    let wide := arg cmd 16 8
    let ring : Prop := 8 ≤ e ∧ e ≤ 20 ∧ wide % 4096 = 0
    let on : Prop := arg cmd 11 1 % 2 = 1
    let head := s.pfVal (d.ring + 8) 4
    let full (h : Nat) : Prop := (d.tail + 1) % 2 ^ d.log2n = h % 2 ^ d.log2n
    let sent : Prop := ∃ t ∈ s.fabric.transfers, t.done = false ∨ ∃ p ∈ t.packets, p.answered = false
    let exports : Prop := ∃ z ∈ s.fns, ∃ y ∈ z.2.exports, y.2.valid = true
    let v1 := ((s.pfPut wide (toBytes 4 0)).pfPut (wide + 16) [0]).pfNote (wide + 8) 4
    let sound : Prop := (s.fn 0).s2root = none ∧ wide + 24 < 2 ^ 48 ∧ s.keyOk 0 0 wide .dev = true ∧ s.lostGroup wide = false ∧
      s.poisoned (wide / 64) = false ∧ (s.page (wide / 4096)).minor 0 < 100 ∧
      ∀ y, s.unitOf wide = some y → ∀ c ∈ s.counters, y.firstPage ≤ c.1 → c.2.key = s.unitKey y
    let noRoute : Prop := s.config.fabricOn = false ∨ 1024 ≤ f ∨ 2 ^ 36 ≤ wide ∨
      ∃ p, p < 36 ∧ wide.testBit p = true ∧ (s.port p).retired = true
    (cmd.fn ≠ 0 → ∀ i ∈ [Instr.partSet cmd, .partQuery cmd, .gdieSet cmd, .dlogSet cmd, .dlogArm cmd, .keyLoad cmd, .winCreate cmd,
      .winDestroy cmd, .t2Assign cmd, .schedSet cmd, .semRange cmd, .s2rootSet cmd, .scopeSet cmd, .fabricPeer cmd, .routeSet cmd,
      .dieReset cmd, .attest cmd, .fieldTest cmd, .inject cmd], stops i 2) ∧
    (cmd.fn = 0 →
      (wrong → stops (.gdieSet cmd) 3) ∧
      (¬wrong → sets (.gdieSet cmd) (fun y => y.guest e = BitVec.ofNat 32 v ∧ (∀ k, k ≠ e → y.guest k = x.guest k) ∧
        { y with guestDies := x.guestDies } = x)) ∧
      ((arg cmd 8 4 < 250 ∨ 16000 < arg cmd 8 4 ∨ v < 5 ∨ 1000 < v) → stops (.schedSet cmd) 3) ∧
      (¬(arg cmd 8 4 < 250 ∨ 16000 < arg cmd 8 4 ∨ v < 5 ∨ 1000 < v) →
        exec (.schedSet cmd) s = .next (State.complete { s with slice := arg cmd 8 4, pdl := v } cmd 0 0)) ∧
      (noRange → stops (.semRange cmd) 3) ∧
      (¬noRange → sets (.semRange cmd) (fun y => sget (0, 0) y.semRange e = (base, n) ∧
        (∀ k, k ≠ e → sget (0, 0) y.semRange k = sget (0, 0) x.semRange k) ∧ { y with semRange := x.semRange } = x)) ∧
      ((63 < f ∨ wide % 4096 ≠ 0) → stops (.s2rootSet cmd) 3) ∧
      (f ≤ 63 → wide % 4096 = 0 → ∃ u : State, exec (.s2rootSet cmd) s = .next (u.complete cmd 0 0) ∧
        u.fn f = { x with s2root := some wide } ∧ (∀ g, g ≠ f → u.fn g = s.fn g) ∧ SameBytes s u ∧
        ∀ c, (u.core c).fn = f → (∀ z ∈ (u.core c).tlb, z.fn ≠ f) ∧ ∀ h, ((u.core c).strand.handle h).st ≠ .valid) ∧
      ((63 < f ∨ 4 ≤ wide) → stops (.scopeSet cmd) 3) ∧
      (f ≤ 63 → wide < 4 → sets (.scopeSet cmd) (fun y => y = { x with winok := wide.testBit 0, sysok := wide.testBit 1 })) ∧
      ((s.config.fabricOn = false ∨ 1024 ≤ f) → stops (.fabricPeer cmd) 3) ∧
      (s.config.fabricOn = true → f < 1024 → (sent ∨ exports) → stops (.fabricPeer cmd) 4) ∧
      (s.config.fabricOn = true → f < 1024 → ¬(sent ∨ exports) →
        exec (.fabricPeer cmd) s = .next (State.complete { s with fabric := { s.fabric with peer := f } } cmd 0 0)) ∧
      (noRoute → stops (.routeSet cmd) 3) ∧
      (¬noRoute → ∃ u : State, exec (.routeSet cmd) s = .next (u.complete cmd 0 0) ∧
        sget 0 u.fabric.routes f = BitVec.ofNat 36 wide ∧ (∀ k, k ≠ f → sget 0 u.fabric.routes k = sget 0 s.fabric.routes k) ∧
        { u with fabric := s.fabric } = s) ∧
      ((63 < f ∨ (on ∧ ¬ring)) → stops (.dlogSet cmd) 3) ∧
      (f ≤ 63 → (on → ring) → x.switching ≠ none →
        exec (.dlogSet cmd) s = .next { s with pending := s.pending ++ [{ cmd := cmd, begun := false }] }) ∧
      (f ≤ 63 → on → ring → x.switching = none → ∃ u : State, exec (.dlogSet cmd) s = .next (u.complete cmd 0 0) ∧
        u.fn f = { x with dlog := { d with
          en := true, log2n := e, ring := wide, tail := 0, head := v1.pfVal (wide + 8) 4, lost := false } } ∧
        (∀ g, g ≠ f → u.fn g = s.fn g) ∧ { u with fns := v1.fns } = v1 ∧
        (sound → (u.fn f).dlog.head = mval s.mem (wide + 8) 4 ∧ mval u.mem wide 4 = 0 ∧ mbyte u.mem (wide + 16) = 0 ∧
          ∀ a, (a < wide ∨ wide + 4 ≤ a) → a ≠ wide + 16 → mbyte u.mem a = mbyte s.mem a)) ∧
      (f ≤ 63 → ¬on → x.switching = none → d.armed = none →
        sets (.dlogSet cmd) (fun y => y = { x with dlog := { d with en := false, armed := none } })) ∧
      (f ≤ 63 → ¬on → x.switching = none → d.armed = some cid → exec (.dlogSet cmd) s = .next (State.complete
        ((s.postAdm 0 cid.toNat 0 0 d.tail).onFn f (fun y => { y with dlog := { y.dlog with en := false, armed := none } })) cmd 0 0)) ∧
      (63 < f → stops (.dlogArm cmd) 3) ∧ (f ≤ 63 → d.armed ≠ none → stops (.dlogArm cmd) 4) ∧
      (f ≤ 63 → d.armed = none → d.en = true → full head → ∃ u : State, exec (.dlogArm cmd) s = .next (u.complete cmd 0 d.tail) ∧
        u.fn f = { x with dlog := { d with head := head } } ∧ { u with fns := s.fns } = s.pfNote (d.ring + 8) 4) ∧
      (f ≤ 63 → d.armed = none → (d.en = false ∨ ¬full head) → ∃ u : State, exec (.dlogArm cmd) s = .next u ∧
        u.fn f = { x with dlog := { d with head := head, armed := some cmd.cid } } ∧
        { u with fns := s.fns } = s.pfNote (d.ring + 8) 4)) ∧
    (let l := (s.fn fn).dlog
     let due : Prop := l.en = true ∧ (l.tail + 1) % 2 ^ l.log2n = l.head % 2 ^ l.log2n
     (∀ c, l.armed = some c → due → ∃ u : State, exec (.dlogArmCompletion fn) s = .next (u.postAdm 0 c.toNat 0 0 l.tail) ∧
       u.fn fn = { s.fn fn with dlog := { l with armed := none } } ∧ { u with fns := s.fns } = s) ∧
     ((l.armed = none ∨ ¬due) → exec (.dlogArmCompletion fn) s = .next s))

/-- R96, R105, R108 and R113: KEY_LOAD loads, generates or clears a tenant slot while its partition is not valid; WIN_CREATE makes the
window, its key and its semaphore at 0 and its frames read as zero; WIN_DESTROY takes all of that away, and waiters of the
semaphore stay; T2_ASSIGN gives frames to a function, read as zero. Bytes 32 to 63 of the command's ADMSQ entry are
overwritten with zero by the commands that carry a key. A generated key is a free value (log 6). That a key not zero with another
MODE gives STATUS 3, and when the entry is wiped, are the model's choices (logs 70, 106). -/
def Obligations.MemoryCommandsReinitialiseFrames : Prop :=
  ∀ (cmd : AdminCmd) (w : Window) (s : State),
    let stops (i : Instr) (u : State) (st : Nat) : Prop := exec i s = .next (u.complete cmd st 0)
    let slot := arg cmd 8 1
    let mode := arg cmd 9 1
    let bad : Prop := slot = 0 ∨ 63 < slot ∨ 2 < mode ∨ arg cmd 10 22 ≠ 0 ∨ (mode ≠ 0 ∧ arg cmd 32 32 ≠ 0)
    let key : Option (BitVec 256) := if mode = 0 then some (BitVec.ofNat 256 (arg cmd 32 32))
      else if mode = 1 then some (Sys2Proof.Config.randomKey s.tick) else none
    let q := s.queue 0 0
    let size := 2 ^ (q.log2sz.toNat + 4)
    let entry := q.base.toNat + 64 * ((q.dev + size - 1) % size)
    let own : Window := {
      owner := arg cmd 9 1, home := arg cmd 10 1, readers := BitVec.ofNat 64 (arg cmd 16 8), frame0 := arg cmd 12 4
      count := arg cmd 24 2, sem := arg cmd 28 4 % 2 ^ 16 }
    let made : BitVec 256 := if arg cmd 11 1 = 0 then BitVec.ofNat 256 (arg cmd 32 32) else Sys2Proof.Config.randomKey s.tick
    let inside (v : Window) (a : Nat) : Prop := v.frame0 * 2 ^ 21 ≤ a ∧ a < (v.frame0 + v.count) * 2 ^ 21
    let f := arg cmd 8 2
    let p := arg cmd 10 1
    let first := arg cmd 16 8
    let n := arg cmd 24 4
    let noFrames : Prop := 63 < f ∨ 3 < p ∨ n = 0 ∨ s.start.ports.getLsbD p = true ∨ sget 0 s.config.frames p < first + n
    cmd.fn = 0 →
    (q.en = true → q.base.getLsbD 63 = false → (∀ i, i < 32 → mbyte s.wipeKey.hostMem (entry + 32 + i) = 0) ∧
      (∀ a, a < entry + 32 ∨ entry + 64 ≤ a → mbyte s.wipeKey.hostMem a = mbyte s.hostMem a) ∧ s.wipeKey.mem = s.mem) ∧
    (bad → stops (.keyLoad cmd) s.wipeKey 3) ∧ (¬bad → (s.fn slot).part.valid = true → stops (.keyLoad cmd) s.wipeKey 4) ∧
    (¬bad → (s.fn slot).part.valid = false → ∃ u : State, stops (.keyLoad cmd) u.wipeKey 0 ∧ sfind u.keys slot = key ∧
      (∀ k, k ≠ slot → sfind u.keys k = sfind s.keys k) ∧ SameBytes s u) ∧
    (s.winBad cmd = true → stops (.winCreate cmd) s 3) ∧
    ((63 < slot ∨ own.owner = 0 ∨ 63 < own.owner ∨ 3 < own.home ∨ own.count = 0 ∨ 512 < own.count ∨ (s.window slot).isSome = true ∨
      own.readers.getLsbD own.owner = true) → s.winBad cmd = true) ∧
    (s.winBad cmd = false → ∃ u : State, stops (.winCreate cmd) u.wipeKey 0 ∧ u.window slot = some own ∧
      sfind u.keys (64 + slot) = some made ∧ u.sem (own.home * 65536 + own.sem) = 0 ∧ (∀ a, inside own a → mbyte u.mem a = 0) ∧
      ∀ a, ¬inside own a → mbyte u.mem a = mbyte s.mem a) ∧
    (s.window slot = none → stops (.winDestroy cmd) s 3) ∧
    (s.window slot = some w → ∃ u : State, stops (.winDestroy cmd) u 0 ∧ sfind u.keys (64 + slot) = none ∧
      u.sem (w.home * 65536 + w.sem) = 0 ∧ u.semWaiters = s.semWaiters ∧ (∀ a, inside w a → mbyte u.mem a = 0) ∧
      ∀ a, ¬inside w a → mbyte u.mem a = mbyte s.mem a) ∧
    (noFrames → stops (.t2Assign cmd) s 3) ∧
    (¬noFrames → ∃ u : State, stops (.t2Assign cmd) u 0 ∧
      (∀ i, first ≤ i → i < first + n → sget 0 u.tier2 ((p + 1) * 2 ^ 23 + i) = f + 1) ∧
      ∀ a, mbyte u.mem a = if (p + 1) * 2 ^ 44 + first * 2 ^ 21 ≤ a ∧ a < (p + 1) * 2 ^ 44 + (first + n) * 2 ^ 21 then 0
        else mbyte s.mem a)

/-- R66, R70, R72, R73, R90 and R91: DIE_RESET and FIELD_TEST begin the reset of a die, which they complete with; a field test runs only
where no partition owns a cluster of the die and the package's signature verifies, and retires the units it finds faulty;
ATTEST writes the report of R66 with its signature and answers its length; INJECT arms an injector of a test VF. The
verdict on a unit, the certificate and the signature are free values (logs 7, 8). The model's choices: the layout of the test's
result and the cut of the report (log 72), the octet order of its digests (log 102), and STATUS 4 of a test while the die is in
reset (log 103).

Tables 4-4 and 4-6 (R50, R406): the ADMCQ entry of a command carries its CID and STATUS, one of an event 0xFFFF and the EVENT
code, each with its RESULT. -/
def Obligations.DieCommandsBeginOrReport : Prop :=
  (∀ (cmd : AdminCmd) (pkg : List Byte) (t : State) (s : State),
    let stops (i : Instr) (st : Nat) : Prop := exec i s = .next (s.complete cmd st 0)
    let notes (i : Instr) : Prop := ∃ l, exec i s = .next (State.complete { s with broken := s.broken ++ l } cmd 3 0)
    let d := arg cmd 8 1
    let busy : Prop := ∃ e ∈ s.dieResets, e.1 = d ∧ e.2 ≠ none
    let begins (i : Instr) (P : State → Prop) : Prop := ∃ u : State, exec i s = .next u ∧ (d, some cmd.cid) ∈ u.dieResets ∧
      (∀ n, n < 64 → (u.core (64 * d + n)).inReset = true ∧ (u.core (64 * d + n)).resident = false) ∧ P u
    let owned : Prop := ∃ f k, f < 64 ∧ k < 8 ∧ s.ownsCluster f (8 * d + k) = true
    let fails (n : Nat) : Bool := Sys2Proof.Config.fieldTestFails s.tick d n
    let bits := ((List.range 81).filter fails).foldl (fun n u => n + 2 ^ u) 0
    let a := s.start
    let word := a.step + 8 * a.done.toNat + 16 * a.fail.toNat + 32 * a.warm.toNat + 64 * a.forceCold.toNat + 2 ^ 8 * a.code +
      2 ^ 16 * a.ports.toNat
    let body := toBytes 32 (arg cmd 8 32) ++ toBytes 32 (s.config.digest.getD 0).toNat ++
      toBytes 32 (sha256 s.config.record).toNat ++ toBytes 8 word ++ Sys2Proof.Config.certificate 0
    let report := (body ++ Sys2Proof.Config.slhSign (sget 0 s.config.identity 0) body).take 20480
    let f := arg cmd 8 2
    let kind := arg cmd 10 2
    let refused : Prop := f = 0 ∨ 63 < f ∨ kind = 0 ∨ 4 < kind ∨ (s.fn f).part.valid = false ∨ (s.fn f).part.test = false
    let test : Instr := .fieldTest cmd
    cmd.fn = 0 →
    ((3 < d ∨ arg cmd 9 55 ≠ 0) → stops (.dieReset cmd) 3) ∧ (d ≤ 3 → arg cmd 9 55 = 0 → busy → stops (.dieReset cmd) 4) ∧
    (d ≤ 3 → arg cmd 9 55 = 0 → ¬busy → begins (.dieReset cmd) (fun _ => True)) ∧
    (s.gpaWrite 0 (arg cmd 40 8) 20480 report = none → notes (.attest cmd)) ∧
    (s.gpaWrite 0 (arg cmd 40 8) 20480 report = some t → exec (.attest cmd) s = .next (t.complete cmd 0 report.length)) ∧
    (3 < d → stops test 3) ∧ (d ≤ 3 → (owned ∨ busy) → stops test 4) ∧
    (d ≤ 3 → ¬(owned ∨ busy) → s.gpaRead 0 (arg cmd 16 8) 4096 = none → notes test) ∧
    (d ≤ 3 → ¬(owned ∨ busy) → s.gpaRead 0 (arg cmd 16 8) 4096 = some pkg →
      (Sys2Proof.Config.packageSigned pkg = false → stops test 3) ∧
      (Sys2Proof.Config.packageSigned pkg = true → s.gpaWrite 0 (arg cmd 24 8) 4096 (toBytes 4096 bits) = none → notes test) ∧
      (Sys2Proof.Config.packageSigned pkg = true → s.gpaWrite 0 (arg cmd 24 8) 4096 (toBytes 4096 bits) = some t → begins test (fun u =>
        ∀ n, (n < 8 → fails n = true → u.retiredClusters.getLsbD (8 * d + n) = true) ∧
          (n < 48 → fails (8 + n) = true → u.retiredGroups.getLsbD (48 * d + n) = true) ∧
          (n < 16 → fails (56 + n) = true → u.retiredAgents.getLsbD (16 * d + n) = true) ∧
          (n < 9 → fails (72 + n) = true → (u.port (9 * d + n)).retired = true)))) ∧
    (refused → stops (.inject cmd) 3) ∧
    (¬refused → exec (.inject cmd) s = .next (State.complete { s with injectors := s.injectors ++ [{
      fn := f, kind := kind, seed := BitVec.ofNat 64 (arg cmd 16 8), count := arg cmd 24 4, made := 0, since := s.cycle }] } cmd 0 0))) ∧
  (∀ (cmd : AdminCmd) (fn st code result : Nat) (s : State),
    s.complete cmd st result = s.pushEntry cmd.fn 1
      (toBytes 2 cmd.cid.toNat ++ toBytes 1 st ++ toBytes 1 0 ++ toBytes 4 0 ++ toBytes 8 result) ∧
    s.event fn code result = s.pushEntry fn 1 (toBytes 2 0xFFFF ++ toBytes 1 0 ++ toBytes 1 code ++ toBytes 4 0 ++ toBytes 8 result))

/-! ## The whole machine -/

/-- The values that the spec gives for reset and for a start (R25, R28, R33, R46, R60, R62, R82, R95, R126, R138, R143, R146, R156,
R164, R166, R178, R197, R221, R254, R259; Tables 2-3 to 2-6, 5-2, 6-6, 9-4, 14-2, 14-4), as the state right after reset
has them; its memories are in canonical form. That they hold at once, before a start and a gang start, and that memory then reads
0, which R60 says after step 7, is the model's choice (logs 40, 45). -/
def Obligations.ResetHasTheSpecsValues : Prop :=
  ∀ a c d e f k n q r x : Nat,
    let s := State.reset
    let t := (s.core c).strand
    s.memWf ∧ mbyte s.mem a = 0 ∧ s.wdog = 13000000 ∧ s.rollPeriod = 100000 ∧ s.slice = 2000 ∧ s.pdl = 20 ∧ s.sem k = 0 ∧
    t.leaseMax = 1024 ∧ t.engSeed = 1 ∧ t.strState = 1 ∧ t.full = false ∧ t.aliasOn = false ∧ t.revoke = false ∧ t.spdbg = false ∧
    t.flags = 0 ∧ t.trapPc = 0 ∧ t.trapCause = 0 ∧ t.trapInfo = 0 ∧ t.trapVec = 0 ∧ t.trapVecValid = false ∧ t.inHandler = false ∧
    (s.core c).pair01 = true ∧ (s.core c).pair23 = true ∧ (s.core c).rowprog = 0 ∧
    ((s.core c).ring r).rhead = 0 ∧ ((s.core c).ring r).rtail = 0 ∧ ((s.core c).ring r).rkeep = 0 ∧ ((s.core c).ring r).resets = 0 ∧
    s.fabric.peer = 0 ∧ sget 0 s.fabric.routes n = 0 ∧ (s.exportEntry f x).valid = false ∧ (s.queue f q).en = false ∧
    (s.fn f).winok = true ∧ (s.fn f).sysok = true ∧ (s.fn f).part.valid = false ∧
    (e < 4 → (s.fn f).guest e = BitVec.ofNat 32 (0x10000 + e)) ∧ (4 ≤ e → ((s.fn f).guest e).getLsbD 16 = false) ∧
    s.start.step = 0 ∧ s.start.done = false ∧ s.start.fail = false ∧ s.start.warm = false ∧ s.start.forceCold = false ∧
    s.start.code = 0 ∧ s.start.ports = 0 ∧ sfind s.keys k = none ∧
    (s.pow d).target = 0 ∧ (s.pow d).cur = 0 ∧ (s.pow d).req = 0 ∧ (s.pow d).clamp = false ∧ (s.pow d).result = 0 ∧ (s.pow d).vmv = 800 ∧
    (s.pow d).active = 0 ∧ (s.pow d).memStall = 0 ∧ (s.pow d).syncStall = 0 ∧ (s.pow d).seq = 0 ∧ s.watts = 0 ∧ s.peakW = 0 ∧
    (sget {} s.banks k).valid = false ∧ (sget {} s.banks k).ce = 0 ∧ (sget {} s.banks k).uec = 0

/-- What a step runs, and that it always answers a next state. In the turn of a strand it is the instruction that the four
bytes at the PC decode to, and event 0x01 where they decode to none; in the turn of an engine, the word at its next
sequence, or XCODE 0x24, and a confirmation that is due goes first, and a word that is DONE is passed (R256); the end of a clock
switch comes before all else (R21); else an event that is due or an input, of two errors of one bank the uncorrectable one first
(R260). Time has passed, what waits in the fabric, on commands, injections, failures, report
queues and work goes on, and, after a turn, the next agent moves. An admin command runs the instruction of its opcode (Table 4-5), a packet that of
its TYPE (Table 3-4). Which of several things that are due comes first is the model's choice (R2 bounds it; logs 36, 42, 47, 113). -/
def Obligations.StepRunsTheDecodedInstruction : Prop :=
  ∀ (i : Instr) (rest : List Instr) (t : Trans) (e : DecodeError) (cmd : AdminCmd) (p : RxPacket) (s : State),
    let u := s.advance
    let c := u.actor.core
    let k := u.me
    let steady : Prop := ∀ e ∈ u.power, e.2.phase ≠ .switchingUp ∧ e.2.phase ≠ .switchingDown
    let turn : Prop := s.inputs = [] ∧ steady ∧ (u.tick % 2 = 0 ∨ u.event? = none)
    let here : Prop := turn ∧ k.resident = true ∧ k.inReset = false ∧ k.saveBegun = false
    let w := BitVec.ofNat 32 (ofBytes (u.readVia t k.strand.pc.toNat 4))
    let fetched : Prop := here ∧ u.actor.unit = 0 ∧ k.strand.issues = true ∧ u.transOn c k.strand.pc.toNat .fetch = .ok t ∧
      u.accessCheck k.fn (some c) t k.strand.pc.toNat 4 false = .ok ()
    let r := u.actor.unit - 1
    let z := if u.actor.unit = 1 then u.ageMarks c 0 else if 3 ≤ u.actor.unit then u.onRing c r Ring.turnOver else u
    let g := (z.core c).ring r
    let v := z.slotWord c r g.next
    let engine : Prop := here ∧ u.actor.unit ≠ 0 ∧ k.strand.status ≠ .saved
    let passed : Prop := g.next ≠ g.rtail ∧ g.pendx = false ∧ markDone (z.mark c r g.next) = true ∧
      (r ≠ 1 ∨ seqDist g.rhead g.next < 2 ^ 31)
    let word : Prop := engine ∧ ¬passed ∧ g.confirmDue r u.cycle = false ∧ g.wait.moves = true ∧ g.next ≠ g.rtail ∧
      (g.pendx = false ∨ g.next ≠ g.xseq) ∧ g.flight.length < 4
    let y := s.settleFabric.settleRoutes.settleAdmin.injectDue.settleBroken.settleReports.settleWork
    let runs (o : Instr) : Prop := runAdmin cmd s = exec o s
    let lands (o : Instr) : Prop := runPacket p s = exec o s
    (∃ x : State, exec i s = .next x) ∧ (∃ x : State, step s = .next x) ∧
    s.advance = { s with tick := s.tick + 1, cycle := s.cycle + Sys2Proof.Config.stepCycles s.tick } ∧
    settled true (.next s) = .next { s.settle false with actor := (s.settle false).nextActor } ∧
    settled false (.next s) = .next (s.settle false) ∧
    s.settle false = (if ∃ n ∈ y.nodes, n.phase = .completing ∧ n.fid = none then y.settleNodes else y) ∧
    (∀ d p l, u.power = (d, p) :: l → p.phase = .switchingUp ∨ p.phase = .switchingDown →
      step s = settled false (exec (.clockSwitchDone d) u)) ∧
    (turn → k.resident = false ∨ k.inReset = true → step s = settled true (.next u)) ∧
    (fetched → decodeStrand w = .ok i → step s = settled true (exec i u)) ∧
    (fetched → decodeStrand w = .error e → step s = settled true (exec (.illegalInstruction w) u)) ∧
    (engine → passed → step s = settled true (.next (z.passDone c r))) ∧
    (engine → ¬passed → g.confirmDue r u.cycle = true → step s = settled true (exec (.wordConfirm c r) z)) ∧
    (word → decodeEngine r v = .ok i → step s = settled true (exec i z)) ∧
    (word → decodeEngine r v = .error e → step s = settled true (exec (.reservedEngineOpcode v) z)) ∧
    (steady → s.inputs = [] → u.tick % 2 ≠ 0 → u.due = some (.instr i) → step s = settled false (exec i u)) ∧
    (steady → s.inputs = i :: rest → errorOrder i = none → u.accepts i = true → step s = settled false (exec i { u with inputs := rest })) ∧
    (steady → s.inputs = i :: rest → errorOrder i = none → u.accepts i = false → step s = settled false (.next { u with inputs := rest })) ∧
    (∀ (d b : Nat) (e1 e2 : ErrorReport), steady → s.inputs = [.correctedError d b e1, .uncorrectableError d b e2] →
      u.accepts (.uncorrectableError d b e2) = true →
      step s = settled false (exec (.uncorrectableError d b e2) { u with inputs := [.correctedError d b e1] })) ∧
    (∀ o ∈ [(0x01, Instr.ctxCreate cmd), (0x02, .ctxDestroy cmd), (0x03, .exportSet cmd), (0x04, .ctxSwitch cmd), (0x05, .invalRange cmd)],
      cmd.opc.toNat = o.1 → runs o.2) ∧
    (∀ o ∈ [(0x40, Instr.partSet cmd), (0x41, .partQuery cmd), (0x42, .gdieSet cmd), (0x43, .dlogSet cmd), (0x44, .dlogArm cmd),
        (0x45, .keyLoad cmd), (0x46, .winCreate cmd), (0x47, .winDestroy cmd), (0x48, .t2Assign cmd), (0x49, .schedSet cmd),
        (0x4A, .semRange cmd), (0x4B, .s2rootSet cmd), (0x4C, .scopeSet cmd), (0x4D, .fabricPeer cmd), (0x4E, .routeSet cmd),
        (0x4F, .dieReset cmd), (0x60, .attest cmd), (0x61, .fieldTest cmd), (0x62, .inject cmd)],
      cmd.opc.toNat = o.1 → (cmd.fn = 0 → runs o.2) ∧ (cmd.fn ≠ 0 → runs (.adminReservedOpcode cmd))) ∧
    (∀ o ∈ [(1, Instr.fabricWritePacket p.port p.vftag p.pkt), (2, .fabricSignalPacket p.port p.vftag p.pkt),
        (3, .fabricReducePacket p.port p.vftag p.pkt), (4, .fabricAck p.port p.vftag p.pkt), (5, .fabricNak p.port p.vftag p.pkt)],
      p.pkt.type.toNat = o.1 → lands o.2)

/-- Worked encodings of the spec (Tables 16-12 and of chapters 15, 17 to 22): words written out there decode to the
instructions they stand for, the engine words as 32-bit groups with the lowest first; and words that R271 and R273 forbid
decode to none. -/
def Obligations.WorkedWordsDecode : Prop :=
  (∀ e ∈ [(0x04310500#32, Instr.add 3 4 5), (0x0820BFFF#32, .addi 2 2 0x3FFF), (0x2051A003#32, .srai 5 6 3),
      (0x0472090C#32, .div 7 8 9), (0x0431011A#32, .sext 3 4 1), (0x24400200#32, .li 4 0x200), (0x28408000#32, .lih 4 0x8000),
      (0x2CA2CC80#32, .fadd true 10 11 12), (0x2C31088C#32, .fcvt true 3 4 8), (0x38417FFD#32, .blt 4 5 0x3FFD),
      (0x4C0FC000#32, .jalr 0 63 0), (0x50400005#32, .loop 4 5), (0x54301400#32, .mfs 3 0x14), (0x55E00301#32, .mts 30 3)],
    decodeStrand e.1 = .ok e.2) ∧
  (∀ e ∈ [(0x5892A000#32, Instr.ld 9 2 2 true 0 0), (0x5C61C102#32, .st 6 1 3 2 2), (0x60541820#32, .lds 5 1 false 3 32),
      (0x6628A280#32, .sts 34 2 20 640), (0x6C21C000#32, .trans 2 7), (0x70610879#32, .atom32Cas 6 1 2 7),
      (0x7CD00000#32, .fence 1 3 0), (0x7D014000#32, .fence 0 4 5), (0x7C000001#32, .rcfence), (0x80010520#32, .swait true 4 5),
      (0x84610871#32, .wake 6 1 2 7), (0x88000000#32, .bar), (0x8C128C00#32, .enq 1 10 12), (0x90800900#32, .take 8 0 9),
      (0x94300001#32, .lntgo 3 false)], decodeStrand e.1 = .ok e.2) ∧
  (∀ e ∈ [(0x98110000#32, Instr.tld 1 4), (0x9C304200#32, .tmm 0 3 1 2), (0xA040C904#32, .tewMax 4 3 9), (0xA8610100#32, .tcvt 0 6 4 1),
      (0xAC205120#32, .tmap 2 1 1 9), (0xB0018921#32, .force true 6 9), (0xB4038F02#32, .tarena 14 15), (0xE0000001#32, .eret),
      (0xE0000009#32, .dbgbrk)], decodeStrand e.1 = .ok e.2) ∧
  (∀ w ∈ [0x2C3108AC#32, 0x2C31288C#32, 0x8C0FC000#32, 0x00000000#32, 0xFFFFFFFF#32], ∀ i : Instr, decodeStrand w ≠ .ok i) ∧
  decodeEngine 0 (0#96 ++ 0x02000000#32 ++ 0x29001000#32 ++ 0x02000000#32) = .ok (.vmov { raise := 0x29, dst := 0x40, a := 0x20 }) ∧
  decodeEngine 1 (0x01082000#32 ++ 0x00026800#32 ++ 0x00000800#32 ++ 0x20000000#32 ++ 0x00000800#32 ++ 0x40000000#32) =
    .ok (.mma { fmtA := 2, fmtB := 2, n16 := 4, lnt := 13, ava := 0x20008000, bva := 0x20010000 }) ∧
  decodeEngine 3 (0#96 ++ 0x02000124#32 ++ 0x00000060#32 ++ 0x00008400#32) = .ok (.ccopy { raise := 0x49, tsra := 0xC00001, ch := 1 })

/-- R270, R271, R273 and R277 (Tables 15-5 to 15-7): encoding and decoding of strand words agree. The word of a well-formed
instruction decodes to it, with every operand at every value the encoding admits; a word that decodes is the word of the
well-formed instruction it decodes to, so no two words mean one instruction and no bit of a word is dropped. -/
def Obligations.StrandWordsRoundTrip : Prop :=
  ∀ (i : Instr) (w : BitVec 32),
    (i.wf = true → encodeStrand i = some w → decodeStrand w = .ok i) ∧
    (decodeStrand w = .ok i → i.wf = true ∧ encodeStrand i = some w)

/-- R274 and R279 (Tables 15-8 to 15-11): encoding and decoding of engine words agree on the ring that runs them: a vector word
on ring V, a matrix word on ring M, a copy word on each of the rings C0 to C3; what decodes encodes to the same bits. -/
def Obligations.EngineWordsRoundTrip : Prop :=
  ∀ (i : Instr) (r : Nat) (w : BitVec 192),
    (encodeEngine i = some w → (engineRing i = some r ∨ (engineRing i = some 2 ∧ 2 ≤ r)) → decodeEngine r w = .ok i) ∧
    (decodeEngine r w = .ok i → ∃ v : BitVec 192, encodeEngine i = some v ∧ engineRing i = some (min r 2) ∧
      v = if r = 1 then w else (w.extractLsb' 0 96).setWidth 192)

/-- Whole machine: every step keeps the canonical form of device memory and of host memory, from every state that has it. -/
def Obligations.StepKeepsMemoryCanonical : Prop :=
  ∀ s t : State, s.memWf → step s = .next t → t.memWf
end

