-- ==== Sys2Proof/Laws/Sparse.lean ====
section
/-! SUPPORT. The laws of sparse state: reading after writing, and that every operation keeps the canonical form. -/

namespace Sys2Proof.Machine

variable {α : Type}

/-! ## Reading after writing: they hold of any list, canonical or not -/

theorem sget_sput_same (d : α) (m : Sparse α) (k : Nat) (v : α) : sget d (sput m k v) k = v := by
  induction m with
  | nil => simp [sput, sget]
  | cons e m ih =>
    obtain ⟨j, w⟩ := e
    simp only [sput]
    split
    · simp [sget]
    · split
      · simp [sget]
      · rename_i h
        simp [sget, Ne.symm h, ih]

theorem sget_sput_other (d : α) (m : Sparse α) (k j : Nat) (v : α) (h : j ≠ k) :
    sget d (sput m k v) j = sget d m j := by
  induction m with
  | nil => simp [sput, sget, Ne.symm h]
  | cons e m ih =>
    obtain ⟨i, w⟩ := e
    simp only [sput]
    split
    · simp [sget, Ne.symm h]
    · split
      · rename_i hk
        subst hk
        simp [sget, Ne.symm h]
      · simp [sget, ih]

theorem sget_serase_same (d : α) (m : Sparse α) (k : Nat) : sget d (serase m k) k = d := by
  induction m with
  | nil => rfl
  | cons e m ih =>
    obtain ⟨j, w⟩ := e
    simp only [serase]
    split
    · exact ih
    · rename_i h
      simp [sget, h, ih]

theorem sget_serase_other (d : α) (m : Sparse α) (k j : Nat) (h : j ≠ k) :
    sget d (serase m k) j = sget d m j := by
  induction m with
  | nil => rfl
  | cons e m ih =>
    obtain ⟨i, w⟩ := e
    simp only [serase]
    split
    · rename_i hk
      subst hk
      simp [sget, Ne.symm h, ih]
    · simp [sget, ih]

/-- A key that was set reads as what it was set to. -/
@[simp] theorem sget_sset_same [DecidableEq α] (d : α) (m : Sparse α) (k : Nat) (v : α) :
    sget d (sset d m k v) k = v := by
  unfold sset
  split
  · rename_i h
    rw [sget_serase_same, h]
  · exact sget_sput_same d m k v

/-- Setting a key leaves every other key alone. -/
theorem sget_sset_other [DecidableEq α] (d : α) (m : Sparse α) (k j : Nat) (v : α) (h : j ≠ k) :
    sget d (sset d m k v) j = sget d m j := by
  unfold sset
  split
  · exact sget_serase_other d m k j h
  · exact sget_sput_other d m k j v h

/-- Reading any key after one was set. -/
theorem sget_sset [DecidableEq α] (d : α) (m : Sparse α) (k j : Nat) (v : α) :
    sget d (sset d m k v) j = if j = k then v else sget d m j := by
  by_cases h : j = k
  · subst h; simp
  · simp [h, sget_sset_other]

theorem sfind_sput_same (m : Sparse α) (k : Nat) (v : α) : sfind (sput m k v) k = some v := by
  induction m with
  | nil => simp [sput, sfind]
  | cons e m ih =>
    obtain ⟨j, w⟩ := e
    simp only [sput]
    split
    · simp [sfind]
    · split
      · simp [sfind]
      · rename_i h
        simp [sfind, Ne.symm h, ih]

theorem sfind_sput_other (m : Sparse α) (k j : Nat) (v : α) (h : j ≠ k) :
    sfind (sput m k v) j = sfind m j := by
  induction m with
  | nil => simp [sput, sfind, Ne.symm h]
  | cons e m ih =>
    obtain ⟨i, w⟩ := e
    simp only [sput]
    split
    · simp [sfind, Ne.symm h]
    · split
      · rename_i hk
        subst hk
        simp [sfind, Ne.symm h]
      · simp [sfind, ih]

theorem sfind_serase_same (m : Sparse α) (k : Nat) : sfind (serase m k) k = none := by
  induction m with
  | nil => rfl
  | cons e m ih =>
    obtain ⟨j, w⟩ := e
    simp only [serase]
    split
    · exact ih
    · rename_i h
      simp [sfind, h, ih]

/-- A map whose unlisted keys read as `d` and one that tells them apart agree. -/
theorem sget_eq_sfind (d : α) (m : Sparse α) (k : Nat) : sget d m k = (sfind m k).getD d := by
  induction m with
  | nil => rfl
  | cons e m ih =>
    obtain ⟨j, w⟩ := e
    by_cases h : j = k <;> simp [sget, sfind, h, ih]

/-! ## The canonical form -/

theorem sabove_serase (k i : Nat) (m : Sparse α) (h : sabove k m = true) : sabove k (serase m i) = true := by
  induction m with
  | nil => rfl
  | cons e m ih =>
    obtain ⟨j, w⟩ := e
    simp only [sabove, Bool.and_eq_true, decide_eq_true_eq] at h
    simp only [serase]
    split
    · exact ih h.2
    · simp [sabove, h.1, ih h.2]

theorem sabove_sput (k i : Nat) (v : α) (m : Sparse α) (h : sabove k m = true) (hi : k < i) :
    sabove k (sput m i v) = true := by
  induction m with
  | nil => simp [sput, sabove, hi]
  | cons e m ih =>
    obtain ⟨j, w⟩ := e
    simp only [sabove, Bool.and_eq_true, decide_eq_true_eq] at h
    simp only [sput]
    split
    · simp [sabove, hi, h]
    · split
      · simp [sabove, hi, h]
      · simp [sabove, h.1, ih h.2]

theorem sabove_trans (k i : Nat) (m : Sparse α) (h : sabove i m = true) (hk : k < i) : sabove k m = true := by
  induction m with
  | nil => rfl
  | cons e m ih =>
    obtain ⟨j, w⟩ := e
    simp only [sabove, Bool.and_eq_true, decide_eq_true_eq] at h ⊢
    exact ⟨by omega, ih h.2⟩

theorem ssorted_serase (k : Nat) (m : Sparse α) (h : ssorted m = true) : ssorted (serase m k) = true := by
  induction m with
  | nil => rfl
  | cons e m ih =>
    obtain ⟨j, w⟩ := e
    simp only [ssorted, Bool.and_eq_true] at h
    simp only [serase]
    split
    · exact ih h.2
    · simp [ssorted, ih h.2, sabove_serase j k m h.1]

theorem ssorted_sput (k : Nat) (v : α) (m : Sparse α) (h : ssorted m = true) : ssorted (sput m k v) = true := by
  induction m with
  | nil => rfl
  | cons e m ih =>
    obtain ⟨j, w⟩ := e
    simp only [ssorted, Bool.and_eq_true] at h
    simp only [sput]
    split
    · rename_i hk
      simp [ssorted, sabove, hk, h, sabove_trans k j m h.1 hk]
    · split
      · rename_i hk
        subst hk
        simp [ssorted, h]
      · rename_i h1 h2
        simp [ssorted, ih h.2, sabove_sput j k v m h.1 (by omega)]

theorem all_serase (p : Nat × α → Bool) (k : Nat) (m : Sparse α) (h : m.all p = true) :
    (serase m k).all p = true := by
  induction m with
  | nil => rfl
  | cons e m ih =>
    obtain ⟨j, w⟩ := e
    simp only [List.all_cons, Bool.and_eq_true] at h
    simp only [serase]
    split
    · exact ih h.2
    · simp only [List.all_cons, h.1, ih h.2, Bool.and_self]

theorem all_sput (p : Nat × α → Bool) (k : Nat) (v : α) (m : Sparse α) (h : m.all p = true) (hv : p (k, v) = true) :
    (sput m k v).all p = true := by
  induction m with
  | nil => simp [sput, hv]
  | cons e m ih =>
    obtain ⟨j, w⟩ := e
    simp only [List.all_cons, Bool.and_eq_true] at h
    simp only [sput]
    split
    · simp only [List.all_cons, h, hv, Bool.and_self]
    · split
      · simp only [List.all_cons, h, hv, Bool.and_self]
      · simp only [List.all_cons, h, ih h.2, Bool.and_self]

/-- Setting a key keeps the canonical form. -/
theorem swf_sset [DecidableEq α] (d : α) (m : Sparse α) (k : Nat) (v : α) (h : swf d m = true) :
    swf d (sset d m k v) = true := by
  simp only [swf, Bool.and_eq_true] at h ⊢
  unfold sset
  split
  · exact ⟨ssorted_serase k m h.1, all_serase _ k m h.2⟩
  · rename_i hv
    exact ⟨ssorted_sput k v m h.1, all_sput _ k v m h.2 (by simpa using hv)⟩

/-- Removing a key keeps the canonical form. -/
theorem swf_serase [DecidableEq α] (d : α) (m : Sparse α) (k : Nat) (h : swf d m = true) :
    swf d (serase m k) = true := by
  simp only [swf, Bool.and_eq_true] at h ⊢
  exact ⟨ssorted_serase k m h.1, all_serase _ k m h.2⟩

/-! ## Bytes -/

@[simp] theorem mbyte_mput_same (m : Memory) (a : Nat) (b : Byte) : mbyte (mput m a b) a = b := sget_sset_same 0 m a b

theorem mbyte_mput_other (m : Memory) (a i : Nat) (b : Byte) (h : i ≠ a) : mbyte (mput m a b) i = mbyte m i :=
  sget_sset_other 0 m a i b h

/-- A byte outside those written reads as before. -/
theorem mbyte_mwrite_outside (bs : List Byte) : ∀ (m : Memory) (a i : Nat), i < a ∨ a + bs.length ≤ i →
    mbyte (mwrite m a bs) i = mbyte m i := by
  induction bs with
  | nil => intro m a i _; rfl
  | cons b bs ih =>
    intro m a i h
    simp only [List.length_cons] at h
    rw [mwrite, ih (mput m a b) (a + 1) i (by omega), mbyte_mput_other m a i b (by omega)]

/-- A byte that was written reads as what was written. -/
theorem mbyte_mwrite_inside (bs : List Byte) : ∀ (m : Memory) (a i : Nat) (h : i < bs.length),
    mbyte (mwrite m a bs) (a + i) = bs[i] := by
  induction bs with
  | nil => intro m a i h; exact absurd h (by simp)
  | cons b bs ih =>
    intro m a i h
    cases i with
    | zero => rw [mwrite, mbyte_mwrite_outside bs (mput m a b) (a + 1) (a + 0) (by omega)]; simp
    | succ i =>
      have := ih (mput m a b) (a + 1) i (by simpa using h)
      rw [mwrite, show a + (i + 1) = a + 1 + i by omega, this]
      simp

/-- Reading what was just written. -/
theorem mread_mwrite (bs : List Byte) : ∀ (m : Memory) (a : Nat), mread (mwrite m a bs) a bs.length = bs := by
  induction bs with
  | nil => intro m a; rfl
  | cons b bs ih =>
    intro m a
    rw [List.length_cons, mread, mwrite, ih, mbyte_mwrite_outside bs (mput m a b) (a + 1) a (by omega)]
    simp

/-- Reading bytes none of which was written. -/
theorem mread_mwrite_outside (n : Nat) : ∀ (m : Memory) (a : Nat) (bs : List Byte) (i : Nat),
    i + n ≤ a ∨ a + bs.length ≤ i → mread (mwrite m a bs) i n = mread m i n := by
  induction n with
  | zero => intros; rfl
  | succ n ih =>
    intro m a bs i h
    rw [mread, mread, mbyte_mwrite_outside bs m a i (by omega), ih m a bs (i + 1) (by omega)]

/-- Writing one byte keeps the canonical form. -/
theorem Memory.wf_mput (m : Memory) (a : Nat) (b : Byte) (h : Memory.wf m = true) : Memory.wf (mput m a b) = true :=
  swf_sset 0 m a b h

/-- Writing bytes keeps the canonical form. -/
theorem Memory.wf_mwrite (bs : List Byte) : ∀ (m : Memory) (a : Nat), Memory.wf m = true →
    Memory.wf (mwrite m a bs) = true := by
  induction bs with
  | nil => intro m a h; exact h
  | cons b bs ih => intro m a h; exact ih _ _ (Memory.wf_mput m a b h)

/-- Writing bytes into a store that tells written from unwritten keeps its keys rising. -/
theorem ssorted_uwrite (bs : List Byte) : ∀ (m : Sparse Byte) (a : Nat), ssorted m = true →
    ssorted (uwrite m a bs) = true := by
  induction bs with
  | nil => intro m a h; exact h
  | cons b bs ih => intro m a h; exact ih _ _ (ssorted_sput a b m h)

theorem sfind_uwrite_outside (bs : List Byte) : ∀ (m : Sparse Byte) (a i : Nat), i < a ∨ a + bs.length ≤ i →
    sfind (uwrite m a bs) i = sfind m i := by
  induction bs with
  | nil => intro m a i _; rfl
  | cons b bs ih =>
    intro m a i h
    simp only [List.length_cons] at h
    rw [uwrite, ih (sput m a b) (a + 1) i (by omega), sfind_sput_other m a i b (by omega)]

theorem sfind_uwrite_inside (bs : List Byte) : ∀ (m : Sparse Byte) (a i : Nat) (h : i < bs.length),
    sfind (uwrite m a bs) (a + i) = some bs[i] := by
  induction bs with
  | nil => intro m a i h; exact absurd h (by simp)
  | cons b bs ih =>
    intro m a i h
    cases i with
    | zero =>
      rw [uwrite, sfind_uwrite_outside bs (sput m a b) (a + 1) (a + 0) (by omega)]
      simpa using sfind_sput_same m a b
    | succ i =>
      have := ih (sput m a b) (a + 1) i (by simpa using h)
      rw [uwrite, show a + (i + 1) = a + 1 + i by omega, this]
      simp

/-! ## Byte order (R3) -/

@[simp] theorem toBytes_length (n : Nat) : ∀ v, (toBytes n v).length = n := by
  induction n with
  | zero => intro v; rfl
  | succ n ih => intro v; simp [toBytes, ih]

/-- Bytes written least significant first spell the number again. -/
theorem ofBytes_toBytes (n : Nat) : ∀ v, ofBytes (toBytes n v) = v % 256 ^ n := by
  induction n with
  | zero => intro v; simp [toBytes, ofBytes, Nat.mod_one]
  | succ n ih =>
    intro v
    rw [toBytes, ofBytes, ih, BitVec.toNat_ofNat, show 256 ^ (n + 1) = 256 * 256 ^ n by rw [Nat.pow_succ, Nat.mul_comm],
      Nat.mod_mul]

/-- A value that was written reads back. -/
theorem mval_mwrite (m : Memory) (a n v : Nat) : mval (mwrite m a (toBytes n v)) a n = v % 256 ^ n := by
  have h := mread_mwrite (toBytes n v) m a
  rw [toBytes_length] at h
  rw [mval, h, ofBytes_toBytes]

end Sys2Proof.Machine
end

