-- ==== Sys2Proof/Laws/State.lean ====
section
/-! SUPPORT. One lemma per field per update of the state, and what reading a core, a strand or a register gives after one
was written. -/

namespace Sys2Proof.Machine

/-! ## Cores -/

/-- A core that was replaced reads as what replaced it. -/
@[simp] theorem State.core_setCore_same (s : State) (c : Nat) (k : Core) : (s.setCore c k).core c = k :=
  sget_sset_same ({} : Core) s.cores c k

/-- Every other core is left alone. -/
theorem State.core_setCore_other (s : State) (c i : Nat) (k : Core) (h : i ≠ c) : (s.setCore c k).core i = s.core i :=
  sget_sset_other ({} : Core) s.cores c i k h

/-- Any core after one was replaced. -/
theorem State.core_setCore (s : State) (c i : Nat) (k : Core) :
    (s.setCore c k).core i = if i = c then k else s.core i := sget_sset ({} : Core) s.cores c i k

@[simp] theorem State.core_onCore_same (s : State) (c : Nat) (f : Core → Core) : (s.onCore c f).core c = f (s.core c) :=
  s.core_setCore_same c _

theorem State.core_onCore_other (s : State) (c i : Nat) (f : Core → Core) (h : i ≠ c) :
    (s.onCore c f).core i = s.core i := s.core_setCore_other c i _ h

theorem State.core_onCore (s : State) (c i : Nat) (f : Core → Core) :
    (s.onCore c f).core i = if i = c then f (s.core c) else s.core i := s.core_setCore c i _

@[simp] theorem State.me_onMe (s : State) (f : Core → Core) : (s.onMe f).me = f s.me := s.core_onCore_same s.actor.core f

@[simp] theorem State.me_onStrand (s : State) (f : Strand → Strand) : (s.onStrand f).me = s.me.onStrand f := s.me_onMe _

@[simp] theorem State.strand_onMe (s : State) (f : Core → Core) : (s.onMe f).strand = (f s.me).strand := by
  simp [State.strand]

@[simp] theorem State.strand_onStrand (s : State) (f : Strand → Strand) : (s.onStrand f).strand = f s.strand := by
  simp [State.strand, Core.onStrand]

/-- Cores other than the one whose strand changes. -/
theorem State.core_onStrandOf_other (s : State) (c i : Nat) (f : Strand → Strand) (h : i ≠ c) :
    (s.onStrandOf c f).core i = s.core i := s.core_onCore_other c i _ h

@[simp] theorem State.core_onStrandOf_same (s : State) (c : Nat) (f : Strand → Strand) :
    (s.onStrandOf c f).core c = (s.core c).onStrand f := s.core_onCore_same c _

theorem sput_sput_same {α : Type} (m : Sparse α) (k : Nat) (v w : α) : sput (sput m k v) k w = sput m k w := by
  induction m with
  | nil => simp [sput]
  | cons e m ih =>
    obtain ⟨j, x⟩ := e
    by_cases h1 : k < j
    · simp [sput, h1]
    · by_cases h2 : k = j
      · subst h2; simp [sput]
      · simp [sput, h1, h2, ih]

/-! ## Scalar registers (R268) -/

/-- s0 reads as zero. -/
@[simp] theorem Strand.get_zero (t : Strand) : t.get 0 = 0 := rfl

/-- A write to s0 is discarded. -/
@[simp] theorem Strand.set_zero (t : Strand) (v : Word) : t.set 0 v = t := rfl

/-- A register that was written reads as what was written. -/
theorem Strand.get_set_same (t : Strand) (d : Reg) (v : Word) : (t.set d v).get d = if d = 0 then 0 else v := by
  by_cases h : d = 0
  · subst h; rfl
  · simp only [Strand.set, Strand.get, h, if_false, sget_sset_same]

/-- Every other register is left alone. -/
theorem Strand.get_set_other (t : Strand) (d r : Reg) (v : Word) (h : r ≠ d) : (t.set d v).get r = t.get r := by
  by_cases hd : d = 0
  · subst hd; rfl
  · simp only [Strand.set, Strand.get, hd, if_false]
    split
    · rfl
    · exact sget_sset_other 0 t.regs d.toNat r.toNat v (fun e => h (BitVec.eq_of_toNat_eq e))

/-- A register write changes the registers and nothing else. -/
theorem Strand.set_eq (t : Strand) (d : Reg) (v : Word) : t.set d v = { t with regs := (t.set d v).regs } := by
  unfold Strand.set
  split <;> rfl

@[simp] theorem State.get_set_same (s : State) (d : Reg) (v : Word) : (s.set d v).get d = if d = 0 then 0 else v := by
  simp [State.get, State.set, Strand.get_set_same]

theorem State.get_set_other (s : State) (d r : Reg) (v : Word) (h : r ≠ d) : (s.set d v).get r = s.get r := by
  simp [State.get, State.set, Strand.get_set_other _ _ _ _ h]

/-! ## Fields of a strand -/

@[simp] theorem Strand.set_status (t : Strand) (d : Reg) (v : Word) : (t.set d v).status = t.status := by unfold Strand.set; split <;> rfl
@[simp] theorem Strand.set_pc (t : Strand) (d : Reg) (v : Word) : (t.set d v).pc = t.pc := by unfold Strand.set; split <;> rfl
@[simp] theorem Strand.set_handles (t : Strand) (d : Reg) (v : Word) : (t.set d v).handles = t.handles := by unfold Strand.set; split <;> rfl
@[simp] theorem Strand.set_tiles (t : Strand) (d : Reg) (v : Word) : (t.set d v).tiles = t.tiles := by unfold Strand.set; split <;> rfl
@[simp] theorem Strand.set_maps (t : Strand) (d : Reg) (v : Word) : (t.set d v).maps = t.maps := by unfold Strand.set; split <;> rfl
@[simp] theorem Strand.set_loops (t : Strand) (d : Reg) (v : Word) : (t.set d v).loops = t.loops := by unfold Strand.set; split <;> rfl
@[simp] theorem Strand.set_flags (t : Strand) (d : Reg) (v : Word) : (t.set d v).flags = t.flags := by unfold Strand.set; split <;> rfl
@[simp] theorem Strand.set_trapPc (t : Strand) (d : Reg) (v : Word) : (t.set d v).trapPc = t.trapPc := by unfold Strand.set; split <;> rfl
@[simp] theorem Strand.set_trapCause (t : Strand) (d : Reg) (v : Word) : (t.set d v).trapCause = t.trapCause := by unfold Strand.set; split <;> rfl
@[simp] theorem Strand.set_trapInfo (t : Strand) (d : Reg) (v : Word) : (t.set d v).trapInfo = t.trapInfo := by unfold Strand.set; split <;> rfl
@[simp] theorem Strand.set_trapVec (t : Strand) (d : Reg) (v : Word) : (t.set d v).trapVec = t.trapVec := by unfold Strand.set; split <;> rfl
@[simp] theorem Strand.set_trapVecValid (t : Strand) (d : Reg) (v : Word) : (t.set d v).trapVecValid = t.trapVecValid := by unfold Strand.set; split <;> rfl
@[simp] theorem Strand.set_inHandler (t : Strand) (d : Reg) (v : Word) : (t.set d v).inHandler = t.inHandler := by unfold Strand.set; split <;> rfl
@[simp] theorem Strand.set_demandPc (t : Strand) (d : Reg) (v : Word) : (t.set d v).demandPc = t.demandPc := by unfold Strand.set; split <;> rfl
@[simp] theorem Strand.set_creatorPc (t : Strand) (d : Reg) (v : Word) : (t.set d v).creatorPc = t.creatorPc := by unfold Strand.set; split <;> rfl
@[simp] theorem Strand.set_full (t : Strand) (d : Reg) (v : Word) : (t.set d v).full = t.full := by unfold Strand.set; split <;> rfl
@[simp] theorem Strand.set_aliasOn (t : Strand) (d : Reg) (v : Word) : (t.set d v).aliasOn = t.aliasOn := by unfold Strand.set; split <;> rfl
@[simp] theorem Strand.set_revoke (t : Strand) (d : Reg) (v : Word) : (t.set d v).revoke = t.revoke := by unfold Strand.set; split <;> rfl
@[simp] theorem Strand.set_spdbg (t : Strand) (d : Reg) (v : Word) : (t.set d v).spdbg = t.spdbg := by unfold Strand.set; split <;> rfl
@[simp] theorem Strand.set_leaseMax (t : Strand) (d : Reg) (v : Word) : (t.set d v).leaseMax = t.leaseMax := by unfold Strand.set; split <;> rfl
@[simp] theorem Strand.set_engSeed (t : Strand) (d : Reg) (v : Word) : (t.set d v).engSeed = t.engSeed := by unfold Strand.set; split <;> rfl
@[simp] theorem Strand.set_strState (t : Strand) (d : Reg) (v : Word) : (t.set d v).strState = t.strState := by unfold Strand.set; split <;> rfl
@[simp] theorem Strand.set_lease (t : Strand) (d : Reg) (v : Word) : (t.set d v).lease = t.lease := by unfold Strand.set; split <;> rfl
@[simp] theorem Strand.set_latch (t : Strand) (d : Reg) (v : Word) : (t.set d v).latch = t.latch := by unfold Strand.set; split <;> rfl
@[simp] theorem Strand.set_pylds (t : Strand) (d : Reg) (v : Word) : (t.set d v).pylds = t.pylds := by unfold Strand.set; split <;> rfl
@[simp] theorem Strand.set_live (t : Strand) (d : Reg) (v : Word) : (t.set d v).live = t.live := by unfold Strand.set; split <;> rfl
@[simp] theorem Strand.set_liveBytes (t : Strand) (d : Reg) (v : Word) : (t.set d v).liveBytes = t.liveBytes := by unfold Strand.set; split <;> rfl
@[simp] theorem Strand.set_barArr (t : Strand) (d : Reg) (v : Word) : (t.set d v).barArr = t.barArr := by unfold Strand.set; split <;> rfl
@[simp] theorem Strand.set_ownLo (t : Strand) (d : Reg) (v : Word) : (t.set d v).ownLo = t.ownLo := by unfold Strand.set; split <;> rfl
@[simp] theorem Strand.set_ownHi (t : Strand) (d : Reg) (v : Word) : (t.set d v).ownHi = t.ownHi := by unfold Strand.set; split <;> rfl
@[simp] theorem Strand.set_chunkLen (t : Strand) (d : Reg) (v : Word) : (t.set d v).chunkLen = t.chunkLen := by unfold Strand.set; split <;> rfl
@[simp] theorem Strand.set_reply (t : Strand) (d : Reg) (v : Word) : (t.set d v).reply = t.reply := by unfold Strand.set; split <;> rfl
@[simp] theorem Strand.set_stalled (t : Strand) (d : Reg) (v : Word) : (t.set d v).stalled = t.stalled := by unfold Strand.set; split <;> rfl
@[simp] theorem Strand.set_toForce (t : Strand) (d : Reg) (v : Word) : (t.set d v).toForce = t.toForce := by unfold Strand.set; split <;> rfl
@[simp] theorem Strand.set_record (t : Strand) (d : Reg) (v : Word) : (t.set d v).record = t.record := by unfold Strand.set; split <;> rfl
@[simp] theorem Strand.set_faultVa (t : Strand) (d : Reg) (v : Word) : (t.set d v).faultVa = t.faultVa := by unfold Strand.set; split <;> rfl
@[simp] theorem Strand.set_wakeAt (t : Strand) (d : Reg) (v : Word) : (t.set d v).wakeAt = t.wakeAt := by unfold Strand.set; split <;> rfl
@[simp] theorem Strand.set_leaseEnd (t : Strand) (d : Reg) (v : Word) : (t.set d v).leaseEnd = t.leaseEnd := by unfold Strand.set; split <;> rfl

@[simp] theorem Strand.advance_status (t : Strand) : t.advance.status = t.status := by unfold Strand.advance; split <;> (try split) <;> (try split) <;> simp
@[simp] theorem Strand.advance_handles (t : Strand) : t.advance.handles = t.handles := by unfold Strand.advance; split <;> (try split) <;> (try split) <;> simp
@[simp] theorem Strand.advance_tiles (t : Strand) : t.advance.tiles = t.tiles := by unfold Strand.advance; split <;> (try split) <;> (try split) <;> simp
@[simp] theorem Strand.advance_maps (t : Strand) : t.advance.maps = t.maps := by unfold Strand.advance; split <;> (try split) <;> (try split) <;> simp
@[simp] theorem Strand.advance_flags (t : Strand) : t.advance.flags = t.flags := by unfold Strand.advance; split <;> (try split) <;> (try split) <;> simp
@[simp] theorem Strand.advance_trapPc (t : Strand) : t.advance.trapPc = t.trapPc := by unfold Strand.advance; split <;> (try split) <;> (try split) <;> simp
@[simp] theorem Strand.advance_trapCause (t : Strand) : t.advance.trapCause = t.trapCause := by unfold Strand.advance; split <;> (try split) <;> (try split) <;> simp
@[simp] theorem Strand.advance_trapInfo (t : Strand) : t.advance.trapInfo = t.trapInfo := by unfold Strand.advance; split <;> (try split) <;> (try split) <;> simp
@[simp] theorem Strand.advance_trapVec (t : Strand) : t.advance.trapVec = t.trapVec := by unfold Strand.advance; split <;> (try split) <;> (try split) <;> simp
@[simp] theorem Strand.advance_trapVecValid (t : Strand) : t.advance.trapVecValid = t.trapVecValid := by unfold Strand.advance; split <;> (try split) <;> (try split) <;> simp
@[simp] theorem Strand.advance_inHandler (t : Strand) : t.advance.inHandler = t.inHandler := by unfold Strand.advance; split <;> (try split) <;> (try split) <;> simp
@[simp] theorem Strand.advance_demandPc (t : Strand) : t.advance.demandPc = t.demandPc := by unfold Strand.advance; split <;> (try split) <;> (try split) <;> simp
@[simp] theorem Strand.advance_creatorPc (t : Strand) : t.advance.creatorPc = t.creatorPc := by unfold Strand.advance; split <;> (try split) <;> (try split) <;> simp
@[simp] theorem Strand.advance_full (t : Strand) : t.advance.full = t.full := by unfold Strand.advance; split <;> (try split) <;> (try split) <;> simp
@[simp] theorem Strand.advance_aliasOn (t : Strand) : t.advance.aliasOn = t.aliasOn := by unfold Strand.advance; split <;> (try split) <;> (try split) <;> simp
@[simp] theorem Strand.advance_revoke (t : Strand) : t.advance.revoke = t.revoke := by unfold Strand.advance; split <;> (try split) <;> (try split) <;> simp
@[simp] theorem Strand.advance_spdbg (t : Strand) : t.advance.spdbg = t.spdbg := by unfold Strand.advance; split <;> (try split) <;> (try split) <;> simp
@[simp] theorem Strand.advance_leaseMax (t : Strand) : t.advance.leaseMax = t.leaseMax := by unfold Strand.advance; split <;> (try split) <;> (try split) <;> simp
@[simp] theorem Strand.advance_engSeed (t : Strand) : t.advance.engSeed = t.engSeed := by unfold Strand.advance; split <;> (try split) <;> (try split) <;> simp
@[simp] theorem Strand.advance_strState (t : Strand) : t.advance.strState = t.strState := by unfold Strand.advance; split <;> (try split) <;> (try split) <;> simp
@[simp] theorem Strand.advance_lease (t : Strand) : t.advance.lease = t.lease := by unfold Strand.advance; split <;> (try split) <;> (try split) <;> simp
@[simp] theorem Strand.advance_latch (t : Strand) : t.advance.latch = t.latch := by unfold Strand.advance; split <;> (try split) <;> (try split) <;> simp
@[simp] theorem Strand.advance_pylds (t : Strand) : t.advance.pylds = t.pylds := by unfold Strand.advance; split <;> (try split) <;> (try split) <;> simp
@[simp] theorem Strand.advance_live (t : Strand) : t.advance.live = t.live := by unfold Strand.advance; split <;> (try split) <;> (try split) <;> simp
@[simp] theorem Strand.advance_liveBytes (t : Strand) : t.advance.liveBytes = t.liveBytes := by unfold Strand.advance; split <;> (try split) <;> (try split) <;> simp
@[simp] theorem Strand.advance_barArr (t : Strand) : t.advance.barArr = t.barArr := by unfold Strand.advance; split <;> (try split) <;> (try split) <;> simp
@[simp] theorem Strand.advance_ownLo (t : Strand) : t.advance.ownLo = t.ownLo := by unfold Strand.advance; split <;> (try split) <;> (try split) <;> simp
@[simp] theorem Strand.advance_ownHi (t : Strand) : t.advance.ownHi = t.ownHi := by unfold Strand.advance; split <;> (try split) <;> (try split) <;> simp
@[simp] theorem Strand.advance_chunkLen (t : Strand) : t.advance.chunkLen = t.chunkLen := by unfold Strand.advance; split <;> (try split) <;> (try split) <;> simp
@[simp] theorem Strand.advance_reply (t : Strand) : t.advance.reply = t.reply := by unfold Strand.advance; split <;> (try split) <;> (try split) <;> simp
@[simp] theorem Strand.advance_stalled (t : Strand) : t.advance.stalled = t.stalled := by unfold Strand.advance; split <;> (try split) <;> (try split) <;> simp
@[simp] theorem Strand.advance_toForce (t : Strand) : t.advance.toForce = t.toForce := by unfold Strand.advance; split <;> (try split) <;> (try split) <;> simp
@[simp] theorem Strand.advance_record (t : Strand) : t.advance.record = t.record := by unfold Strand.advance; split <;> (try split) <;> (try split) <;> simp
@[simp] theorem Strand.advance_faultVa (t : Strand) : t.advance.faultVa = t.faultVa := by unfold Strand.advance; split <;> (try split) <;> (try split) <;> simp
@[simp] theorem Strand.advance_wakeAt (t : Strand) : t.advance.wakeAt = t.wakeAt := by unfold Strand.advance; split <;> (try split) <;> (try split) <;> simp
@[simp] theorem Strand.advance_leaseEnd (t : Strand) : t.advance.leaseEnd = t.leaseEnd := by unfold Strand.advance; split <;> (try split) <;> (try split) <;> simp

@[simp] theorem Strand.retired_handles (t : Strand) : t.retired.handles = t.handles := t.advance_handles
@[simp] theorem Strand.retired_tiles (t : Strand) : t.retired.tiles = t.tiles := t.advance_tiles
@[simp] theorem Strand.retired_maps (t : Strand) : t.retired.maps = t.maps := t.advance_maps
@[simp] theorem Strand.retired_flags (t : Strand) : t.retired.flags = t.flags := t.advance_flags
@[simp] theorem Strand.retired_trapPc (t : Strand) : t.retired.trapPc = t.trapPc := t.advance_trapPc
@[simp] theorem Strand.retired_trapCause (t : Strand) : t.retired.trapCause = t.trapCause := t.advance_trapCause
@[simp] theorem Strand.retired_trapInfo (t : Strand) : t.retired.trapInfo = t.trapInfo := t.advance_trapInfo
@[simp] theorem Strand.retired_trapVec (t : Strand) : t.retired.trapVec = t.trapVec := t.advance_trapVec
@[simp] theorem Strand.retired_trapVecValid (t : Strand) : t.retired.trapVecValid = t.trapVecValid := t.advance_trapVecValid
@[simp] theorem Strand.retired_inHandler (t : Strand) : t.retired.inHandler = t.inHandler := t.advance_inHandler
@[simp] theorem Strand.retired_demandPc (t : Strand) : t.retired.demandPc = t.demandPc := t.advance_demandPc
@[simp] theorem Strand.retired_creatorPc (t : Strand) : t.retired.creatorPc = t.creatorPc := t.advance_creatorPc
@[simp] theorem Strand.retired_full (t : Strand) : t.retired.full = t.full := t.advance_full
@[simp] theorem Strand.retired_aliasOn (t : Strand) : t.retired.aliasOn = t.aliasOn := t.advance_aliasOn
@[simp] theorem Strand.retired_revoke (t : Strand) : t.retired.revoke = t.revoke := t.advance_revoke
@[simp] theorem Strand.retired_spdbg (t : Strand) : t.retired.spdbg = t.spdbg := t.advance_spdbg
@[simp] theorem Strand.retired_leaseMax (t : Strand) : t.retired.leaseMax = t.leaseMax := t.advance_leaseMax
@[simp] theorem Strand.retired_engSeed (t : Strand) : t.retired.engSeed = t.engSeed := t.advance_engSeed
@[simp] theorem Strand.retired_strState (t : Strand) : t.retired.strState = t.strState := t.advance_strState
@[simp] theorem Strand.retired_lease (t : Strand) : t.retired.lease = t.lease := t.advance_lease
@[simp] theorem Strand.retired_latch (t : Strand) : t.retired.latch = t.latch := t.advance_latch
@[simp] theorem Strand.retired_pylds (t : Strand) : t.retired.pylds = t.pylds := t.advance_pylds
@[simp] theorem Strand.retired_live (t : Strand) : t.retired.live = t.live := t.advance_live
@[simp] theorem Strand.retired_liveBytes (t : Strand) : t.retired.liveBytes = t.liveBytes := t.advance_liveBytes
@[simp] theorem Strand.retired_barArr (t : Strand) : t.retired.barArr = t.barArr := t.advance_barArr
@[simp] theorem Strand.retired_ownLo (t : Strand) : t.retired.ownLo = t.ownLo := t.advance_ownLo
@[simp] theorem Strand.retired_ownHi (t : Strand) : t.retired.ownHi = t.ownHi := t.advance_ownHi
@[simp] theorem Strand.retired_chunkLen (t : Strand) : t.retired.chunkLen = t.chunkLen := t.advance_chunkLen
@[simp] theorem Strand.retired_reply (t : Strand) : t.retired.reply = t.reply := t.advance_reply
@[simp] theorem Strand.retired_record (t : Strand) : t.retired.record = t.record := t.advance_record
@[simp] theorem Strand.retired_faultVa (t : Strand) : t.retired.faultVa = t.faultVa := t.advance_faultVa
@[simp] theorem Strand.retired_wakeAt (t : Strand) : t.retired.wakeAt = t.wakeAt := t.advance_wakeAt
@[simp] theorem Strand.retired_leaseEnd (t : Strand) : t.retired.leaseEnd = t.leaseEnd := t.advance_leaseEnd
@[simp] theorem Strand.retired_pc (t : Strand) : t.retired.pc = t.advance.pc := rfl
@[simp] theorem Strand.retired_regs (t : Strand) : t.retired.regs = t.advance.regs := rfl
@[simp] theorem Strand.retired_loops (t : Strand) : t.retired.loops = t.advance.loops := rfl
@[simp] theorem Strand.retired_status (t : Strand) : t.retired.status = .running := rfl
@[simp] theorem Strand.retired_stalled (t : Strand) : t.retired.stalled = false := rfl
@[simp] theorem Strand.retired_toForce (t : Strand) : t.retired.toForce = [] := rfl

@[simp] theorem Strand.jumped_regs (t : Strand) (p : Va) : (t.jumped p).regs = t.regs := rfl
@[simp] theorem Strand.jumped_handles (t : Strand) (p : Va) : (t.jumped p).handles = t.handles := rfl
@[simp] theorem Strand.jumped_tiles (t : Strand) (p : Va) : (t.jumped p).tiles = t.tiles := rfl
@[simp] theorem Strand.jumped_maps (t : Strand) (p : Va) : (t.jumped p).maps = t.maps := rfl
@[simp] theorem Strand.jumped_loops (t : Strand) (p : Va) : (t.jumped p).loops = t.loops := rfl
@[simp] theorem Strand.jumped_flags (t : Strand) (p : Va) : (t.jumped p).flags = t.flags := rfl
@[simp] theorem Strand.jumped_trapPc (t : Strand) (p : Va) : (t.jumped p).trapPc = t.trapPc := rfl
@[simp] theorem Strand.jumped_trapCause (t : Strand) (p : Va) : (t.jumped p).trapCause = t.trapCause := rfl
@[simp] theorem Strand.jumped_trapInfo (t : Strand) (p : Va) : (t.jumped p).trapInfo = t.trapInfo := rfl
@[simp] theorem Strand.jumped_trapVec (t : Strand) (p : Va) : (t.jumped p).trapVec = t.trapVec := rfl
@[simp] theorem Strand.jumped_trapVecValid (t : Strand) (p : Va) : (t.jumped p).trapVecValid = t.trapVecValid := rfl
@[simp] theorem Strand.jumped_inHandler (t : Strand) (p : Va) : (t.jumped p).inHandler = t.inHandler := rfl
@[simp] theorem Strand.jumped_demandPc (t : Strand) (p : Va) : (t.jumped p).demandPc = t.demandPc := rfl
@[simp] theorem Strand.jumped_creatorPc (t : Strand) (p : Va) : (t.jumped p).creatorPc = t.creatorPc := rfl
@[simp] theorem Strand.jumped_full (t : Strand) (p : Va) : (t.jumped p).full = t.full := rfl
@[simp] theorem Strand.jumped_aliasOn (t : Strand) (p : Va) : (t.jumped p).aliasOn = t.aliasOn := rfl
@[simp] theorem Strand.jumped_revoke (t : Strand) (p : Va) : (t.jumped p).revoke = t.revoke := rfl
@[simp] theorem Strand.jumped_spdbg (t : Strand) (p : Va) : (t.jumped p).spdbg = t.spdbg := rfl
@[simp] theorem Strand.jumped_leaseMax (t : Strand) (p : Va) : (t.jumped p).leaseMax = t.leaseMax := rfl
@[simp] theorem Strand.jumped_engSeed (t : Strand) (p : Va) : (t.jumped p).engSeed = t.engSeed := rfl
@[simp] theorem Strand.jumped_strState (t : Strand) (p : Va) : (t.jumped p).strState = t.strState := rfl
@[simp] theorem Strand.jumped_lease (t : Strand) (p : Va) : (t.jumped p).lease = t.lease := rfl
@[simp] theorem Strand.jumped_latch (t : Strand) (p : Va) : (t.jumped p).latch = t.latch := rfl
@[simp] theorem Strand.jumped_pylds (t : Strand) (p : Va) : (t.jumped p).pylds = t.pylds := rfl
@[simp] theorem Strand.jumped_live (t : Strand) (p : Va) : (t.jumped p).live = t.live := rfl
@[simp] theorem Strand.jumped_liveBytes (t : Strand) (p : Va) : (t.jumped p).liveBytes = t.liveBytes := rfl
@[simp] theorem Strand.jumped_barArr (t : Strand) (p : Va) : (t.jumped p).barArr = t.barArr := rfl
@[simp] theorem Strand.jumped_ownLo (t : Strand) (p : Va) : (t.jumped p).ownLo = t.ownLo := rfl
@[simp] theorem Strand.jumped_ownHi (t : Strand) (p : Va) : (t.jumped p).ownHi = t.ownHi := rfl
@[simp] theorem Strand.jumped_chunkLen (t : Strand) (p : Va) : (t.jumped p).chunkLen = t.chunkLen := rfl
@[simp] theorem Strand.jumped_reply (t : Strand) (p : Va) : (t.jumped p).reply = t.reply := rfl
@[simp] theorem Strand.jumped_record (t : Strand) (p : Va) : (t.jumped p).record = t.record := rfl
@[simp] theorem Strand.jumped_faultVa (t : Strand) (p : Va) : (t.jumped p).faultVa = t.faultVa := rfl
@[simp] theorem Strand.jumped_wakeAt (t : Strand) (p : Va) : (t.jumped p).wakeAt = t.wakeAt := rfl
@[simp] theorem Strand.jumped_leaseEnd (t : Strand) (p : Va) : (t.jumped p).leaseEnd = t.leaseEnd := rfl
@[simp] theorem Strand.jumped_pc (t : Strand) (p : Va) : (t.jumped p).pc = p := rfl
@[simp] theorem Strand.jumped_status (t : Strand) (p : Va) : (t.jumped p).status = .running := rfl

@[simp] theorem Strand.leave_regs (t : Strand) : t.leave.regs = t.regs := rfl
@[simp] theorem Strand.leave_handles (t : Strand) : t.leave.handles = t.handles := rfl
@[simp] theorem Strand.leave_tiles (t : Strand) : t.leave.tiles = t.tiles := rfl
@[simp] theorem Strand.leave_maps (t : Strand) : t.leave.maps = t.maps := rfl
@[simp] theorem Strand.leave_loops (t : Strand) : t.leave.loops = t.loops := rfl
@[simp] theorem Strand.leave_flags (t : Strand) : t.leave.flags = t.flags := rfl
@[simp] theorem Strand.leave_trapPc (t : Strand) : t.leave.trapPc = t.trapPc := rfl
@[simp] theorem Strand.leave_trapCause (t : Strand) : t.leave.trapCause = t.trapCause := rfl
@[simp] theorem Strand.leave_trapInfo (t : Strand) : t.leave.trapInfo = t.trapInfo := rfl
@[simp] theorem Strand.leave_trapVec (t : Strand) : t.leave.trapVec = t.trapVec := rfl
@[simp] theorem Strand.leave_trapVecValid (t : Strand) : t.leave.trapVecValid = t.trapVecValid := rfl
@[simp] theorem Strand.leave_demandPc (t : Strand) : t.leave.demandPc = t.demandPc := rfl
@[simp] theorem Strand.leave_creatorPc (t : Strand) : t.leave.creatorPc = t.creatorPc := rfl
@[simp] theorem Strand.leave_full (t : Strand) : t.leave.full = t.full := rfl
@[simp] theorem Strand.leave_aliasOn (t : Strand) : t.leave.aliasOn = t.aliasOn := rfl
@[simp] theorem Strand.leave_revoke (t : Strand) : t.leave.revoke = t.revoke := rfl
@[simp] theorem Strand.leave_spdbg (t : Strand) : t.leave.spdbg = t.spdbg := rfl
@[simp] theorem Strand.leave_leaseMax (t : Strand) : t.leave.leaseMax = t.leaseMax := rfl
@[simp] theorem Strand.leave_engSeed (t : Strand) : t.leave.engSeed = t.engSeed := rfl
@[simp] theorem Strand.leave_strState (t : Strand) : t.leave.strState = t.strState := rfl
@[simp] theorem Strand.leave_lease (t : Strand) : t.leave.lease = t.lease := rfl
@[simp] theorem Strand.leave_latch (t : Strand) : t.leave.latch = t.latch := rfl
@[simp] theorem Strand.leave_pylds (t : Strand) : t.leave.pylds = t.pylds := rfl
@[simp] theorem Strand.leave_live (t : Strand) : t.leave.live = t.live := rfl
@[simp] theorem Strand.leave_liveBytes (t : Strand) : t.leave.liveBytes = t.liveBytes := rfl
@[simp] theorem Strand.leave_barArr (t : Strand) : t.leave.barArr = t.barArr := rfl
@[simp] theorem Strand.leave_ownLo (t : Strand) : t.leave.ownLo = t.ownLo := rfl
@[simp] theorem Strand.leave_ownHi (t : Strand) : t.leave.ownHi = t.ownHi := rfl
@[simp] theorem Strand.leave_chunkLen (t : Strand) : t.leave.chunkLen = t.chunkLen := rfl
@[simp] theorem Strand.leave_reply (t : Strand) : t.leave.reply = t.reply := rfl
@[simp] theorem Strand.leave_record (t : Strand) : t.leave.record = t.record := rfl
@[simp] theorem Strand.leave_faultVa (t : Strand) : t.leave.faultVa = t.faultVa := rfl
@[simp] theorem Strand.leave_wakeAt (t : Strand) : t.leave.wakeAt = t.wakeAt := rfl
@[simp] theorem Strand.leave_leaseEnd (t : Strand) : t.leave.leaseEnd = t.leaseEnd := rfl

@[simp] theorem Strand.enter_regs (t : Strand) (c i : Nat) : (t.enter c i).regs = t.regs := rfl
@[simp] theorem Strand.enter_handles (t : Strand) (c i : Nat) : (t.enter c i).handles = t.handles := rfl
@[simp] theorem Strand.enter_tiles (t : Strand) (c i : Nat) : (t.enter c i).tiles = t.tiles := rfl
@[simp] theorem Strand.enter_maps (t : Strand) (c i : Nat) : (t.enter c i).maps = t.maps := rfl
@[simp] theorem Strand.enter_loops (t : Strand) (c i : Nat) : (t.enter c i).loops = t.loops := rfl
@[simp] theorem Strand.enter_flags (t : Strand) (c i : Nat) : (t.enter c i).flags = t.flags := rfl
@[simp] theorem Strand.enter_trapVec (t : Strand) (c i : Nat) : (t.enter c i).trapVec = t.trapVec := rfl
@[simp] theorem Strand.enter_trapVecValid (t : Strand) (c i : Nat) : (t.enter c i).trapVecValid = t.trapVecValid := rfl
@[simp] theorem Strand.enter_demandPc (t : Strand) (c i : Nat) : (t.enter c i).demandPc = t.demandPc := rfl
@[simp] theorem Strand.enter_creatorPc (t : Strand) (c i : Nat) : (t.enter c i).creatorPc = t.creatorPc := rfl
@[simp] theorem Strand.enter_full (t : Strand) (c i : Nat) : (t.enter c i).full = t.full := rfl
@[simp] theorem Strand.enter_aliasOn (t : Strand) (c i : Nat) : (t.enter c i).aliasOn = t.aliasOn := rfl
@[simp] theorem Strand.enter_revoke (t : Strand) (c i : Nat) : (t.enter c i).revoke = t.revoke := rfl
@[simp] theorem Strand.enter_spdbg (t : Strand) (c i : Nat) : (t.enter c i).spdbg = t.spdbg := rfl
@[simp] theorem Strand.enter_leaseMax (t : Strand) (c i : Nat) : (t.enter c i).leaseMax = t.leaseMax := rfl
@[simp] theorem Strand.enter_engSeed (t : Strand) (c i : Nat) : (t.enter c i).engSeed = t.engSeed := rfl
@[simp] theorem Strand.enter_strState (t : Strand) (c i : Nat) : (t.enter c i).strState = t.strState := rfl
@[simp] theorem Strand.enter_lease (t : Strand) (c i : Nat) : (t.enter c i).lease = t.lease := rfl
@[simp] theorem Strand.enter_latch (t : Strand) (c i : Nat) : (t.enter c i).latch = t.latch := rfl
@[simp] theorem Strand.enter_pylds (t : Strand) (c i : Nat) : (t.enter c i).pylds = t.pylds := rfl
@[simp] theorem Strand.enter_live (t : Strand) (c i : Nat) : (t.enter c i).live = t.live := rfl
@[simp] theorem Strand.enter_liveBytes (t : Strand) (c i : Nat) : (t.enter c i).liveBytes = t.liveBytes := rfl
@[simp] theorem Strand.enter_barArr (t : Strand) (c i : Nat) : (t.enter c i).barArr = t.barArr := rfl
@[simp] theorem Strand.enter_ownLo (t : Strand) (c i : Nat) : (t.enter c i).ownLo = t.ownLo := rfl
@[simp] theorem Strand.enter_ownHi (t : Strand) (c i : Nat) : (t.enter c i).ownHi = t.ownHi := rfl
@[simp] theorem Strand.enter_chunkLen (t : Strand) (c i : Nat) : (t.enter c i).chunkLen = t.chunkLen := rfl
@[simp] theorem Strand.enter_reply (t : Strand) (c i : Nat) : (t.enter c i).reply = t.reply := rfl
@[simp] theorem Strand.enter_faultVa (t : Strand) (c i : Nat) : (t.enter c i).faultVa = t.faultVa := rfl
@[simp] theorem Strand.enter_wakeAt (t : Strand) (c i : Nat) : (t.enter c i).wakeAt = t.wakeAt := rfl
@[simp] theorem Strand.enter_leaseEnd (t : Strand) (c i : Nat) : (t.enter c i).leaseEnd = t.leaseEnd := rfl
@[simp] theorem Strand.enter_record (t : Strand) (c i : Nat) : (t.enter c i).record = none := rfl

/-! ## Fields of a core -/

@[simp] theorem Core.onStrand_resident (k : Core) (f : Strand → Strand) : (k.onStrand f).resident = k.resident := rfl
@[simp] theorem Core.onStrand_fn (k : Core) (f : Strand → Strand) : (k.onStrand f).fn = k.fn := rfl
@[simp] theorem Core.onStrand_ctx (k : Core) (f : Strand → Strand) : (k.onStrand f).ctx = k.ctx := rfl
@[simp] theorem Core.onStrand_gang (k : Core) (f : Strand → Strand) : (k.onStrand f).gang = k.gang := rfl
@[simp] theorem Core.onStrand_rank (k : Core) (f : Strand → Strand) : (k.onStrand f).rank = k.rank := rfl
@[simp] theorem Core.onStrand_rings (k : Core) (f : Strand → Strand) : (k.onStrand f).rings = k.rings := rfl
@[simp] theorem Core.onStrand_pipes (k : Core) (f : Strand → Strand) : (k.onStrand f).pipes = k.pipes := rfl
@[simp] theorem Core.onStrand_lntActive (k : Core) (f : Strand → Strand) : (k.onStrand f).lntActive = k.lntActive := rfl
@[simp] theorem Core.onStrand_lntShadow (k : Core) (f : Strand → Strand) : (k.onStrand f).lntShadow = k.lntShadow := rfl
@[simp] theorem Core.onStrand_fmtTab (k : Core) (f : Strand → Strand) : (k.onStrand f).fmtTab = k.fmtTab := rfl
@[simp] theorem Core.onStrand_aliases (k : Core) (f : Strand → Strand) : (k.onStrand f).aliases = k.aliases := rfl
@[simp] theorem Core.onStrand_scratch (k : Core) (f : Strand → Strand) : (k.onStrand f).scratch = k.scratch := rfl
@[simp] theorem Core.onStrand_acc (k : Core) (f : Strand → Strand) : (k.onStrand f).acc = k.acc := rfl
@[simp] theorem Core.onStrand_accZero (k : Core) (f : Strand → Strand) : (k.onStrand f).accZero = k.accZero := rfl
@[simp] theorem Core.onStrand_gen (k : Core) (f : Strand → Strand) : (k.onStrand f).gen = k.gen := rfl
@[simp] theorem Core.onStrand_accLost (k : Core) (f : Strand → Strand) : (k.onStrand f).accLost = k.accLost := rfl
@[simp] theorem Core.onStrand_accGen (k : Core) (f : Strand → Strand) : (k.onStrand f).accGen = k.accGen := rfl
@[simp] theorem Core.onStrand_accFrom (k : Core) (f : Strand → Strand) : (k.onStrand f).accFrom = k.accFrom := rfl
@[simp] theorem Core.onStrand_pair01 (k : Core) (f : Strand → Strand) : (k.onStrand f).pair01 = k.pair01 := rfl
@[simp] theorem Core.onStrand_pair23 (k : Core) (f : Strand → Strand) : (k.onStrand f).pair23 = k.pair23 := rfl
@[simp] theorem Core.onStrand_mzseq (k : Core) (f : Strand → Strand) : (k.onStrand f).mzseq = k.mzseq := rfl
@[simp] theorem Core.onStrand_rowprog (k : Core) (f : Strand → Strand) : (k.onStrand f).rowprog = k.rowprog := rfl
@[simp] theorem Core.onStrand_uncommitted (k : Core) (f : Strand → Strand) : (k.onStrand f).uncommitted = k.uncommitted := rfl
@[simp] theorem Core.onStrand_unsettled (k : Core) (f : Strand → Strand) : (k.onStrand f).unsettled = k.unsettled := rfl
@[simp] theorem Core.onStrand_thunks (k : Core) (f : Strand → Strand) : (k.onStrand f).thunks = k.thunks := rfl
@[simp] theorem Core.onStrand_tlb (k : Core) (f : Strand → Strand) : (k.onStrand f).tlb = k.tlb := rfl
@[simp] theorem Core.onStrand_saveAsk (k : Core) (f : Strand → Strand) : (k.onStrand f).saveAsk = k.saveAsk := rfl
@[simp] theorem Core.onStrand_saveBy (k : Core) (f : Strand → Strand) : (k.onStrand f).saveBy = k.saveBy := rfl
@[simp] theorem Core.onStrand_saveBegun (k : Core) (f : Strand → Strand) : (k.onStrand f).saveBegun = k.saveBegun := rfl
@[simp] theorem Core.onStrand_saveFid (k : Core) (f : Strand → Strand) : (k.onStrand f).saveFid = k.saveFid := rfl
@[simp] theorem Core.onStrand_stored (k : Core) (f : Strand → Strand) : (k.onStrand f).stored = k.stored := rfl
@[simp] theorem Core.onStrand_pyldAt (k : Core) (f : Strand → Strand) : (k.onStrand f).pyldAt = k.pyldAt := rfl
@[simp] theorem Core.onStrand_startAt (k : Core) (f : Strand → Strand) : (k.onStrand f).startAt = k.startAt := rfl
@[simp] theorem Core.onStrand_inReset (k : Core) (f : Strand → Strand) : (k.onStrand f).inReset = k.inReset := rfl
@[simp] theorem Core.onStrand_strand (k : Core) (f : Strand → Strand) : (k.onStrand f).strand = f k.strand := rfl
@[simp] theorem Core.setRing_resident (k : Core) (r : Nat) (g : Ring) : (k.setRing r g).resident = k.resident := rfl
@[simp] theorem Core.setRing_fn (k : Core) (r : Nat) (g : Ring) : (k.setRing r g).fn = k.fn := rfl
@[simp] theorem Core.setRing_ctx (k : Core) (r : Nat) (g : Ring) : (k.setRing r g).ctx = k.ctx := rfl
@[simp] theorem Core.setRing_gang (k : Core) (r : Nat) (g : Ring) : (k.setRing r g).gang = k.gang := rfl
@[simp] theorem Core.setRing_rank (k : Core) (r : Nat) (g : Ring) : (k.setRing r g).rank = k.rank := rfl
@[simp] theorem Core.setRing_strand (k : Core) (r : Nat) (g : Ring) : (k.setRing r g).strand = k.strand := rfl
@[simp] theorem Core.setRing_pipes (k : Core) (r : Nat) (g : Ring) : (k.setRing r g).pipes = k.pipes := rfl
@[simp] theorem Core.setRing_lntActive (k : Core) (r : Nat) (g : Ring) : (k.setRing r g).lntActive = k.lntActive := rfl
@[simp] theorem Core.setRing_lntShadow (k : Core) (r : Nat) (g : Ring) : (k.setRing r g).lntShadow = k.lntShadow := rfl
@[simp] theorem Core.setRing_fmtTab (k : Core) (r : Nat) (g : Ring) : (k.setRing r g).fmtTab = k.fmtTab := rfl
@[simp] theorem Core.setRing_aliases (k : Core) (r : Nat) (g : Ring) : (k.setRing r g).aliases = k.aliases := rfl
@[simp] theorem Core.setRing_scratch (k : Core) (r : Nat) (g : Ring) : (k.setRing r g).scratch = k.scratch := rfl
@[simp] theorem Core.setRing_acc (k : Core) (r : Nat) (g : Ring) : (k.setRing r g).acc = k.acc := rfl
@[simp] theorem Core.setRing_accZero (k : Core) (r : Nat) (g : Ring) : (k.setRing r g).accZero = k.accZero := rfl
@[simp] theorem Core.setRing_gen (k : Core) (r : Nat) (g : Ring) : (k.setRing r g).gen = k.gen := rfl
@[simp] theorem Core.setRing_accLost (k : Core) (r : Nat) (g : Ring) : (k.setRing r g).accLost = k.accLost := rfl
@[simp] theorem Core.setRing_accGen (k : Core) (r : Nat) (g : Ring) : (k.setRing r g).accGen = k.accGen := rfl
@[simp] theorem Core.setRing_accFrom (k : Core) (r : Nat) (g : Ring) : (k.setRing r g).accFrom = k.accFrom := rfl
@[simp] theorem Core.setRing_pair01 (k : Core) (r : Nat) (g : Ring) : (k.setRing r g).pair01 = k.pair01 := rfl
@[simp] theorem Core.setRing_pair23 (k : Core) (r : Nat) (g : Ring) : (k.setRing r g).pair23 = k.pair23 := rfl
@[simp] theorem Core.setRing_mzseq (k : Core) (r : Nat) (g : Ring) : (k.setRing r g).mzseq = k.mzseq := rfl
@[simp] theorem Core.setRing_rowprog (k : Core) (r : Nat) (g : Ring) : (k.setRing r g).rowprog = k.rowprog := rfl
@[simp] theorem Core.setRing_uncommitted (k : Core) (r : Nat) (g : Ring) : (k.setRing r g).uncommitted = k.uncommitted := rfl
@[simp] theorem Core.setRing_unsettled (k : Core) (r : Nat) (g : Ring) : (k.setRing r g).unsettled = k.unsettled := rfl
@[simp] theorem Core.setRing_thunks (k : Core) (r : Nat) (g : Ring) : (k.setRing r g).thunks = k.thunks := rfl
@[simp] theorem Core.setRing_tlb (k : Core) (r : Nat) (g : Ring) : (k.setRing r g).tlb = k.tlb := rfl
@[simp] theorem Core.setRing_saveAsk (k : Core) (r : Nat) (g : Ring) : (k.setRing r g).saveAsk = k.saveAsk := rfl
@[simp] theorem Core.setRing_saveBy (k : Core) (r : Nat) (g : Ring) : (k.setRing r g).saveBy = k.saveBy := rfl
@[simp] theorem Core.setRing_saveBegun (k : Core) (r : Nat) (g : Ring) : (k.setRing r g).saveBegun = k.saveBegun := rfl
@[simp] theorem Core.setRing_saveFid (k : Core) (r : Nat) (g : Ring) : (k.setRing r g).saveFid = k.saveFid := rfl
@[simp] theorem Core.setRing_stored (k : Core) (r : Nat) (g : Ring) : (k.setRing r g).stored = k.stored := rfl
@[simp] theorem Core.setRing_pyldAt (k : Core) (r : Nat) (g : Ring) : (k.setRing r g).pyldAt = k.pyldAt := rfl
@[simp] theorem Core.setRing_startAt (k : Core) (r : Nat) (g : Ring) : (k.setRing r g).startAt = k.startAt := rfl
@[simp] theorem Core.setRing_inReset (k : Core) (r : Nat) (g : Ring) : (k.setRing r g).inReset = k.inReset := rfl

@[simp] theorem Core.ring_setRing_same (k : Core) (r : Nat) (g : Ring) : (k.setRing r g).ring r = g :=
  sget_sset_same (ringStart r) k.rings r g

theorem Core.ring_setRing_other (k : Core) (r i : Nat) (g : Ring) (h : i ≠ r) : (k.setRing r g).ring i = k.ring i := by
  simp only [Core.setRing, Core.ring]
  unfold sset
  split
  · exact sget_serase_other _ k.rings r i h
  · exact sget_sput_other _ k.rings r i g h

@[simp] theorem Core.ring_onStrand (k : Core) (f : Strand → Strand) (r : Nat) : (k.onStrand f).ring r = k.ring r := rfl

/-! ## Fields of the state -/

@[simp] theorem State.setCore_mem (s : State) (c : Nat) (k : Core) : (s.setCore c k).mem = s.mem := rfl
@[simp] theorem State.setCore_hostMem (s : State) (c : Nat) (k : Core) : (s.setCore c k).hostMem = s.hostMem := rfl
@[simp] theorem State.setCore_sems (s : State) (c : Nat) (k : Core) : (s.setCore c k).sems = s.sems := rfl
@[simp] theorem State.setCore_semWaiters (s : State) (c : Nat) (k : Core) : (s.setCore c k).semWaiters = s.semWaiters := rfl
@[simp] theorem State.setCore_fns (s : State) (c : Nat) (k : Core) : (s.setCore c k).fns = s.fns := rfl
@[simp] theorem State.setCore_ctxs (s : State) (c : Nat) (k : Core) : (s.setCore c k).ctxs = s.ctxs := rfl
@[simp] theorem State.setCore_nodes (s : State) (c : Nat) (k : Core) : (s.setCore c k).nodes = s.nodes := rfl
@[simp] theorem State.setCore_gangs (s : State) (c : Nat) (k : Core) : (s.setCore c k).gangs = s.gangs := rfl
@[simp] theorem State.setCore_parked (s : State) (c : Nat) (k : Core) : (s.setCore c k).parked = s.parked := rfl
@[simp] theorem State.setCore_clusters (s : State) (c : Nat) (k : Core) : (s.setCore c k).clusters = s.clusters := rfl
@[simp] theorem State.setCore_faults (s : State) (c : Nat) (k : Core) : (s.setCore c k).faults = s.faults := rfl
@[simp] theorem State.setCore_windows (s : State) (c : Nat) (k : Core) : (s.setCore c k).windows = s.windows := rfl
@[simp] theorem State.setCore_keys (s : State) (c : Nat) (k : Core) : (s.setCore c k).keys = s.keys := rfl
@[simp] theorem State.setCore_counters (s : State) (c : Nat) (k : Core) : (s.setCore c k).counters = s.counters := rfl
@[simp] theorem State.setCore_poison (s : State) (c : Nat) (k : Core) : (s.setCore c k).poison = s.poison := rfl
@[simp] theorem State.setCore_broken (s : State) (c : Nat) (k : Core) : (s.setCore c k).broken = s.broken := rfl
@[simp] theorem State.setCore_lines (s : State) (c : Nat) (k : Core) : (s.setCore c k).lines = s.lines := rfl
@[simp] theorem State.setCore_tier2 (s : State) (c : Nat) (k : Core) : (s.setCore c k).tier2 = s.tier2 := rfl
@[simp] theorem State.setCore_fabric (s : State) (c : Nat) (k : Core) : (s.setCore c k).fabric = s.fabric := rfl
@[simp] theorem State.setCore_power (s : State) (c : Nat) (k : Core) : (s.setCore c k).power = s.power := rfl
@[simp] theorem State.setCore_watts (s : State) (c : Nat) (k : Core) : (s.setCore c k).watts = s.watts := rfl
@[simp] theorem State.setCore_peakW (s : State) (c : Nat) (k : Core) : (s.setCore c k).peakW = s.peakW := rfl
@[simp] theorem State.setCore_banks (s : State) (c : Nat) (k : Core) : (s.setCore c k).banks = s.banks := rfl
@[simp] theorem State.setCore_start (s : State) (c : Nat) (k : Core) : (s.setCore c k).start = s.start := rfl
@[simp] theorem State.setCore_config (s : State) (c : Nat) (k : Core) : (s.setCore c k).config = s.config := rfl
@[simp] theorem State.setCore_retiredClusters (s : State) (c : Nat) (k : Core) : (s.setCore c k).retiredClusters = s.retiredClusters := rfl
@[simp] theorem State.setCore_retiredGroups (s : State) (c : Nat) (k : Core) : (s.setCore c k).retiredGroups = s.retiredGroups := rfl
@[simp] theorem State.setCore_retiredAgents (s : State) (c : Nat) (k : Core) : (s.setCore c k).retiredAgents = s.retiredAgents := rfl
@[simp] theorem State.setCore_reroutedLinks (s : State) (c : Nat) (k : Core) : (s.setCore c k).reroutedLinks = s.reroutedLinks := rfl
@[simp] theorem State.setCore_movingLinks (s : State) (c : Nat) (k : Core) : (s.setCore c k).movingLinks = s.movingLinks := rfl
@[simp] theorem State.setCore_slice (s : State) (c : Nat) (k : Core) : (s.setCore c k).slice = s.slice := rfl
@[simp] theorem State.setCore_pdl (s : State) (c : Nat) (k : Core) : (s.setCore c k).pdl = s.pdl := rfl
@[simp] theorem State.setCore_wdog (s : State) (c : Nat) (k : Core) : (s.setCore c k).wdog = s.wdog := rfl
@[simp] theorem State.setCore_rollPeriod (s : State) (c : Nat) (k : Core) : (s.setCore c k).rollPeriod = s.rollPeriod := rfl
@[simp] theorem State.setCore_injectors (s : State) (c : Nat) (k : Core) : (s.setCore c k).injectors = s.injectors := rfl
@[simp] theorem State.setCore_dieResets (s : State) (c : Nat) (k : Core) : (s.setCore c k).dieResets = s.dieResets := rfl
@[simp] theorem State.setCore_pending (s : State) (c : Nat) (k : Core) : (s.setCore c k).pending = s.pending := rfl
@[simp] theorem State.setCore_agents (s : State) (c : Nat) (k : Core) : (s.setCore c k).agents = s.agents := rfl
@[simp] theorem State.setCore_hostsAtoms (s : State) (c : Nat) (k : Core) : (s.setCore c k).hostsAtoms = s.hostsAtoms := rfl
@[simp] theorem State.setCore_nextGang (s : State) (c : Nat) (k : Core) : (s.setCore c k).nextGang = s.nextGang := rfl
@[simp] theorem State.setCore_nextOrder (s : State) (c : Nat) (k : Core) : (s.setCore c k).nextOrder = s.nextOrder := rfl
@[simp] theorem State.setCore_answer (s : State) (c : Nat) (k : Core) : (s.setCore c k).answer = s.answer := rfl
@[simp] theorem State.setCore_answerStatus (s : State) (c : Nat) (k : Core) : (s.setCore c k).answerStatus = s.answerStatus := rfl
@[simp] theorem State.setCore_msix (s : State) (c : Nat) (k : Core) : (s.setCore c k).msix = s.msix := rfl
@[simp] theorem State.setCore_cycle (s : State) (c : Nat) (k : Core) : (s.setCore c k).cycle = s.cycle := rfl
@[simp] theorem State.setCore_tick (s : State) (c : Nat) (k : Core) : (s.setCore c k).tick = s.tick := rfl
@[simp] theorem State.setCore_inputs (s : State) (c : Nat) (k : Core) : (s.setCore c k).inputs = s.inputs := rfl
@[simp] theorem State.setCore_actor (s : State) (c : Nat) (k : Core) : (s.setCore c k).actor = s.actor := rfl

@[simp] theorem State.onFn_cores (s : State) (i : Nat) (g : Fn → Fn) : (s.onFn i g).cores = s.cores := rfl
@[simp] theorem State.onFn_mem (s : State) (i : Nat) (g : Fn → Fn) : (s.onFn i g).mem = s.mem := rfl
@[simp] theorem State.onFn_hostMem (s : State) (i : Nat) (g : Fn → Fn) : (s.onFn i g).hostMem = s.hostMem := rfl
@[simp] theorem State.onFn_sems (s : State) (i : Nat) (g : Fn → Fn) : (s.onFn i g).sems = s.sems := rfl
@[simp] theorem State.onFn_semWaiters (s : State) (i : Nat) (g : Fn → Fn) : (s.onFn i g).semWaiters = s.semWaiters := rfl
@[simp] theorem State.onFn_ctxs (s : State) (i : Nat) (g : Fn → Fn) : (s.onFn i g).ctxs = s.ctxs := rfl
@[simp] theorem State.onFn_nodes (s : State) (i : Nat) (g : Fn → Fn) : (s.onFn i g).nodes = s.nodes := rfl
@[simp] theorem State.onFn_gangs (s : State) (i : Nat) (g : Fn → Fn) : (s.onFn i g).gangs = s.gangs := rfl
@[simp] theorem State.onFn_parked (s : State) (i : Nat) (g : Fn → Fn) : (s.onFn i g).parked = s.parked := rfl
@[simp] theorem State.onFn_clusters (s : State) (i : Nat) (g : Fn → Fn) : (s.onFn i g).clusters = s.clusters := rfl
@[simp] theorem State.onFn_faults (s : State) (i : Nat) (g : Fn → Fn) : (s.onFn i g).faults = s.faults := rfl
@[simp] theorem State.onFn_windows (s : State) (i : Nat) (g : Fn → Fn) : (s.onFn i g).windows = s.windows := rfl
@[simp] theorem State.onFn_keys (s : State) (i : Nat) (g : Fn → Fn) : (s.onFn i g).keys = s.keys := rfl
@[simp] theorem State.onFn_counters (s : State) (i : Nat) (g : Fn → Fn) : (s.onFn i g).counters = s.counters := rfl
@[simp] theorem State.onFn_poison (s : State) (i : Nat) (g : Fn → Fn) : (s.onFn i g).poison = s.poison := rfl
@[simp] theorem State.onFn_broken (s : State) (i : Nat) (g : Fn → Fn) : (s.onFn i g).broken = s.broken := rfl
@[simp] theorem State.onFn_lines (s : State) (i : Nat) (g : Fn → Fn) : (s.onFn i g).lines = s.lines := rfl
@[simp] theorem State.onFn_tier2 (s : State) (i : Nat) (g : Fn → Fn) : (s.onFn i g).tier2 = s.tier2 := rfl
@[simp] theorem State.onFn_fabric (s : State) (i : Nat) (g : Fn → Fn) : (s.onFn i g).fabric = s.fabric := rfl
@[simp] theorem State.onFn_power (s : State) (i : Nat) (g : Fn → Fn) : (s.onFn i g).power = s.power := rfl
@[simp] theorem State.onFn_watts (s : State) (i : Nat) (g : Fn → Fn) : (s.onFn i g).watts = s.watts := rfl
@[simp] theorem State.onFn_peakW (s : State) (i : Nat) (g : Fn → Fn) : (s.onFn i g).peakW = s.peakW := rfl
@[simp] theorem State.onFn_banks (s : State) (i : Nat) (g : Fn → Fn) : (s.onFn i g).banks = s.banks := rfl
@[simp] theorem State.onFn_start (s : State) (i : Nat) (g : Fn → Fn) : (s.onFn i g).start = s.start := rfl
@[simp] theorem State.onFn_config (s : State) (i : Nat) (g : Fn → Fn) : (s.onFn i g).config = s.config := rfl
@[simp] theorem State.onFn_retiredClusters (s : State) (i : Nat) (g : Fn → Fn) : (s.onFn i g).retiredClusters = s.retiredClusters := rfl
@[simp] theorem State.onFn_retiredGroups (s : State) (i : Nat) (g : Fn → Fn) : (s.onFn i g).retiredGroups = s.retiredGroups := rfl
@[simp] theorem State.onFn_retiredAgents (s : State) (i : Nat) (g : Fn → Fn) : (s.onFn i g).retiredAgents = s.retiredAgents := rfl
@[simp] theorem State.onFn_reroutedLinks (s : State) (i : Nat) (g : Fn → Fn) : (s.onFn i g).reroutedLinks = s.reroutedLinks := rfl
@[simp] theorem State.onFn_movingLinks (s : State) (i : Nat) (g : Fn → Fn) : (s.onFn i g).movingLinks = s.movingLinks := rfl
@[simp] theorem State.onFn_slice (s : State) (i : Nat) (g : Fn → Fn) : (s.onFn i g).slice = s.slice := rfl
@[simp] theorem State.onFn_pdl (s : State) (i : Nat) (g : Fn → Fn) : (s.onFn i g).pdl = s.pdl := rfl
@[simp] theorem State.onFn_wdog (s : State) (i : Nat) (g : Fn → Fn) : (s.onFn i g).wdog = s.wdog := rfl
@[simp] theorem State.onFn_rollPeriod (s : State) (i : Nat) (g : Fn → Fn) : (s.onFn i g).rollPeriod = s.rollPeriod := rfl
@[simp] theorem State.onFn_injectors (s : State) (i : Nat) (g : Fn → Fn) : (s.onFn i g).injectors = s.injectors := rfl
@[simp] theorem State.onFn_dieResets (s : State) (i : Nat) (g : Fn → Fn) : (s.onFn i g).dieResets = s.dieResets := rfl
@[simp] theorem State.onFn_pending (s : State) (i : Nat) (g : Fn → Fn) : (s.onFn i g).pending = s.pending := rfl
@[simp] theorem State.onFn_agents (s : State) (i : Nat) (g : Fn → Fn) : (s.onFn i g).agents = s.agents := rfl
@[simp] theorem State.onFn_hostsAtoms (s : State) (i : Nat) (g : Fn → Fn) : (s.onFn i g).hostsAtoms = s.hostsAtoms := rfl
@[simp] theorem State.onFn_nextGang (s : State) (i : Nat) (g : Fn → Fn) : (s.onFn i g).nextGang = s.nextGang := rfl
@[simp] theorem State.onFn_nextOrder (s : State) (i : Nat) (g : Fn → Fn) : (s.onFn i g).nextOrder = s.nextOrder := rfl
@[simp] theorem State.onFn_answer (s : State) (i : Nat) (g : Fn → Fn) : (s.onFn i g).answer = s.answer := rfl
@[simp] theorem State.onFn_answerStatus (s : State) (i : Nat) (g : Fn → Fn) : (s.onFn i g).answerStatus = s.answerStatus := rfl
@[simp] theorem State.onFn_msix (s : State) (i : Nat) (g : Fn → Fn) : (s.onFn i g).msix = s.msix := rfl
@[simp] theorem State.onFn_cycle (s : State) (i : Nat) (g : Fn → Fn) : (s.onFn i g).cycle = s.cycle := rfl
@[simp] theorem State.onFn_tick (s : State) (i : Nat) (g : Fn → Fn) : (s.onFn i g).tick = s.tick := rfl
@[simp] theorem State.onFn_inputs (s : State) (i : Nat) (g : Fn → Fn) : (s.onFn i g).inputs = s.inputs := rfl
@[simp] theorem State.onFn_actor (s : State) (i : Nat) (g : Fn → Fn) : (s.onFn i g).actor = s.actor := rfl

@[simp] theorem State.onCtx_cores (s : State) (i : Nat) (g : Ctx → Ctx) : (s.onCtx i g).cores = s.cores := rfl
@[simp] theorem State.onCtx_mem (s : State) (i : Nat) (g : Ctx → Ctx) : (s.onCtx i g).mem = s.mem := rfl
@[simp] theorem State.onCtx_hostMem (s : State) (i : Nat) (g : Ctx → Ctx) : (s.onCtx i g).hostMem = s.hostMem := rfl
@[simp] theorem State.onCtx_sems (s : State) (i : Nat) (g : Ctx → Ctx) : (s.onCtx i g).sems = s.sems := rfl
@[simp] theorem State.onCtx_semWaiters (s : State) (i : Nat) (g : Ctx → Ctx) : (s.onCtx i g).semWaiters = s.semWaiters := rfl
@[simp] theorem State.onCtx_fns (s : State) (i : Nat) (g : Ctx → Ctx) : (s.onCtx i g).fns = s.fns := rfl
@[simp] theorem State.onCtx_nodes (s : State) (i : Nat) (g : Ctx → Ctx) : (s.onCtx i g).nodes = s.nodes := rfl
@[simp] theorem State.onCtx_gangs (s : State) (i : Nat) (g : Ctx → Ctx) : (s.onCtx i g).gangs = s.gangs := rfl
@[simp] theorem State.onCtx_parked (s : State) (i : Nat) (g : Ctx → Ctx) : (s.onCtx i g).parked = s.parked := rfl
@[simp] theorem State.onCtx_clusters (s : State) (i : Nat) (g : Ctx → Ctx) : (s.onCtx i g).clusters = s.clusters := rfl
@[simp] theorem State.onCtx_faults (s : State) (i : Nat) (g : Ctx → Ctx) : (s.onCtx i g).faults = s.faults := rfl
@[simp] theorem State.onCtx_windows (s : State) (i : Nat) (g : Ctx → Ctx) : (s.onCtx i g).windows = s.windows := rfl
@[simp] theorem State.onCtx_keys (s : State) (i : Nat) (g : Ctx → Ctx) : (s.onCtx i g).keys = s.keys := rfl
@[simp] theorem State.onCtx_counters (s : State) (i : Nat) (g : Ctx → Ctx) : (s.onCtx i g).counters = s.counters := rfl
@[simp] theorem State.onCtx_poison (s : State) (i : Nat) (g : Ctx → Ctx) : (s.onCtx i g).poison = s.poison := rfl
@[simp] theorem State.onCtx_broken (s : State) (i : Nat) (g : Ctx → Ctx) : (s.onCtx i g).broken = s.broken := rfl
@[simp] theorem State.onCtx_lines (s : State) (i : Nat) (g : Ctx → Ctx) : (s.onCtx i g).lines = s.lines := rfl
@[simp] theorem State.onCtx_tier2 (s : State) (i : Nat) (g : Ctx → Ctx) : (s.onCtx i g).tier2 = s.tier2 := rfl
@[simp] theorem State.onCtx_fabric (s : State) (i : Nat) (g : Ctx → Ctx) : (s.onCtx i g).fabric = s.fabric := rfl
@[simp] theorem State.onCtx_power (s : State) (i : Nat) (g : Ctx → Ctx) : (s.onCtx i g).power = s.power := rfl
@[simp] theorem State.onCtx_watts (s : State) (i : Nat) (g : Ctx → Ctx) : (s.onCtx i g).watts = s.watts := rfl
@[simp] theorem State.onCtx_peakW (s : State) (i : Nat) (g : Ctx → Ctx) : (s.onCtx i g).peakW = s.peakW := rfl
@[simp] theorem State.onCtx_banks (s : State) (i : Nat) (g : Ctx → Ctx) : (s.onCtx i g).banks = s.banks := rfl
@[simp] theorem State.onCtx_start (s : State) (i : Nat) (g : Ctx → Ctx) : (s.onCtx i g).start = s.start := rfl
@[simp] theorem State.onCtx_config (s : State) (i : Nat) (g : Ctx → Ctx) : (s.onCtx i g).config = s.config := rfl
@[simp] theorem State.onCtx_retiredClusters (s : State) (i : Nat) (g : Ctx → Ctx) : (s.onCtx i g).retiredClusters = s.retiredClusters := rfl
@[simp] theorem State.onCtx_retiredGroups (s : State) (i : Nat) (g : Ctx → Ctx) : (s.onCtx i g).retiredGroups = s.retiredGroups := rfl
@[simp] theorem State.onCtx_retiredAgents (s : State) (i : Nat) (g : Ctx → Ctx) : (s.onCtx i g).retiredAgents = s.retiredAgents := rfl
@[simp] theorem State.onCtx_reroutedLinks (s : State) (i : Nat) (g : Ctx → Ctx) : (s.onCtx i g).reroutedLinks = s.reroutedLinks := rfl
@[simp] theorem State.onCtx_movingLinks (s : State) (i : Nat) (g : Ctx → Ctx) : (s.onCtx i g).movingLinks = s.movingLinks := rfl
@[simp] theorem State.onCtx_slice (s : State) (i : Nat) (g : Ctx → Ctx) : (s.onCtx i g).slice = s.slice := rfl
@[simp] theorem State.onCtx_pdl (s : State) (i : Nat) (g : Ctx → Ctx) : (s.onCtx i g).pdl = s.pdl := rfl
@[simp] theorem State.onCtx_wdog (s : State) (i : Nat) (g : Ctx → Ctx) : (s.onCtx i g).wdog = s.wdog := rfl
@[simp] theorem State.onCtx_rollPeriod (s : State) (i : Nat) (g : Ctx → Ctx) : (s.onCtx i g).rollPeriod = s.rollPeriod := rfl
@[simp] theorem State.onCtx_injectors (s : State) (i : Nat) (g : Ctx → Ctx) : (s.onCtx i g).injectors = s.injectors := rfl
@[simp] theorem State.onCtx_dieResets (s : State) (i : Nat) (g : Ctx → Ctx) : (s.onCtx i g).dieResets = s.dieResets := rfl
@[simp] theorem State.onCtx_pending (s : State) (i : Nat) (g : Ctx → Ctx) : (s.onCtx i g).pending = s.pending := rfl
@[simp] theorem State.onCtx_agents (s : State) (i : Nat) (g : Ctx → Ctx) : (s.onCtx i g).agents = s.agents := rfl
@[simp] theorem State.onCtx_hostsAtoms (s : State) (i : Nat) (g : Ctx → Ctx) : (s.onCtx i g).hostsAtoms = s.hostsAtoms := rfl
@[simp] theorem State.onCtx_nextGang (s : State) (i : Nat) (g : Ctx → Ctx) : (s.onCtx i g).nextGang = s.nextGang := rfl
@[simp] theorem State.onCtx_nextOrder (s : State) (i : Nat) (g : Ctx → Ctx) : (s.onCtx i g).nextOrder = s.nextOrder := rfl
@[simp] theorem State.onCtx_answer (s : State) (i : Nat) (g : Ctx → Ctx) : (s.onCtx i g).answer = s.answer := rfl
@[simp] theorem State.onCtx_answerStatus (s : State) (i : Nat) (g : Ctx → Ctx) : (s.onCtx i g).answerStatus = s.answerStatus := rfl
@[simp] theorem State.onCtx_msix (s : State) (i : Nat) (g : Ctx → Ctx) : (s.onCtx i g).msix = s.msix := rfl
@[simp] theorem State.onCtx_cycle (s : State) (i : Nat) (g : Ctx → Ctx) : (s.onCtx i g).cycle = s.cycle := rfl
@[simp] theorem State.onCtx_tick (s : State) (i : Nat) (g : Ctx → Ctx) : (s.onCtx i g).tick = s.tick := rfl
@[simp] theorem State.onCtx_inputs (s : State) (i : Nat) (g : Ctx → Ctx) : (s.onCtx i g).inputs = s.inputs := rfl
@[simp] theorem State.onCtx_actor (s : State) (i : Nat) (g : Ctx → Ctx) : (s.onCtx i g).actor = s.actor := rfl

@[simp] theorem State.onGang_cores (s : State) (i : Nat) (g : Gang → Gang) : (s.onGang i g).cores = s.cores := rfl
@[simp] theorem State.onGang_mem (s : State) (i : Nat) (g : Gang → Gang) : (s.onGang i g).mem = s.mem := rfl
@[simp] theorem State.onGang_hostMem (s : State) (i : Nat) (g : Gang → Gang) : (s.onGang i g).hostMem = s.hostMem := rfl
@[simp] theorem State.onGang_sems (s : State) (i : Nat) (g : Gang → Gang) : (s.onGang i g).sems = s.sems := rfl
@[simp] theorem State.onGang_semWaiters (s : State) (i : Nat) (g : Gang → Gang) : (s.onGang i g).semWaiters = s.semWaiters := rfl
@[simp] theorem State.onGang_fns (s : State) (i : Nat) (g : Gang → Gang) : (s.onGang i g).fns = s.fns := rfl
@[simp] theorem State.onGang_ctxs (s : State) (i : Nat) (g : Gang → Gang) : (s.onGang i g).ctxs = s.ctxs := rfl
@[simp] theorem State.onGang_nodes (s : State) (i : Nat) (g : Gang → Gang) : (s.onGang i g).nodes = s.nodes := rfl
@[simp] theorem State.onGang_parked (s : State) (i : Nat) (g : Gang → Gang) : (s.onGang i g).parked = s.parked := rfl
@[simp] theorem State.onGang_clusters (s : State) (i : Nat) (g : Gang → Gang) : (s.onGang i g).clusters = s.clusters := rfl
@[simp] theorem State.onGang_faults (s : State) (i : Nat) (g : Gang → Gang) : (s.onGang i g).faults = s.faults := rfl
@[simp] theorem State.onGang_windows (s : State) (i : Nat) (g : Gang → Gang) : (s.onGang i g).windows = s.windows := rfl
@[simp] theorem State.onGang_keys (s : State) (i : Nat) (g : Gang → Gang) : (s.onGang i g).keys = s.keys := rfl
@[simp] theorem State.onGang_counters (s : State) (i : Nat) (g : Gang → Gang) : (s.onGang i g).counters = s.counters := rfl
@[simp] theorem State.onGang_poison (s : State) (i : Nat) (g : Gang → Gang) : (s.onGang i g).poison = s.poison := rfl
@[simp] theorem State.onGang_broken (s : State) (i : Nat) (g : Gang → Gang) : (s.onGang i g).broken = s.broken := rfl
@[simp] theorem State.onGang_lines (s : State) (i : Nat) (g : Gang → Gang) : (s.onGang i g).lines = s.lines := rfl
@[simp] theorem State.onGang_tier2 (s : State) (i : Nat) (g : Gang → Gang) : (s.onGang i g).tier2 = s.tier2 := rfl
@[simp] theorem State.onGang_fabric (s : State) (i : Nat) (g : Gang → Gang) : (s.onGang i g).fabric = s.fabric := rfl
@[simp] theorem State.onGang_power (s : State) (i : Nat) (g : Gang → Gang) : (s.onGang i g).power = s.power := rfl
@[simp] theorem State.onGang_watts (s : State) (i : Nat) (g : Gang → Gang) : (s.onGang i g).watts = s.watts := rfl
@[simp] theorem State.onGang_peakW (s : State) (i : Nat) (g : Gang → Gang) : (s.onGang i g).peakW = s.peakW := rfl
@[simp] theorem State.onGang_banks (s : State) (i : Nat) (g : Gang → Gang) : (s.onGang i g).banks = s.banks := rfl
@[simp] theorem State.onGang_start (s : State) (i : Nat) (g : Gang → Gang) : (s.onGang i g).start = s.start := rfl
@[simp] theorem State.onGang_config (s : State) (i : Nat) (g : Gang → Gang) : (s.onGang i g).config = s.config := rfl
@[simp] theorem State.onGang_retiredClusters (s : State) (i : Nat) (g : Gang → Gang) : (s.onGang i g).retiredClusters = s.retiredClusters := rfl
@[simp] theorem State.onGang_retiredGroups (s : State) (i : Nat) (g : Gang → Gang) : (s.onGang i g).retiredGroups = s.retiredGroups := rfl
@[simp] theorem State.onGang_retiredAgents (s : State) (i : Nat) (g : Gang → Gang) : (s.onGang i g).retiredAgents = s.retiredAgents := rfl
@[simp] theorem State.onGang_reroutedLinks (s : State) (i : Nat) (g : Gang → Gang) : (s.onGang i g).reroutedLinks = s.reroutedLinks := rfl
@[simp] theorem State.onGang_movingLinks (s : State) (i : Nat) (g : Gang → Gang) : (s.onGang i g).movingLinks = s.movingLinks := rfl
@[simp] theorem State.onGang_slice (s : State) (i : Nat) (g : Gang → Gang) : (s.onGang i g).slice = s.slice := rfl
@[simp] theorem State.onGang_pdl (s : State) (i : Nat) (g : Gang → Gang) : (s.onGang i g).pdl = s.pdl := rfl
@[simp] theorem State.onGang_wdog (s : State) (i : Nat) (g : Gang → Gang) : (s.onGang i g).wdog = s.wdog := rfl
@[simp] theorem State.onGang_rollPeriod (s : State) (i : Nat) (g : Gang → Gang) : (s.onGang i g).rollPeriod = s.rollPeriod := rfl
@[simp] theorem State.onGang_injectors (s : State) (i : Nat) (g : Gang → Gang) : (s.onGang i g).injectors = s.injectors := rfl
@[simp] theorem State.onGang_dieResets (s : State) (i : Nat) (g : Gang → Gang) : (s.onGang i g).dieResets = s.dieResets := rfl
@[simp] theorem State.onGang_pending (s : State) (i : Nat) (g : Gang → Gang) : (s.onGang i g).pending = s.pending := rfl
@[simp] theorem State.onGang_agents (s : State) (i : Nat) (g : Gang → Gang) : (s.onGang i g).agents = s.agents := rfl
@[simp] theorem State.onGang_hostsAtoms (s : State) (i : Nat) (g : Gang → Gang) : (s.onGang i g).hostsAtoms = s.hostsAtoms := rfl
@[simp] theorem State.onGang_nextGang (s : State) (i : Nat) (g : Gang → Gang) : (s.onGang i g).nextGang = s.nextGang := rfl
@[simp] theorem State.onGang_nextOrder (s : State) (i : Nat) (g : Gang → Gang) : (s.onGang i g).nextOrder = s.nextOrder := rfl
@[simp] theorem State.onGang_answer (s : State) (i : Nat) (g : Gang → Gang) : (s.onGang i g).answer = s.answer := rfl
@[simp] theorem State.onGang_answerStatus (s : State) (i : Nat) (g : Gang → Gang) : (s.onGang i g).answerStatus = s.answerStatus := rfl
@[simp] theorem State.onGang_msix (s : State) (i : Nat) (g : Gang → Gang) : (s.onGang i g).msix = s.msix := rfl
@[simp] theorem State.onGang_cycle (s : State) (i : Nat) (g : Gang → Gang) : (s.onGang i g).cycle = s.cycle := rfl
@[simp] theorem State.onGang_tick (s : State) (i : Nat) (g : Gang → Gang) : (s.onGang i g).tick = s.tick := rfl
@[simp] theorem State.onGang_inputs (s : State) (i : Nat) (g : Gang → Gang) : (s.onGang i g).inputs = s.inputs := rfl
@[simp] theorem State.onGang_actor (s : State) (i : Nat) (g : Gang → Gang) : (s.onGang i g).actor = s.actor := rfl

@[simp] theorem State.onNode_cores (s : State) (a b c : Nat) (g : TaskNode → TaskNode) : (s.onNode a b c g).cores = s.cores := rfl
@[simp] theorem State.onNode_mem (s : State) (a b c : Nat) (g : TaskNode → TaskNode) : (s.onNode a b c g).mem = s.mem := rfl
@[simp] theorem State.onNode_hostMem (s : State) (a b c : Nat) (g : TaskNode → TaskNode) : (s.onNode a b c g).hostMem = s.hostMem := rfl
@[simp] theorem State.onNode_sems (s : State) (a b c : Nat) (g : TaskNode → TaskNode) : (s.onNode a b c g).sems = s.sems := rfl
@[simp] theorem State.onNode_semWaiters (s : State) (a b c : Nat) (g : TaskNode → TaskNode) : (s.onNode a b c g).semWaiters = s.semWaiters := rfl
@[simp] theorem State.onNode_fns (s : State) (a b c : Nat) (g : TaskNode → TaskNode) : (s.onNode a b c g).fns = s.fns := rfl
@[simp] theorem State.onNode_ctxs (s : State) (a b c : Nat) (g : TaskNode → TaskNode) : (s.onNode a b c g).ctxs = s.ctxs := rfl
@[simp] theorem State.onNode_gangs (s : State) (a b c : Nat) (g : TaskNode → TaskNode) : (s.onNode a b c g).gangs = s.gangs := rfl
@[simp] theorem State.onNode_parked (s : State) (a b c : Nat) (g : TaskNode → TaskNode) : (s.onNode a b c g).parked = s.parked := rfl
@[simp] theorem State.onNode_clusters (s : State) (a b c : Nat) (g : TaskNode → TaskNode) : (s.onNode a b c g).clusters = s.clusters := rfl
@[simp] theorem State.onNode_faults (s : State) (a b c : Nat) (g : TaskNode → TaskNode) : (s.onNode a b c g).faults = s.faults := rfl
@[simp] theorem State.onNode_windows (s : State) (a b c : Nat) (g : TaskNode → TaskNode) : (s.onNode a b c g).windows = s.windows := rfl
@[simp] theorem State.onNode_keys (s : State) (a b c : Nat) (g : TaskNode → TaskNode) : (s.onNode a b c g).keys = s.keys := rfl
@[simp] theorem State.onNode_counters (s : State) (a b c : Nat) (g : TaskNode → TaskNode) : (s.onNode a b c g).counters = s.counters := rfl
@[simp] theorem State.onNode_poison (s : State) (a b c : Nat) (g : TaskNode → TaskNode) : (s.onNode a b c g).poison = s.poison := rfl
@[simp] theorem State.onNode_broken (s : State) (a b c : Nat) (g : TaskNode → TaskNode) : (s.onNode a b c g).broken = s.broken := rfl
@[simp] theorem State.onNode_lines (s : State) (a b c : Nat) (g : TaskNode → TaskNode) : (s.onNode a b c g).lines = s.lines := rfl
@[simp] theorem State.onNode_tier2 (s : State) (a b c : Nat) (g : TaskNode → TaskNode) : (s.onNode a b c g).tier2 = s.tier2 := rfl
@[simp] theorem State.onNode_fabric (s : State) (a b c : Nat) (g : TaskNode → TaskNode) : (s.onNode a b c g).fabric = s.fabric := rfl
@[simp] theorem State.onNode_power (s : State) (a b c : Nat) (g : TaskNode → TaskNode) : (s.onNode a b c g).power = s.power := rfl
@[simp] theorem State.onNode_watts (s : State) (a b c : Nat) (g : TaskNode → TaskNode) : (s.onNode a b c g).watts = s.watts := rfl
@[simp] theorem State.onNode_peakW (s : State) (a b c : Nat) (g : TaskNode → TaskNode) : (s.onNode a b c g).peakW = s.peakW := rfl
@[simp] theorem State.onNode_banks (s : State) (a b c : Nat) (g : TaskNode → TaskNode) : (s.onNode a b c g).banks = s.banks := rfl
@[simp] theorem State.onNode_start (s : State) (a b c : Nat) (g : TaskNode → TaskNode) : (s.onNode a b c g).start = s.start := rfl
@[simp] theorem State.onNode_config (s : State) (a b c : Nat) (g : TaskNode → TaskNode) : (s.onNode a b c g).config = s.config := rfl
@[simp] theorem State.onNode_retiredClusters (s : State) (a b c : Nat) (g : TaskNode → TaskNode) : (s.onNode a b c g).retiredClusters = s.retiredClusters := rfl
@[simp] theorem State.onNode_retiredGroups (s : State) (a b c : Nat) (g : TaskNode → TaskNode) : (s.onNode a b c g).retiredGroups = s.retiredGroups := rfl
@[simp] theorem State.onNode_retiredAgents (s : State) (a b c : Nat) (g : TaskNode → TaskNode) : (s.onNode a b c g).retiredAgents = s.retiredAgents := rfl
@[simp] theorem State.onNode_reroutedLinks (s : State) (a b c : Nat) (g : TaskNode → TaskNode) : (s.onNode a b c g).reroutedLinks = s.reroutedLinks := rfl
@[simp] theorem State.onNode_movingLinks (s : State) (a b c : Nat) (g : TaskNode → TaskNode) : (s.onNode a b c g).movingLinks = s.movingLinks := rfl
@[simp] theorem State.onNode_slice (s : State) (a b c : Nat) (g : TaskNode → TaskNode) : (s.onNode a b c g).slice = s.slice := rfl
@[simp] theorem State.onNode_pdl (s : State) (a b c : Nat) (g : TaskNode → TaskNode) : (s.onNode a b c g).pdl = s.pdl := rfl
@[simp] theorem State.onNode_wdog (s : State) (a b c : Nat) (g : TaskNode → TaskNode) : (s.onNode a b c g).wdog = s.wdog := rfl
@[simp] theorem State.onNode_rollPeriod (s : State) (a b c : Nat) (g : TaskNode → TaskNode) : (s.onNode a b c g).rollPeriod = s.rollPeriod := rfl
@[simp] theorem State.onNode_injectors (s : State) (a b c : Nat) (g : TaskNode → TaskNode) : (s.onNode a b c g).injectors = s.injectors := rfl
@[simp] theorem State.onNode_dieResets (s : State) (a b c : Nat) (g : TaskNode → TaskNode) : (s.onNode a b c g).dieResets = s.dieResets := rfl
@[simp] theorem State.onNode_pending (s : State) (a b c : Nat) (g : TaskNode → TaskNode) : (s.onNode a b c g).pending = s.pending := rfl
@[simp] theorem State.onNode_agents (s : State) (a b c : Nat) (g : TaskNode → TaskNode) : (s.onNode a b c g).agents = s.agents := rfl
@[simp] theorem State.onNode_hostsAtoms (s : State) (a b c : Nat) (g : TaskNode → TaskNode) : (s.onNode a b c g).hostsAtoms = s.hostsAtoms := rfl
@[simp] theorem State.onNode_nextGang (s : State) (a b c : Nat) (g : TaskNode → TaskNode) : (s.onNode a b c g).nextGang = s.nextGang := rfl
@[simp] theorem State.onNode_nextOrder (s : State) (a b c : Nat) (g : TaskNode → TaskNode) : (s.onNode a b c g).nextOrder = s.nextOrder := rfl
@[simp] theorem State.onNode_answer (s : State) (a b c : Nat) (g : TaskNode → TaskNode) : (s.onNode a b c g).answer = s.answer := rfl
@[simp] theorem State.onNode_answerStatus (s : State) (a b c : Nat) (g : TaskNode → TaskNode) : (s.onNode a b c g).answerStatus = s.answerStatus := rfl
@[simp] theorem State.onNode_msix (s : State) (a b c : Nat) (g : TaskNode → TaskNode) : (s.onNode a b c g).msix = s.msix := rfl
@[simp] theorem State.onNode_cycle (s : State) (a b c : Nat) (g : TaskNode → TaskNode) : (s.onNode a b c g).cycle = s.cycle := rfl
@[simp] theorem State.onNode_tick (s : State) (a b c : Nat) (g : TaskNode → TaskNode) : (s.onNode a b c g).tick = s.tick := rfl
@[simp] theorem State.onNode_inputs (s : State) (a b c : Nat) (g : TaskNode → TaskNode) : (s.onNode a b c g).inputs = s.inputs := rfl
@[simp] theorem State.onNode_actor (s : State) (a b c : Nat) (g : TaskNode → TaskNode) : (s.onNode a b c g).actor = s.actor := rfl

@[simp] theorem State.onStrand_mem (s : State) (f : Strand → Strand) : (s.onStrand f).mem = s.mem := rfl
@[simp] theorem State.onStrand_hostMem (s : State) (f : Strand → Strand) : (s.onStrand f).hostMem = s.hostMem := rfl
@[simp] theorem State.onStrand_sems (s : State) (f : Strand → Strand) : (s.onStrand f).sems = s.sems := rfl
@[simp] theorem State.onStrand_semWaiters (s : State) (f : Strand → Strand) : (s.onStrand f).semWaiters = s.semWaiters := rfl
@[simp] theorem State.onStrand_fns (s : State) (f : Strand → Strand) : (s.onStrand f).fns = s.fns := rfl
@[simp] theorem State.onStrand_ctxs (s : State) (f : Strand → Strand) : (s.onStrand f).ctxs = s.ctxs := rfl
@[simp] theorem State.onStrand_nodes (s : State) (f : Strand → Strand) : (s.onStrand f).nodes = s.nodes := rfl
@[simp] theorem State.onStrand_gangs (s : State) (f : Strand → Strand) : (s.onStrand f).gangs = s.gangs := rfl
@[simp] theorem State.onStrand_parked (s : State) (f : Strand → Strand) : (s.onStrand f).parked = s.parked := rfl
@[simp] theorem State.onStrand_clusters (s : State) (f : Strand → Strand) : (s.onStrand f).clusters = s.clusters := rfl
@[simp] theorem State.onStrand_faults (s : State) (f : Strand → Strand) : (s.onStrand f).faults = s.faults := rfl
@[simp] theorem State.onStrand_windows (s : State) (f : Strand → Strand) : (s.onStrand f).windows = s.windows := rfl
@[simp] theorem State.onStrand_keys (s : State) (f : Strand → Strand) : (s.onStrand f).keys = s.keys := rfl
@[simp] theorem State.onStrand_counters (s : State) (f : Strand → Strand) : (s.onStrand f).counters = s.counters := rfl
@[simp] theorem State.onStrand_poison (s : State) (f : Strand → Strand) : (s.onStrand f).poison = s.poison := rfl
@[simp] theorem State.onStrand_broken (s : State) (f : Strand → Strand) : (s.onStrand f).broken = s.broken := rfl
@[simp] theorem State.onStrand_lines (s : State) (f : Strand → Strand) : (s.onStrand f).lines = s.lines := rfl
@[simp] theorem State.onStrand_tier2 (s : State) (f : Strand → Strand) : (s.onStrand f).tier2 = s.tier2 := rfl
@[simp] theorem State.onStrand_fabric (s : State) (f : Strand → Strand) : (s.onStrand f).fabric = s.fabric := rfl
@[simp] theorem State.onStrand_power (s : State) (f : Strand → Strand) : (s.onStrand f).power = s.power := rfl
@[simp] theorem State.onStrand_watts (s : State) (f : Strand → Strand) : (s.onStrand f).watts = s.watts := rfl
@[simp] theorem State.onStrand_peakW (s : State) (f : Strand → Strand) : (s.onStrand f).peakW = s.peakW := rfl
@[simp] theorem State.onStrand_banks (s : State) (f : Strand → Strand) : (s.onStrand f).banks = s.banks := rfl
@[simp] theorem State.onStrand_start (s : State) (f : Strand → Strand) : (s.onStrand f).start = s.start := rfl
@[simp] theorem State.onStrand_config (s : State) (f : Strand → Strand) : (s.onStrand f).config = s.config := rfl
@[simp] theorem State.onStrand_retiredClusters (s : State) (f : Strand → Strand) : (s.onStrand f).retiredClusters = s.retiredClusters := rfl
@[simp] theorem State.onStrand_retiredGroups (s : State) (f : Strand → Strand) : (s.onStrand f).retiredGroups = s.retiredGroups := rfl
@[simp] theorem State.onStrand_retiredAgents (s : State) (f : Strand → Strand) : (s.onStrand f).retiredAgents = s.retiredAgents := rfl
@[simp] theorem State.onStrand_reroutedLinks (s : State) (f : Strand → Strand) : (s.onStrand f).reroutedLinks = s.reroutedLinks := rfl
@[simp] theorem State.onStrand_movingLinks (s : State) (f : Strand → Strand) : (s.onStrand f).movingLinks = s.movingLinks := rfl
@[simp] theorem State.onStrand_slice (s : State) (f : Strand → Strand) : (s.onStrand f).slice = s.slice := rfl
@[simp] theorem State.onStrand_pdl (s : State) (f : Strand → Strand) : (s.onStrand f).pdl = s.pdl := rfl
@[simp] theorem State.onStrand_wdog (s : State) (f : Strand → Strand) : (s.onStrand f).wdog = s.wdog := rfl
@[simp] theorem State.onStrand_rollPeriod (s : State) (f : Strand → Strand) : (s.onStrand f).rollPeriod = s.rollPeriod := rfl
@[simp] theorem State.onStrand_injectors (s : State) (f : Strand → Strand) : (s.onStrand f).injectors = s.injectors := rfl
@[simp] theorem State.onStrand_dieResets (s : State) (f : Strand → Strand) : (s.onStrand f).dieResets = s.dieResets := rfl
@[simp] theorem State.onStrand_pending (s : State) (f : Strand → Strand) : (s.onStrand f).pending = s.pending := rfl
@[simp] theorem State.onStrand_agents (s : State) (f : Strand → Strand) : (s.onStrand f).agents = s.agents := rfl
@[simp] theorem State.onStrand_hostsAtoms (s : State) (f : Strand → Strand) : (s.onStrand f).hostsAtoms = s.hostsAtoms := rfl
@[simp] theorem State.onStrand_nextGang (s : State) (f : Strand → Strand) : (s.onStrand f).nextGang = s.nextGang := rfl
@[simp] theorem State.onStrand_nextOrder (s : State) (f : Strand → Strand) : (s.onStrand f).nextOrder = s.nextOrder := rfl
@[simp] theorem State.onStrand_answer (s : State) (f : Strand → Strand) : (s.onStrand f).answer = s.answer := rfl
@[simp] theorem State.onStrand_answerStatus (s : State) (f : Strand → Strand) : (s.onStrand f).answerStatus = s.answerStatus := rfl
@[simp] theorem State.onStrand_msix (s : State) (f : Strand → Strand) : (s.onStrand f).msix = s.msix := rfl
@[simp] theorem State.onStrand_cycle (s : State) (f : Strand → Strand) : (s.onStrand f).cycle = s.cycle := rfl
@[simp] theorem State.onStrand_tick (s : State) (f : Strand → Strand) : (s.onStrand f).tick = s.tick := rfl
@[simp] theorem State.onStrand_inputs (s : State) (f : Strand → Strand) : (s.onStrand f).inputs = s.inputs := rfl
@[simp] theorem State.onStrand_actor (s : State) (f : Strand → Strand) : (s.onStrand f).actor = s.actor := rfl

@[simp] theorem State.onStrandOf_mem (s : State) (c : Nat) (f : Strand → Strand) : (s.onStrandOf c f).mem = s.mem := rfl
@[simp] theorem State.onStrandOf_hostMem (s : State) (c : Nat) (f : Strand → Strand) : (s.onStrandOf c f).hostMem = s.hostMem := rfl
@[simp] theorem State.onStrandOf_sems (s : State) (c : Nat) (f : Strand → Strand) : (s.onStrandOf c f).sems = s.sems := rfl
@[simp] theorem State.onStrandOf_semWaiters (s : State) (c : Nat) (f : Strand → Strand) : (s.onStrandOf c f).semWaiters = s.semWaiters := rfl
@[simp] theorem State.onStrandOf_fns (s : State) (c : Nat) (f : Strand → Strand) : (s.onStrandOf c f).fns = s.fns := rfl
@[simp] theorem State.onStrandOf_ctxs (s : State) (c : Nat) (f : Strand → Strand) : (s.onStrandOf c f).ctxs = s.ctxs := rfl
@[simp] theorem State.onStrandOf_nodes (s : State) (c : Nat) (f : Strand → Strand) : (s.onStrandOf c f).nodes = s.nodes := rfl
@[simp] theorem State.onStrandOf_gangs (s : State) (c : Nat) (f : Strand → Strand) : (s.onStrandOf c f).gangs = s.gangs := rfl
@[simp] theorem State.onStrandOf_parked (s : State) (c : Nat) (f : Strand → Strand) : (s.onStrandOf c f).parked = s.parked := rfl
@[simp] theorem State.onStrandOf_clusters (s : State) (c : Nat) (f : Strand → Strand) : (s.onStrandOf c f).clusters = s.clusters := rfl
@[simp] theorem State.onStrandOf_faults (s : State) (c : Nat) (f : Strand → Strand) : (s.onStrandOf c f).faults = s.faults := rfl
@[simp] theorem State.onStrandOf_windows (s : State) (c : Nat) (f : Strand → Strand) : (s.onStrandOf c f).windows = s.windows := rfl
@[simp] theorem State.onStrandOf_keys (s : State) (c : Nat) (f : Strand → Strand) : (s.onStrandOf c f).keys = s.keys := rfl
@[simp] theorem State.onStrandOf_counters (s : State) (c : Nat) (f : Strand → Strand) : (s.onStrandOf c f).counters = s.counters := rfl
@[simp] theorem State.onStrandOf_poison (s : State) (c : Nat) (f : Strand → Strand) : (s.onStrandOf c f).poison = s.poison := rfl
@[simp] theorem State.onStrandOf_broken (s : State) (c : Nat) (f : Strand → Strand) : (s.onStrandOf c f).broken = s.broken := rfl
@[simp] theorem State.onStrandOf_lines (s : State) (c : Nat) (f : Strand → Strand) : (s.onStrandOf c f).lines = s.lines := rfl
@[simp] theorem State.onStrandOf_tier2 (s : State) (c : Nat) (f : Strand → Strand) : (s.onStrandOf c f).tier2 = s.tier2 := rfl
@[simp] theorem State.onStrandOf_fabric (s : State) (c : Nat) (f : Strand → Strand) : (s.onStrandOf c f).fabric = s.fabric := rfl
@[simp] theorem State.onStrandOf_power (s : State) (c : Nat) (f : Strand → Strand) : (s.onStrandOf c f).power = s.power := rfl
@[simp] theorem State.onStrandOf_watts (s : State) (c : Nat) (f : Strand → Strand) : (s.onStrandOf c f).watts = s.watts := rfl
@[simp] theorem State.onStrandOf_peakW (s : State) (c : Nat) (f : Strand → Strand) : (s.onStrandOf c f).peakW = s.peakW := rfl
@[simp] theorem State.onStrandOf_banks (s : State) (c : Nat) (f : Strand → Strand) : (s.onStrandOf c f).banks = s.banks := rfl
@[simp] theorem State.onStrandOf_start (s : State) (c : Nat) (f : Strand → Strand) : (s.onStrandOf c f).start = s.start := rfl
@[simp] theorem State.onStrandOf_config (s : State) (c : Nat) (f : Strand → Strand) : (s.onStrandOf c f).config = s.config := rfl
@[simp] theorem State.onStrandOf_retiredClusters (s : State) (c : Nat) (f : Strand → Strand) : (s.onStrandOf c f).retiredClusters = s.retiredClusters := rfl
@[simp] theorem State.onStrandOf_retiredGroups (s : State) (c : Nat) (f : Strand → Strand) : (s.onStrandOf c f).retiredGroups = s.retiredGroups := rfl
@[simp] theorem State.onStrandOf_retiredAgents (s : State) (c : Nat) (f : Strand → Strand) : (s.onStrandOf c f).retiredAgents = s.retiredAgents := rfl
@[simp] theorem State.onStrandOf_reroutedLinks (s : State) (c : Nat) (f : Strand → Strand) : (s.onStrandOf c f).reroutedLinks = s.reroutedLinks := rfl
@[simp] theorem State.onStrandOf_movingLinks (s : State) (c : Nat) (f : Strand → Strand) : (s.onStrandOf c f).movingLinks = s.movingLinks := rfl
@[simp] theorem State.onStrandOf_slice (s : State) (c : Nat) (f : Strand → Strand) : (s.onStrandOf c f).slice = s.slice := rfl
@[simp] theorem State.onStrandOf_pdl (s : State) (c : Nat) (f : Strand → Strand) : (s.onStrandOf c f).pdl = s.pdl := rfl
@[simp] theorem State.onStrandOf_wdog (s : State) (c : Nat) (f : Strand → Strand) : (s.onStrandOf c f).wdog = s.wdog := rfl
@[simp] theorem State.onStrandOf_rollPeriod (s : State) (c : Nat) (f : Strand → Strand) : (s.onStrandOf c f).rollPeriod = s.rollPeriod := rfl
@[simp] theorem State.onStrandOf_injectors (s : State) (c : Nat) (f : Strand → Strand) : (s.onStrandOf c f).injectors = s.injectors := rfl
@[simp] theorem State.onStrandOf_dieResets (s : State) (c : Nat) (f : Strand → Strand) : (s.onStrandOf c f).dieResets = s.dieResets := rfl
@[simp] theorem State.onStrandOf_pending (s : State) (c : Nat) (f : Strand → Strand) : (s.onStrandOf c f).pending = s.pending := rfl
@[simp] theorem State.onStrandOf_agents (s : State) (c : Nat) (f : Strand → Strand) : (s.onStrandOf c f).agents = s.agents := rfl
@[simp] theorem State.onStrandOf_hostsAtoms (s : State) (c : Nat) (f : Strand → Strand) : (s.onStrandOf c f).hostsAtoms = s.hostsAtoms := rfl
@[simp] theorem State.onStrandOf_nextGang (s : State) (c : Nat) (f : Strand → Strand) : (s.onStrandOf c f).nextGang = s.nextGang := rfl
@[simp] theorem State.onStrandOf_nextOrder (s : State) (c : Nat) (f : Strand → Strand) : (s.onStrandOf c f).nextOrder = s.nextOrder := rfl
@[simp] theorem State.onStrandOf_answer (s : State) (c : Nat) (f : Strand → Strand) : (s.onStrandOf c f).answer = s.answer := rfl
@[simp] theorem State.onStrandOf_answerStatus (s : State) (c : Nat) (f : Strand → Strand) : (s.onStrandOf c f).answerStatus = s.answerStatus := rfl
@[simp] theorem State.onStrandOf_msix (s : State) (c : Nat) (f : Strand → Strand) : (s.onStrandOf c f).msix = s.msix := rfl
@[simp] theorem State.onStrandOf_cycle (s : State) (c : Nat) (f : Strand → Strand) : (s.onStrandOf c f).cycle = s.cycle := rfl
@[simp] theorem State.onStrandOf_tick (s : State) (c : Nat) (f : Strand → Strand) : (s.onStrandOf c f).tick = s.tick := rfl
@[simp] theorem State.onStrandOf_inputs (s : State) (c : Nat) (f : Strand → Strand) : (s.onStrandOf c f).inputs = s.inputs := rfl
@[simp] theorem State.onStrandOf_actor (s : State) (c : Nat) (f : Strand → Strand) : (s.onStrandOf c f).actor = s.actor := rfl

@[simp] theorem State.onCore_mem (s : State) (c : Nat) (f : Core → Core) : (s.onCore c f).mem = s.mem := rfl
@[simp] theorem State.onCore_hostMem (s : State) (c : Nat) (f : Core → Core) : (s.onCore c f).hostMem = s.hostMem := rfl
@[simp] theorem State.onCore_sems (s : State) (c : Nat) (f : Core → Core) : (s.onCore c f).sems = s.sems := rfl
@[simp] theorem State.onCore_semWaiters (s : State) (c : Nat) (f : Core → Core) : (s.onCore c f).semWaiters = s.semWaiters := rfl
@[simp] theorem State.onCore_fns (s : State) (c : Nat) (f : Core → Core) : (s.onCore c f).fns = s.fns := rfl
@[simp] theorem State.onCore_ctxs (s : State) (c : Nat) (f : Core → Core) : (s.onCore c f).ctxs = s.ctxs := rfl
@[simp] theorem State.onCore_nodes (s : State) (c : Nat) (f : Core → Core) : (s.onCore c f).nodes = s.nodes := rfl
@[simp] theorem State.onCore_gangs (s : State) (c : Nat) (f : Core → Core) : (s.onCore c f).gangs = s.gangs := rfl
@[simp] theorem State.onCore_parked (s : State) (c : Nat) (f : Core → Core) : (s.onCore c f).parked = s.parked := rfl
@[simp] theorem State.onCore_clusters (s : State) (c : Nat) (f : Core → Core) : (s.onCore c f).clusters = s.clusters := rfl
@[simp] theorem State.onCore_faults (s : State) (c : Nat) (f : Core → Core) : (s.onCore c f).faults = s.faults := rfl
@[simp] theorem State.onCore_windows (s : State) (c : Nat) (f : Core → Core) : (s.onCore c f).windows = s.windows := rfl
@[simp] theorem State.onCore_keys (s : State) (c : Nat) (f : Core → Core) : (s.onCore c f).keys = s.keys := rfl
@[simp] theorem State.onCore_counters (s : State) (c : Nat) (f : Core → Core) : (s.onCore c f).counters = s.counters := rfl
@[simp] theorem State.onCore_poison (s : State) (c : Nat) (f : Core → Core) : (s.onCore c f).poison = s.poison := rfl
@[simp] theorem State.onCore_broken (s : State) (c : Nat) (f : Core → Core) : (s.onCore c f).broken = s.broken := rfl
@[simp] theorem State.onCore_lines (s : State) (c : Nat) (f : Core → Core) : (s.onCore c f).lines = s.lines := rfl
@[simp] theorem State.onCore_tier2 (s : State) (c : Nat) (f : Core → Core) : (s.onCore c f).tier2 = s.tier2 := rfl
@[simp] theorem State.onCore_fabric (s : State) (c : Nat) (f : Core → Core) : (s.onCore c f).fabric = s.fabric := rfl
@[simp] theorem State.onCore_power (s : State) (c : Nat) (f : Core → Core) : (s.onCore c f).power = s.power := rfl
@[simp] theorem State.onCore_watts (s : State) (c : Nat) (f : Core → Core) : (s.onCore c f).watts = s.watts := rfl
@[simp] theorem State.onCore_peakW (s : State) (c : Nat) (f : Core → Core) : (s.onCore c f).peakW = s.peakW := rfl
@[simp] theorem State.onCore_banks (s : State) (c : Nat) (f : Core → Core) : (s.onCore c f).banks = s.banks := rfl
@[simp] theorem State.onCore_start (s : State) (c : Nat) (f : Core → Core) : (s.onCore c f).start = s.start := rfl
@[simp] theorem State.onCore_config (s : State) (c : Nat) (f : Core → Core) : (s.onCore c f).config = s.config := rfl
@[simp] theorem State.onCore_retiredClusters (s : State) (c : Nat) (f : Core → Core) : (s.onCore c f).retiredClusters = s.retiredClusters := rfl
@[simp] theorem State.onCore_retiredGroups (s : State) (c : Nat) (f : Core → Core) : (s.onCore c f).retiredGroups = s.retiredGroups := rfl
@[simp] theorem State.onCore_retiredAgents (s : State) (c : Nat) (f : Core → Core) : (s.onCore c f).retiredAgents = s.retiredAgents := rfl
@[simp] theorem State.onCore_reroutedLinks (s : State) (c : Nat) (f : Core → Core) : (s.onCore c f).reroutedLinks = s.reroutedLinks := rfl
@[simp] theorem State.onCore_movingLinks (s : State) (c : Nat) (f : Core → Core) : (s.onCore c f).movingLinks = s.movingLinks := rfl
@[simp] theorem State.onCore_slice (s : State) (c : Nat) (f : Core → Core) : (s.onCore c f).slice = s.slice := rfl
@[simp] theorem State.onCore_pdl (s : State) (c : Nat) (f : Core → Core) : (s.onCore c f).pdl = s.pdl := rfl
@[simp] theorem State.onCore_wdog (s : State) (c : Nat) (f : Core → Core) : (s.onCore c f).wdog = s.wdog := rfl
@[simp] theorem State.onCore_rollPeriod (s : State) (c : Nat) (f : Core → Core) : (s.onCore c f).rollPeriod = s.rollPeriod := rfl
@[simp] theorem State.onCore_injectors (s : State) (c : Nat) (f : Core → Core) : (s.onCore c f).injectors = s.injectors := rfl
@[simp] theorem State.onCore_dieResets (s : State) (c : Nat) (f : Core → Core) : (s.onCore c f).dieResets = s.dieResets := rfl
@[simp] theorem State.onCore_pending (s : State) (c : Nat) (f : Core → Core) : (s.onCore c f).pending = s.pending := rfl
@[simp] theorem State.onCore_agents (s : State) (c : Nat) (f : Core → Core) : (s.onCore c f).agents = s.agents := rfl
@[simp] theorem State.onCore_hostsAtoms (s : State) (c : Nat) (f : Core → Core) : (s.onCore c f).hostsAtoms = s.hostsAtoms := rfl
@[simp] theorem State.onCore_nextGang (s : State) (c : Nat) (f : Core → Core) : (s.onCore c f).nextGang = s.nextGang := rfl
@[simp] theorem State.onCore_nextOrder (s : State) (c : Nat) (f : Core → Core) : (s.onCore c f).nextOrder = s.nextOrder := rfl
@[simp] theorem State.onCore_answer (s : State) (c : Nat) (f : Core → Core) : (s.onCore c f).answer = s.answer := rfl
@[simp] theorem State.onCore_answerStatus (s : State) (c : Nat) (f : Core → Core) : (s.onCore c f).answerStatus = s.answerStatus := rfl
@[simp] theorem State.onCore_msix (s : State) (c : Nat) (f : Core → Core) : (s.onCore c f).msix = s.msix := rfl
@[simp] theorem State.onCore_cycle (s : State) (c : Nat) (f : Core → Core) : (s.onCore c f).cycle = s.cycle := rfl
@[simp] theorem State.onCore_tick (s : State) (c : Nat) (f : Core → Core) : (s.onCore c f).tick = s.tick := rfl
@[simp] theorem State.onCore_inputs (s : State) (c : Nat) (f : Core → Core) : (s.onCore c f).inputs = s.inputs := rfl
@[simp] theorem State.onCore_actor (s : State) (c : Nat) (f : Core → Core) : (s.onCore c f).actor = s.actor := rfl

@[simp] theorem State.onMe_mem (s : State) (f : Core → Core) : (s.onMe f).mem = s.mem := rfl
@[simp] theorem State.onMe_hostMem (s : State) (f : Core → Core) : (s.onMe f).hostMem = s.hostMem := rfl
@[simp] theorem State.onMe_sems (s : State) (f : Core → Core) : (s.onMe f).sems = s.sems := rfl
@[simp] theorem State.onMe_semWaiters (s : State) (f : Core → Core) : (s.onMe f).semWaiters = s.semWaiters := rfl
@[simp] theorem State.onMe_fns (s : State) (f : Core → Core) : (s.onMe f).fns = s.fns := rfl
@[simp] theorem State.onMe_ctxs (s : State) (f : Core → Core) : (s.onMe f).ctxs = s.ctxs := rfl
@[simp] theorem State.onMe_nodes (s : State) (f : Core → Core) : (s.onMe f).nodes = s.nodes := rfl
@[simp] theorem State.onMe_gangs (s : State) (f : Core → Core) : (s.onMe f).gangs = s.gangs := rfl
@[simp] theorem State.onMe_faults (s : State) (f : Core → Core) : (s.onMe f).faults = s.faults := rfl
@[simp] theorem State.onMe_lines (s : State) (f : Core → Core) : (s.onMe f).lines = s.lines := rfl
@[simp] theorem State.onMe_actor (s : State) (f : Core → Core) : (s.onMe f).actor = s.actor := rfl
@[simp] theorem State.onMe_cycle (s : State) (f : Core → Core) : (s.onMe f).cycle = s.cycle := rfl
@[simp] theorem State.onMe_tick (s : State) (f : Core → Core) : (s.onMe f).tick = s.tick := rfl
@[simp] theorem State.onMe_inputs (s : State) (f : Core → Core) : (s.onMe f).inputs = s.inputs := rfl

@[simp] theorem State.set_mem (s : State) (d : Reg) (v : Word) : (s.set d v).mem = s.mem := rfl
@[simp] theorem State.set_hostMem (s : State) (d : Reg) (v : Word) : (s.set d v).hostMem = s.hostMem := rfl
@[simp] theorem State.set_sems (s : State) (d : Reg) (v : Word) : (s.set d v).sems = s.sems := rfl
@[simp] theorem State.set_semWaiters (s : State) (d : Reg) (v : Word) : (s.set d v).semWaiters = s.semWaiters := rfl
@[simp] theorem State.set_fns (s : State) (d : Reg) (v : Word) : (s.set d v).fns = s.fns := rfl
@[simp] theorem State.set_ctxs (s : State) (d : Reg) (v : Word) : (s.set d v).ctxs = s.ctxs := rfl
@[simp] theorem State.set_nodes (s : State) (d : Reg) (v : Word) : (s.set d v).nodes = s.nodes := rfl
@[simp] theorem State.set_gangs (s : State) (d : Reg) (v : Word) : (s.set d v).gangs = s.gangs := rfl
@[simp] theorem State.set_faults (s : State) (d : Reg) (v : Word) : (s.set d v).faults = s.faults := rfl
@[simp] theorem State.set_lines (s : State) (d : Reg) (v : Word) : (s.set d v).lines = s.lines := rfl
@[simp] theorem State.set_actor (s : State) (d : Reg) (v : Word) : (s.set d v).actor = s.actor := rfl
@[simp] theorem State.set_cycle (s : State) (d : Reg) (v : Word) : (s.set d v).cycle = s.cycle := rfl
@[simp] theorem State.set_tick (s : State) (d : Reg) (v : Word) : (s.set d v).tick = s.tick := rfl
@[simp] theorem State.set_inputs (s : State) (d : Reg) (v : Word) : (s.set d v).inputs = s.inputs := rfl

@[simp] theorem State.orFlags_mem (s : State) (f : NumFlags) : (s.orFlags f).mem = s.mem := rfl
@[simp] theorem State.orFlags_hostMem (s : State) (f : NumFlags) : (s.orFlags f).hostMem = s.hostMem := rfl
@[simp] theorem State.orFlags_sems (s : State) (f : NumFlags) : (s.orFlags f).sems = s.sems := rfl
@[simp] theorem State.orFlags_semWaiters (s : State) (f : NumFlags) : (s.orFlags f).semWaiters = s.semWaiters := rfl
@[simp] theorem State.orFlags_fns (s : State) (f : NumFlags) : (s.orFlags f).fns = s.fns := rfl
@[simp] theorem State.orFlags_ctxs (s : State) (f : NumFlags) : (s.orFlags f).ctxs = s.ctxs := rfl
@[simp] theorem State.orFlags_nodes (s : State) (f : NumFlags) : (s.orFlags f).nodes = s.nodes := rfl
@[simp] theorem State.orFlags_gangs (s : State) (f : NumFlags) : (s.orFlags f).gangs = s.gangs := rfl
@[simp] theorem State.orFlags_faults (s : State) (f : NumFlags) : (s.orFlags f).faults = s.faults := rfl
@[simp] theorem State.orFlags_lines (s : State) (f : NumFlags) : (s.orFlags f).lines = s.lines := rfl
@[simp] theorem State.orFlags_actor (s : State) (f : NumFlags) : (s.orFlags f).actor = s.actor := rfl
@[simp] theorem State.orFlags_cycle (s : State) (f : NumFlags) : (s.orFlags f).cycle = s.cycle := rfl
@[simp] theorem State.orFlags_tick (s : State) (f : NumFlags) : (s.orFlags f).tick = s.tick := rfl
@[simp] theorem State.orFlags_inputs (s : State) (f : NumFlags) : (s.orFlags f).inputs = s.inputs := rfl

@[simp] theorem State.retire_mem (s : State) : (s.retire).mem = s.mem := rfl
@[simp] theorem State.retire_hostMem (s : State) : (s.retire).hostMem = s.hostMem := rfl
@[simp] theorem State.retire_sems (s : State) : (s.retire).sems = s.sems := rfl
@[simp] theorem State.retire_semWaiters (s : State) : (s.retire).semWaiters = s.semWaiters := rfl
@[simp] theorem State.retire_fns (s : State) : (s.retire).fns = s.fns := rfl
@[simp] theorem State.retire_ctxs (s : State) : (s.retire).ctxs = s.ctxs := rfl
@[simp] theorem State.retire_nodes (s : State) : (s.retire).nodes = s.nodes := rfl
@[simp] theorem State.retire_gangs (s : State) : (s.retire).gangs = s.gangs := rfl
@[simp] theorem State.retire_faults (s : State) : (s.retire).faults = s.faults := rfl
@[simp] theorem State.retire_lines (s : State) : (s.retire).lines = s.lines := rfl
@[simp] theorem State.retire_actor (s : State) : (s.retire).actor = s.actor := rfl
@[simp] theorem State.retire_cycle (s : State) : (s.retire).cycle = s.cycle := rfl
@[simp] theorem State.retire_tick (s : State) : (s.retire).tick = s.tick := rfl
@[simp] theorem State.retire_inputs (s : State) : (s.retire).inputs = s.inputs := rfl

@[simp] theorem State.jump_mem (s : State) (p : Va) : (s.jump p).mem = s.mem := rfl
@[simp] theorem State.jump_hostMem (s : State) (p : Va) : (s.jump p).hostMem = s.hostMem := rfl
@[simp] theorem State.jump_sems (s : State) (p : Va) : (s.jump p).sems = s.sems := rfl
@[simp] theorem State.jump_semWaiters (s : State) (p : Va) : (s.jump p).semWaiters = s.semWaiters := rfl
@[simp] theorem State.jump_fns (s : State) (p : Va) : (s.jump p).fns = s.fns := rfl
@[simp] theorem State.jump_ctxs (s : State) (p : Va) : (s.jump p).ctxs = s.ctxs := rfl
@[simp] theorem State.jump_nodes (s : State) (p : Va) : (s.jump p).nodes = s.nodes := rfl
@[simp] theorem State.jump_gangs (s : State) (p : Va) : (s.jump p).gangs = s.gangs := rfl
@[simp] theorem State.jump_faults (s : State) (p : Va) : (s.jump p).faults = s.faults := rfl
@[simp] theorem State.jump_lines (s : State) (p : Va) : (s.jump p).lines = s.lines := rfl
@[simp] theorem State.jump_actor (s : State) (p : Va) : (s.jump p).actor = s.actor := rfl
@[simp] theorem State.jump_cycle (s : State) (p : Va) : (s.jump p).cycle = s.cycle := rfl
@[simp] theorem State.jump_tick (s : State) (p : Va) : (s.jump p).tick = s.tick := rfl
@[simp] theorem State.jump_inputs (s : State) (p : Va) : (s.jump p).inputs = s.inputs := rfl

@[simp] theorem State.result_mem (s : State) (d : Reg) (v : Word) : (s.result d v).mem = s.mem := rfl
@[simp] theorem State.result_hostMem (s : State) (d : Reg) (v : Word) : (s.result d v).hostMem = s.hostMem := rfl
@[simp] theorem State.result_sems (s : State) (d : Reg) (v : Word) : (s.result d v).sems = s.sems := rfl
@[simp] theorem State.result_semWaiters (s : State) (d : Reg) (v : Word) : (s.result d v).semWaiters = s.semWaiters := rfl
@[simp] theorem State.result_fns (s : State) (d : Reg) (v : Word) : (s.result d v).fns = s.fns := rfl
@[simp] theorem State.result_ctxs (s : State) (d : Reg) (v : Word) : (s.result d v).ctxs = s.ctxs := rfl
@[simp] theorem State.result_nodes (s : State) (d : Reg) (v : Word) : (s.result d v).nodes = s.nodes := rfl
@[simp] theorem State.result_gangs (s : State) (d : Reg) (v : Word) : (s.result d v).gangs = s.gangs := rfl
@[simp] theorem State.result_faults (s : State) (d : Reg) (v : Word) : (s.result d v).faults = s.faults := rfl
@[simp] theorem State.result_lines (s : State) (d : Reg) (v : Word) : (s.result d v).lines = s.lines := rfl
@[simp] theorem State.result_actor (s : State) (d : Reg) (v : Word) : (s.result d v).actor = s.actor := rfl
@[simp] theorem State.result_cycle (s : State) (d : Reg) (v : Word) : (s.result d v).cycle = s.cycle := rfl
@[simp] theorem State.result_tick (s : State) (d : Reg) (v : Word) : (s.result d v).tick = s.tick := rfl
@[simp] theorem State.result_inputs (s : State) (d : Reg) (v : Word) : (s.result d v).inputs = s.inputs := rfl

@[simp] theorem State.onRing_mem (s : State) (c r : Nat) (f : Ring → Ring) : (s.onRing c r f).mem = s.mem := rfl
@[simp] theorem State.onRing_hostMem (s : State) (c r : Nat) (f : Ring → Ring) : (s.onRing c r f).hostMem = s.hostMem := rfl
@[simp] theorem State.onRing_sems (s : State) (c r : Nat) (f : Ring → Ring) : (s.onRing c r f).sems = s.sems := rfl
@[simp] theorem State.onRing_semWaiters (s : State) (c r : Nat) (f : Ring → Ring) : (s.onRing c r f).semWaiters = s.semWaiters := rfl
@[simp] theorem State.onRing_fns (s : State) (c r : Nat) (f : Ring → Ring) : (s.onRing c r f).fns = s.fns := rfl
@[simp] theorem State.onRing_ctxs (s : State) (c r : Nat) (f : Ring → Ring) : (s.onRing c r f).ctxs = s.ctxs := rfl
@[simp] theorem State.onRing_nodes (s : State) (c r : Nat) (f : Ring → Ring) : (s.onRing c r f).nodes = s.nodes := rfl
@[simp] theorem State.onRing_gangs (s : State) (c r : Nat) (f : Ring → Ring) : (s.onRing c r f).gangs = s.gangs := rfl
@[simp] theorem State.onRing_faults (s : State) (c r : Nat) (f : Ring → Ring) : (s.onRing c r f).faults = s.faults := rfl
@[simp] theorem State.onRing_lines (s : State) (c r : Nat) (f : Ring → Ring) : (s.onRing c r f).lines = s.lines := rfl
@[simp] theorem State.onRing_actor (s : State) (c r : Nat) (f : Ring → Ring) : (s.onRing c r f).actor = s.actor := rfl
@[simp] theorem State.onRing_cycle (s : State) (c r : Nat) (f : Ring → Ring) : (s.onRing c r f).cycle = s.cycle := rfl
@[simp] theorem State.onRing_tick (s : State) (c r : Nat) (f : Ring → Ring) : (s.onRing c r f).tick = s.tick := rfl
@[simp] theorem State.onRing_inputs (s : State) (c r : Nat) (f : Ring → Ring) : (s.onRing c r f).inputs = s.inputs := rfl

@[simp] theorem State.swrite_mem (s : State) (c a : Nat) (bs : List Byte) : (s.swrite c a bs).mem = s.mem := rfl
@[simp] theorem State.swrite_hostMem (s : State) (c a : Nat) (bs : List Byte) : (s.swrite c a bs).hostMem = s.hostMem := rfl
@[simp] theorem State.swrite_sems (s : State) (c a : Nat) (bs : List Byte) : (s.swrite c a bs).sems = s.sems := rfl
@[simp] theorem State.swrite_semWaiters (s : State) (c a : Nat) (bs : List Byte) : (s.swrite c a bs).semWaiters = s.semWaiters := rfl
@[simp] theorem State.swrite_fns (s : State) (c a : Nat) (bs : List Byte) : (s.swrite c a bs).fns = s.fns := rfl
@[simp] theorem State.swrite_ctxs (s : State) (c a : Nat) (bs : List Byte) : (s.swrite c a bs).ctxs = s.ctxs := rfl
@[simp] theorem State.swrite_nodes (s : State) (c a : Nat) (bs : List Byte) : (s.swrite c a bs).nodes = s.nodes := rfl
@[simp] theorem State.swrite_gangs (s : State) (c a : Nat) (bs : List Byte) : (s.swrite c a bs).gangs = s.gangs := rfl
@[simp] theorem State.swrite_faults (s : State) (c a : Nat) (bs : List Byte) : (s.swrite c a bs).faults = s.faults := rfl
@[simp] theorem State.swrite_lines (s : State) (c a : Nat) (bs : List Byte) : (s.swrite c a bs).lines = s.lines := rfl
@[simp] theorem State.swrite_actor (s : State) (c a : Nat) (bs : List Byte) : (s.swrite c a bs).actor = s.actor := rfl
@[simp] theorem State.swrite_cycle (s : State) (c a : Nat) (bs : List Byte) : (s.swrite c a bs).cycle = s.cycle := rfl
@[simp] theorem State.swrite_tick (s : State) (c a : Nat) (bs : List Byte) : (s.swrite c a bs).tick = s.tick := rfl
@[simp] theorem State.swrite_inputs (s : State) (c a : Nat) (bs : List Byte) : (s.swrite c a bs).inputs = s.inputs := rfl

@[simp] theorem State.setAcc_mem (s : State) (c b i : Nat) (v : BitVec 32) : (s.setAcc c b i v).mem = s.mem := rfl
@[simp] theorem State.setAcc_hostMem (s : State) (c b i : Nat) (v : BitVec 32) : (s.setAcc c b i v).hostMem = s.hostMem := rfl
@[simp] theorem State.setAcc_sems (s : State) (c b i : Nat) (v : BitVec 32) : (s.setAcc c b i v).sems = s.sems := rfl
@[simp] theorem State.setAcc_semWaiters (s : State) (c b i : Nat) (v : BitVec 32) : (s.setAcc c b i v).semWaiters = s.semWaiters := rfl
@[simp] theorem State.setAcc_fns (s : State) (c b i : Nat) (v : BitVec 32) : (s.setAcc c b i v).fns = s.fns := rfl
@[simp] theorem State.setAcc_ctxs (s : State) (c b i : Nat) (v : BitVec 32) : (s.setAcc c b i v).ctxs = s.ctxs := rfl
@[simp] theorem State.setAcc_nodes (s : State) (c b i : Nat) (v : BitVec 32) : (s.setAcc c b i v).nodes = s.nodes := rfl
@[simp] theorem State.setAcc_gangs (s : State) (c b i : Nat) (v : BitVec 32) : (s.setAcc c b i v).gangs = s.gangs := rfl
@[simp] theorem State.setAcc_faults (s : State) (c b i : Nat) (v : BitVec 32) : (s.setAcc c b i v).faults = s.faults := rfl
@[simp] theorem State.setAcc_lines (s : State) (c b i : Nat) (v : BitVec 32) : (s.setAcc c b i v).lines = s.lines := rfl
@[simp] theorem State.setAcc_actor (s : State) (c b i : Nat) (v : BitVec 32) : (s.setAcc c b i v).actor = s.actor := rfl
@[simp] theorem State.setAcc_cycle (s : State) (c b i : Nat) (v : BitVec 32) : (s.setAcc c b i v).cycle = s.cycle := rfl
@[simp] theorem State.setAcc_tick (s : State) (c b i : Nat) (v : BitVec 32) : (s.setAcc c b i v).tick = s.tick := rfl
@[simp] theorem State.setAcc_inputs (s : State) (c b i : Nat) (v : BitVec 32) : (s.setAcc c b i v).inputs = s.inputs := rfl

end Sys2Proof.Machine
end

