-- ==== Sys2Proof/Laws/Ops.lean ====
section
/-! SUPPORT. What each shared operation can do, said once: changing a strand, writing a result, retiring, jumping, taking
a precise event, storing bytes. -/

namespace Sys2Proof.Machine

/-! ## Bytes -/

/-- A change of a core that leaves its scratchpad and generation alone leaves every scratch byte alone. -/
theorem State.sbyte_onCore (s : State) (c : Nat) (f : Core → Core) (i a : Nat)
    (h : (f (s.core c)).scratch = (s.core c).scratch) (hg : (f (s.core c)).gen = (s.core c).gen) :
    (s.onCore c f).sbyte i a = s.sbyte i a := by
  unfold State.sbyte
  rw [State.core_onCore]
  by_cases e : i = c
  · subst e
    simp only [if_true, h, hg]
  · simp only [e, if_false]

@[simp] theorem State.sbyte_onStrandOf (s : State) (c : Nat) (f : Strand → Strand) (i a : Nat) :
    (s.onStrandOf c f).sbyte i a = s.sbyte i a := s.sbyte_onCore c _ i a rfl rfl

@[simp] theorem State.sbyte_onStrand (s : State) (f : Strand → Strand) (i a : Nat) :
    (s.onStrand f).sbyte i a = s.sbyte i a := s.sbyte_onCore s.actor.core _ i a rfl rfl

@[simp] theorem State.sbyte_set (s : State) (d : Reg) (v : Word) (i a : Nat) : (s.set d v).sbyte i a = s.sbyte i a :=
  s.sbyte_onStrand _ i a

@[simp] theorem State.sbyte_retire (s : State) (i a : Nat) : s.retire.sbyte i a = s.sbyte i a := s.sbyte_onStrand _ i a

@[simp] theorem State.sbyte_onRing (s : State) (c r : Nat) (f : Ring → Ring) (i a : Nat) :
    (s.onRing c r f).sbyte i a = s.sbyte i a := s.sbyte_onCore c _ i a rfl rfl

/-- A scratch byte after a write that does not pass the end of the scratchpad: one of the bytes written, or as before. -/
theorem State.sbyte_swrite_inside (s : State) (c a i : Nat) (bs : List Byte) (h : i < bs.length) (e : a + bs.length ≤ 0x200000) :
    (s.swrite c a bs).sbyte c (a + i) = bs[i] := by
  unfold State.sbyte State.swrite
  rw [State.core_onCore, if_pos rfl, Nat.mod_eq_of_lt (by omega : a < 0x200000), Nat.mod_eq_of_lt (by omega : a + i < 0x200000),
    if_pos e]
  simp only [sfind_uwrite_inside bs (s.core c).scratch a i h]

theorem State.sbyte_swrite_outside (s : State) (c a i : Nat) (bs : List Byte) (h : i < a ∨ a + bs.length ≤ i) (hi : i < 0x200000)
    (ha : a < 0x200000) (e : a + bs.length ≤ 0x200000) : (s.swrite c a bs).sbyte c i = s.sbyte c i := by
  unfold State.sbyte State.swrite
  rw [State.core_onCore, if_pos rfl, Nat.mod_eq_of_lt ha, Nat.mod_eq_of_lt hi, if_pos e]
  simp only [sfind_uwrite_outside bs (s.core c).scratch a i h]

/-- Reading scratch bytes that were just written gives them. -/
theorem State.sread_swrite (s : State) (c a : Nat) (bs : List Byte) (e : a + bs.length ≤ 0x200000) :
    (s.swrite c a bs).sread c a bs.length = bs := by
  unfold State.sread upto
  refine List.ext_getElem (by rw [List.length_map, List.length_range]) (fun i h g => ?_)
  rw [List.getElem_map, List.getElem_range, State.sbyte_swrite_inside s c a i bs g e]

theorem SameBytes.refl (s : State) : SameBytes s s := ⟨⟨fun _ => rfl, fun _ => rfl⟩, fun _ _ => rfl⟩

theorem SameBytes.onStrand (s : State) (f : Strand → Strand) : SameBytes s (s.onStrand f) :=
  ⟨⟨fun _ => rfl, fun _ => rfl⟩, fun c a => s.sbyte_onStrand f c a⟩

/-- Two changes of a strand that agree on it are one. -/
theorem State.onStrand_congr (s : State) (f g : Strand → Strand) (h : f s.strand = g s.strand) :
    s.onStrand f = s.onStrand g := by
  show s.setCore _ ((s.core s.actor.core).onStrand f) = s.setCore _ ((s.core s.actor.core).onStrand g)
  unfold Core.onStrand
  rw [show f (s.core s.actor.core).strand = g (s.core s.actor.core).strand from h]

/-- Changing a core changes nothing outside it. -/
theorem OnlyCore.onCore (s : State) (c : Nat) (f : Core → Core) : OnlyCore s (s.onCore c f) c :=
  ⟨rfl, fun i h => s.core_onCore_other c i f h⟩

/-- Two changes of one core change nothing outside it. -/
theorem OnlyCore.trans {s t u : State} {c : Nat} (h : OnlyCore s t c) (k : OnlyCore t u c) : OnlyCore s u c := by
  refine ⟨?_, fun i hi => (k.2 i hi).trans (h.2 i hi)⟩
  have e : ({ u with cores := s.cores } : State) = { ({ u with cores := t.cores } : State) with cores := s.cores } := rfl
  rw [e, k.1, h.1]

/-- Changing a strand changes nothing outside it. -/
theorem OnlyStrand.onStrand (s : State) (f : Strand → Strand) : OnlyStrand s (s.onStrand f) := by
  refine ⟨SameBytes.onStrand s f, OnlyCore.onCore s _ _, ?_⟩
  rw [State.strand_onStrand]
  exact State.me_onMe s _

theorem SameBytes.trans {s t u : State} (h : SameBytes s t) (k : SameBytes t u) : SameBytes s u :=
  ⟨⟨fun a => (k.1.1 a).trans (h.1.1 a), fun a => (k.1.2 a).trans (h.1.2 a)⟩, fun c a => (k.2 c a).trans (h.2 c a)⟩

/-- Changing one core leaves the choice of the moving agent alone. -/
theorem OnlyCore.actor {s t : State} {c : Nat} (h : OnlyCore s t c) : t.actor = s.actor :=
  show ({ t with cores := s.cores } : State).actor = s.actor from congrArg State.actor h.1

/-- Two changes of a strand change nothing outside it. -/
theorem OnlyStrand.trans {s t u : State} (h : OnlyStrand s t) (k : OnlyStrand t u) : OnlyStrand s u := by
  obtain ⟨hb, hc, hm⟩ := h
  obtain ⟨kb, kc, km⟩ := k
  rw [hc.actor] at kc
  refine ⟨hb.trans kb, hc.trans kc, ?_⟩
  rw [km, hm]

/-! ## Writing a result -/

/-- A register write changes that register and nothing else. -/
theorem OnlyRegs.set (s : State) (d : Reg) (v : Word) : OnlyRegs s (s.set d v) [d] := by
  refine ⟨OnlyStrand.onStrand s _, ?_, ?_⟩
  · rw [show (s.set d v).strand = s.strand.set d v from s.strand_onStrand _]
    exact Strand.set_eq s.strand d v
  · intro r hr
    exact State.get_set_other s d r v (by simpa using hr)

/-- An instruction whose meaning is `result` writes its register and retires. -/
theorem writesReg_result {i : Instr} {s : State} {d : Reg} {v w : Word} (h : exec i s = .next (s.result d v)) (e : v = w) :
    WritesReg i s d w := by
  subst e
  exact ⟨s.set d v, h, by simp, OnlyRegs.set s d v⟩

end Sys2Proof.Machine
end

