-- ==== Sys2Proof/Laws/Exec.lean ====
section
/-! SUPPORT. What each shared operation of the meanings can do, said once: a body that answers or stops, a precise event, a
jump, a retirement, a write to a page's own store. -/

namespace Sys2Proof.Machine

/-! ## A body that answers, and one that stops -/

@[simp] theorem State.run_ok (s t : State) : s.run (.ok t) = t := rfl

@[simp] theorem State.run_error (s : State) (e : Stop) : s.run (.error e) = s.stop e := rfl

@[simp] theorem State.stop_event (s : State) (code info : Nat) : s.stop (.event code info) = s.trap code info := rfl

@[simp] theorem State.stop_stall (s : State) : s.stop .stall = s.onStrand (fun t => { t with stalled := true }) := rfl

@[simp] theorem State.stop_become (s : State) (st : Status) :
    s.stop (.become st) = s.onStrand (fun t => { t with status := st, record := t.queued, stalled := true }) := rfl

/-- What a strand's body leaves: its answer, or what stopping leaves. -/
theorem State.run_cases (s : State) (b : Chk State) : (∃ t, b = .ok t ∧ s.run b = t) ∨ ∃ e, b = .error e ∧ s.run b = s.stop e := by
  cases b with
  | ok t => exact .inl ⟨t, rfl, rfl⟩
  | error e => exact .inr ⟨e, rfl, rfl⟩

/-- A check that passes leaves the rest of the body; one that fails stops it. -/
theorem need_bind {α : Type} (ok : Bool) (e : Stop) (f : Unit → Chk α) :
    (need ok e >>= f) = if ok then f () else .error e := by
  cases ok <;> rfl

/-! ## Precise events (R253) -/

/-- With a valid handler that is not entered, the strand enters it. -/
theorem State.trap_enters (s : State) (code info : Nat) (v : s.strand.trapVecValid = true) (n : s.strand.inHandler = false) :
    s.trap code info = s.onStrand (fun t => t.enter code info) := by
  change s.trapOf s.actor.core code info = s.onStrandOf s.actor.core (fun t => t.enter code info)
  unfold State.trapOf
  dsimp only
  rw [show (s.core s.actor.core).strand = s.strand from rfl, v, n]
  rfl

/-- With none, or inside one, its node fails and the strand ends. -/
theorem State.trap_ends (s : State) (code info : Nat) (h : s.strand.trapVecValid = false ∨ s.strand.inHandler = true) :
    s.trap code info = (s.failNodeOf s.actor.core 5 (failInfo code s.strand.pc)).onStrandOf s.actor.core Strand.finish := by
  unfold State.trap State.trapOf
  dsimp only
  rw [show (s.core s.actor.core).strand = s.strand from rfl, if_pos]
  cases h with
  | inl h => simp [h]
  | inr h => simp [h]

/-! ## Jumping and retiring (R290) -/

/-- A jump sets PC and changes nothing outside the strand. -/
theorem State.jump_spec (s : State) (p : Va) : OnlyStrand s (s.jump p) ∧ (s.jump p).strand =
    { s.strand with pc := p, stalled := false, toForce := [], status := .running } :=
  ⟨OnlyStrand.onStrand s _, s.strand_onStrand _⟩

/-- An instruction whose meaning is a jump jumps. -/
theorem jumps_jump {i : Instr} {s : State} {p : Va} (h : exec i s = .next (s.jump p)) : Jumps i s p :=
  ⟨s.jump p, h, s.jump_spec p⟩

/-- Retiring changes nothing outside the strand. -/
theorem State.retire_spec (s : State) : OnlyStrand s s.retire ∧ s.retire.strand = s.strand.retired :=
  ⟨OnlyStrand.onStrand s _, s.strand_onStrand _⟩

/-- Retiring a strand that is in no loop body, or not at its last word, moves PC on by 4 and changes no register. -/
theorem Strand.retired_plain (t : Strand) (h : ∀ e rest, t.loops = e :: rest → t.pc ≠ e.last) :
    t.retired = { t with pc := pcAdd t.pc 1, stalled := false, toForce := [], status := .running } := by
  unfold Strand.retired Strand.advance
  cases hl : t.loops with
  | nil => simp
  | cons e rest => simp [h e rest hl]

/-! ## A page's own store (R101) -/

@[simp] theorem State.mem_bumpLine (s : State) (l : Nat) : (s.bumpLine l).mem = s.mem := rfl

@[simp] theorem State.hostMem_bumpLine (s : State) (l : Nat) : (s.bumpLine l).hostMem = s.hostMem := rfl

/-- An operation on the directories and counters: both memories stay. -/
def SameStores (s t : State) : Prop := t.mem = s.mem ∧ t.hostMem = s.hostMem

theorem SameStores.refl (s : State) : SameStores s s := ⟨rfl, rfl⟩

theorem SameStores.trans {s t u : State} (h : SameStores s t) (g : SameStores t u) : SameStores s u :=
  ⟨g.1.trans h.1, g.2.trans h.2⟩

/-- A sequence of such operations is one. -/
theorem SameStores.foldl {α : Type} (f : State → α → State) (h : ∀ s x, SameStores s (f s x)) (xs : List α) :
    ∀ s, SameStores s (xs.foldl f s) := by
  induction xs with
  | nil => exact SameStores.refl
  | cons x xs ih => exact fun s => (h s x).trans (ih (f s x))

/-- A line leaves an L2, its data written back: both memories stay. -/
theorem State.sameStores_evict (s : State) (k d : Nat) : SameStores s (s.evict k d) := by
  unfold State.evict State.writeBack
  dsimp only
  split
  · exact SameStores.refl s
  · split
    · split
      · exact ⟨rfl, rfl⟩
      · split <;> exact ⟨rfl, rfl⟩
    · exact ⟨rfl, rfl⟩

/-- A line leaves every L2. -/
theorem State.sameStores_evictAll (s : State) (k : Nat) : SameStores s (s.evictAll k) :=
  SameStores.foldl _ (fun s d => s.sameStores_evict k d) _ s

/-- Waiting for leases to end moves only the cycle: both memories stay (R177). -/
theorem State.sameStores_outwait (s : State) (mt : MType) (pa n : Nat) : SameStores s (s.outwait mt pa n) := by
  unfold State.outwait
  split <;> exact ⟨rfl, rfl⟩

/-- Noting what a walk's table read met leaves both memories (R106). -/
theorem State.sameStores_noteWalk (s : State) (f : Nat) (e : WalkFail) : SameStores s (s.noteWalk f e) := by
  unfold State.noteWalk
  split <;> exact ⟨rfl, rfl⟩

/-- A write to a device page: the bytes land there, and host memory stays. -/
theorem State.writePa_dev (s : State) (pa : Nat) (bs : List Byte) :
    (s.writePa .dev pa bs).mem = mwrite s.mem pa bs ∧ (s.writePa .dev pa bs).hostMem = s.hostMem :=
  SameStores.foldl (fun (s : State) l => if (s.dirLine l).dirty then s else s.bumpLine l)
    (fun s l => by split <;> exact ⟨rfl, rfl⟩) (linesOf pa bs.length) { s with mem := mwrite s.mem pa bs }

/-- A write to a host page: the bytes land there, and device memory stays. -/
theorem State.writePa_host (s : State) (mt : MType) (pa : Nat) (bs : List Byte) (h : mt ≠ .dev) :
    (s.writePa mt pa bs).hostMem = mwrite s.hostMem pa bs ∧ (s.writePa mt pa bs).mem = s.mem := by
  cases mt with
  | dev => exact absurd rfl h
  | hostc => exact ⟨rfl, rfl⟩
  | hosts => exact ⟨rfl, rfl⟩

/-- Both memories stay in their canonical form under every write to a page's own store. -/
theorem State.memWf_writePa (s : State) (mt : MType) (pa : Nat) (bs : List Byte) (h : s.memWf) : (s.writePa mt pa bs).memWf := by
  by_cases hd : mt = .dev
  · subst hd
    have w := s.writePa_dev pa bs
    exact ⟨by rw [w.1]; exact Memory.wf_mwrite bs s.mem pa h.1, by rw [w.2]; exact h.2⟩
  · have w := s.writePa_host mt pa bs hd
    exact ⟨by rw [w.2]; exact h.1, by rw [w.1]; exact Memory.wf_mwrite bs s.hostMem pa h.2⟩

/-- Both memories stay in their form where both stay. -/
theorem SameStores.memWf {s t : State} (h : SameStores s t) (w : s.memWf) : t.memWf :=
  ⟨by rw [h.1]; exact w.1, by rw [h.2]; exact w.2⟩

/-- The device's own uncached writes keep the form. -/
theorem State.memWf_putPa (s : State) (f : Nat) (mt : MType) (pa : Nat) (bs : List Byte) (h : s.memWf) : (s.putPa f mt pa bs).memWf := by
  have w := (s.sameStores_outwait mt pa bs.length).memWf h
  unfold State.putPa
  split
  · exact h
  · dsimp only
    split
    · exact State.memWf_writePa _ _ _ _
        ((SameStores.foldl (fun (s : State) l => s.evictAll l) (fun s l => s.sameStores_evictAll l) _ _).memWf w)
    · exact State.memWf_writePa _ _ _ _ w

/-- Setting D in a leaf keeps the form (R87). -/
theorem State.memWf_setDirty (s : State) (leaf : Nat) (h : s.memWf) : (s.setDirty leaf).memWf := State.memWf_putPa _ _ _ _ _ h

/-- A write to PF memory keeps the form. -/
theorem State.memWf_pfPut (s : State) (gpa : Nat) (bs : List Byte) (h : s.memWf) : (s.pfPut gpa bs).memWf := by
  unfold State.pfPut
  split
  · exact State.memWf_putPa _ _ _ _ _ h
  · exact (s.sameStores_noteWalk 0 _).memWf h

/-- Changing a function keeps the form. -/
theorem State.memWf_onFn (s : State) (f : Nat) (g : Fn → Fn) (h : s.memWf) : (s.onFn f g).memWf := h

/-- Changing a core keeps the form. -/
theorem State.memWf_onCore (s : State) (c : Nat) (f : Core → Core) (h : s.memWf) : (s.onCore c f).memWf := h

/-- Recording the dirty page of a write keeps the form (R87). -/
theorem State.memWf_noteWrite (s : State) (f : Nat) (t : Trans) (va : Nat) (h : s.memWf) : (s.noteWrite f t va).memWf := by
  unfold State.noteWrite
  split
  · unfold State.logPage
    exact State.memWf_onFn _ _ _ (State.memWf_pfPut _ _ _ (State.memWf_pfPut _ _ _ (s.memWf_setDirty _ h)))
  · exact h

/-- A write through a page keeps the form. -/
theorem State.memWf_writeVia (s : State) (f : Nat) (t : Trans) (va : Nat) (bs : List Byte) (h : s.memWf) : (s.writeVia f t va bs).memWf :=
  State.memWf_writePa _ _ _ _ (s.memWf_noteWrite f t va h)

/-- Taking a precise event keeps the form. -/
theorem State.memWf_trapOf (s : State) (c code info : Nat) (h : s.memWf) : (s.trapOf c code info).memWf := by
  unfold State.trapOf
  dsimp only
  split
  · unfold State.failNodeOf
    split
    · exact h
    · exact h
  · exact h

end Sys2Proof.Machine
end

