-- ==== Sys2Proof/Laws/PerInstr.lean ====
section
/-! SUPPORT. What holds of every instruction as syntax, one lemma per constructor: it has a strand word, an engine word or
neither, its ring goes with its engine word, and `wordOf` is its strand word (R270, R274). -/

/-- An instruction has at most one encoding; an engine word goes with a ring; `wordOf` is the strand word. -/
def Sys2Proof.Laws.Encoding.Statement (i : Sys2Proof.Instr) : Prop :=
  (Sys2Proof.encodeStrand i = none ∨ Sys2Proof.encodeEngine i = none) ∧
  (Sys2Proof.encodeEngine i).isSome = (Sys2Proof.engineRing i).isSome ∧
  ∀ w, Sys2Proof.encodeStrand i = some w → Sys2Proof.wordOf i = w

open Sys2Proof

theorem Sys2Proof.Laws.Encoding.add (d : BitVec 6) (a : BitVec 6) (b : BitVec 6) : Sys2Proof.Laws.Encoding.Statement (.add d a b) :=
  ⟨.inr rfl, rfl, fun _ h => congrArg (·.getD 0) h⟩
theorem Sys2Proof.Laws.Encoding.sub (d : BitVec 6) (a : BitVec 6) (b : BitVec 6) : Sys2Proof.Laws.Encoding.Statement (.sub d a b) :=
  ⟨.inr rfl, rfl, fun _ h => congrArg (·.getD 0) h⟩
theorem Sys2Proof.Laws.Encoding.and (d : BitVec 6) (a : BitVec 6) (b : BitVec 6) : Sys2Proof.Laws.Encoding.Statement (.and d a b) :=
  ⟨.inr rfl, rfl, fun _ h => congrArg (·.getD 0) h⟩
theorem Sys2Proof.Laws.Encoding.or (d : BitVec 6) (a : BitVec 6) (b : BitVec 6) : Sys2Proof.Laws.Encoding.Statement (.or d a b) :=
  ⟨.inr rfl, rfl, fun _ h => congrArg (·.getD 0) h⟩
theorem Sys2Proof.Laws.Encoding.xor (d : BitVec 6) (a : BitVec 6) (b : BitVec 6) : Sys2Proof.Laws.Encoding.Statement (.xor d a b) :=
  ⟨.inr rfl, rfl, fun _ h => congrArg (·.getD 0) h⟩
theorem Sys2Proof.Laws.Encoding.andn (d : BitVec 6) (a : BitVec 6) (b : BitVec 6) : Sys2Proof.Laws.Encoding.Statement (.andn d a b) :=
  ⟨.inr rfl, rfl, fun _ h => congrArg (·.getD 0) h⟩
theorem Sys2Proof.Laws.Encoding.sll (d : BitVec 6) (a : BitVec 6) (b : BitVec 6) : Sys2Proof.Laws.Encoding.Statement (.sll d a b) :=
  ⟨.inr rfl, rfl, fun _ h => congrArg (·.getD 0) h⟩
theorem Sys2Proof.Laws.Encoding.srl (d : BitVec 6) (a : BitVec 6) (b : BitVec 6) : Sys2Proof.Laws.Encoding.Statement (.srl d a b) :=
  ⟨.inr rfl, rfl, fun _ h => congrArg (·.getD 0) h⟩
theorem Sys2Proof.Laws.Encoding.sra (d : BitVec 6) (a : BitVec 6) (b : BitVec 6) : Sys2Proof.Laws.Encoding.Statement (.sra d a b) :=
  ⟨.inr rfl, rfl, fun _ h => congrArg (·.getD 0) h⟩
theorem Sys2Proof.Laws.Encoding.mul (d : BitVec 6) (a : BitVec 6) (b : BitVec 6) : Sys2Proof.Laws.Encoding.Statement (.mul d a b) :=
  ⟨.inr rfl, rfl, fun _ h => congrArg (·.getD 0) h⟩
theorem Sys2Proof.Laws.Encoding.mulhu (d : BitVec 6) (a : BitVec 6) (b : BitVec 6) : Sys2Proof.Laws.Encoding.Statement (.mulhu d a b) :=
  ⟨.inr rfl, rfl, fun _ h => congrArg (·.getD 0) h⟩
theorem Sys2Proof.Laws.Encoding.mulhs (d : BitVec 6) (a : BitVec 6) (b : BitVec 6) : Sys2Proof.Laws.Encoding.Statement (.mulhs d a b) :=
  ⟨.inr rfl, rfl, fun _ h => congrArg (·.getD 0) h⟩
theorem Sys2Proof.Laws.Encoding.div (d : BitVec 6) (a : BitVec 6) (b : BitVec 6) : Sys2Proof.Laws.Encoding.Statement (.div d a b) :=
  ⟨.inr rfl, rfl, fun _ h => congrArg (·.getD 0) h⟩
theorem Sys2Proof.Laws.Encoding.divu (d : BitVec 6) (a : BitVec 6) (b : BitVec 6) : Sys2Proof.Laws.Encoding.Statement (.divu d a b) :=
  ⟨.inr rfl, rfl, fun _ h => congrArg (·.getD 0) h⟩
theorem Sys2Proof.Laws.Encoding.rem (d : BitVec 6) (a : BitVec 6) (b : BitVec 6) : Sys2Proof.Laws.Encoding.Statement (.rem d a b) :=
  ⟨.inr rfl, rfl, fun _ h => congrArg (·.getD 0) h⟩
theorem Sys2Proof.Laws.Encoding.remu (d : BitVec 6) (a : BitVec 6) (b : BitVec 6) : Sys2Proof.Laws.Encoding.Statement (.remu d a b) :=
  ⟨.inr rfl, rfl, fun _ h => congrArg (·.getD 0) h⟩
theorem Sys2Proof.Laws.Encoding.min (d : BitVec 6) (a : BitVec 6) (b : BitVec 6) : Sys2Proof.Laws.Encoding.Statement (.min d a b) :=
  ⟨.inr rfl, rfl, fun _ h => congrArg (·.getD 0) h⟩
theorem Sys2Proof.Laws.Encoding.max (d : BitVec 6) (a : BitVec 6) (b : BitVec 6) : Sys2Proof.Laws.Encoding.Statement (.max d a b) :=
  ⟨.inr rfl, rfl, fun _ h => congrArg (·.getD 0) h⟩
theorem Sys2Proof.Laws.Encoding.minu (d : BitVec 6) (a : BitVec 6) (b : BitVec 6) : Sys2Proof.Laws.Encoding.Statement (.minu d a b) :=
  ⟨.inr rfl, rfl, fun _ h => congrArg (·.getD 0) h⟩
theorem Sys2Proof.Laws.Encoding.maxu (d : BitVec 6) (a : BitVec 6) (b : BitVec 6) : Sys2Proof.Laws.Encoding.Statement (.maxu d a b) :=
  ⟨.inr rfl, rfl, fun _ h => congrArg (·.getD 0) h⟩
theorem Sys2Proof.Laws.Encoding.slt (d : BitVec 6) (a : BitVec 6) (b : BitVec 6) : Sys2Proof.Laws.Encoding.Statement (.slt d a b) :=
  ⟨.inr rfl, rfl, fun _ h => congrArg (·.getD 0) h⟩
theorem Sys2Proof.Laws.Encoding.sltu (d : BitVec 6) (a : BitVec 6) (b : BitVec 6) : Sys2Proof.Laws.Encoding.Statement (.sltu d a b) :=
  ⟨.inr rfl, rfl, fun _ h => congrArg (·.getD 0) h⟩
theorem Sys2Proof.Laws.Encoding.seq (d : BitVec 6) (a : BitVec 6) (b : BitVec 6) : Sys2Proof.Laws.Encoding.Statement (.seq d a b) :=
  ⟨.inr rfl, rfl, fun _ h => congrArg (·.getD 0) h⟩
theorem Sys2Proof.Laws.Encoding.clz (d : BitVec 6) (a : BitVec 6) : Sys2Proof.Laws.Encoding.Statement (.clz d a) :=
  ⟨.inr rfl, rfl, fun _ h => congrArg (·.getD 0) h⟩
theorem Sys2Proof.Laws.Encoding.ctz (d : BitVec 6) (a : BitVec 6) : Sys2Proof.Laws.Encoding.Statement (.ctz d a) :=
  ⟨.inr rfl, rfl, fun _ h => congrArg (·.getD 0) h⟩
theorem Sys2Proof.Laws.Encoding.popc (d : BitVec 6) (a : BitVec 6) : Sys2Proof.Laws.Encoding.Statement (.popc d a) :=
  ⟨.inr rfl, rfl, fun _ h => congrArg (·.getD 0) h⟩
theorem Sys2Proof.Laws.Encoding.sext (d : BitVec 6) (a : BitVec 6) (w : BitVec 6) : Sys2Proof.Laws.Encoding.Statement (.sext d a w) :=
  ⟨.inr rfl, rfl, fun _ h => congrArg (·.getD 0) h⟩
theorem Sys2Proof.Laws.Encoding.zext (d : BitVec 6) (a : BitVec 6) (w : BitVec 6) : Sys2Proof.Laws.Encoding.Statement (.zext d a w) :=
  ⟨.inr rfl, rfl, fun _ h => congrArg (·.getD 0) h⟩
theorem Sys2Proof.Laws.Encoding.addi (d : BitVec 6) (a : BitVec 6) (imm : BitVec 14) : Sys2Proof.Laws.Encoding.Statement (.addi d a imm) :=
  ⟨.inr rfl, rfl, fun _ h => congrArg (·.getD 0) h⟩
theorem Sys2Proof.Laws.Encoding.andi (d : BitVec 6) (a : BitVec 6) (imm : BitVec 14) : Sys2Proof.Laws.Encoding.Statement (.andi d a imm) :=
  ⟨.inr rfl, rfl, fun _ h => congrArg (·.getD 0) h⟩
theorem Sys2Proof.Laws.Encoding.ori (d : BitVec 6) (a : BitVec 6) (imm : BitVec 14) : Sys2Proof.Laws.Encoding.Statement (.ori d a imm) :=
  ⟨.inr rfl, rfl, fun _ h => congrArg (·.getD 0) h⟩
theorem Sys2Proof.Laws.Encoding.xori (d : BitVec 6) (a : BitVec 6) (imm : BitVec 14) : Sys2Proof.Laws.Encoding.Statement (.xori d a imm) :=
  ⟨.inr rfl, rfl, fun _ h => congrArg (·.getD 0) h⟩
theorem Sys2Proof.Laws.Encoding.slti (d : BitVec 6) (a : BitVec 6) (imm : BitVec 14) : Sys2Proof.Laws.Encoding.Statement (.slti d a imm) :=
  ⟨.inr rfl, rfl, fun _ h => congrArg (·.getD 0) h⟩
theorem Sys2Proof.Laws.Encoding.sltiu (d : BitVec 6) (a : BitVec 6) (imm : BitVec 14) : Sys2Proof.Laws.Encoding.Statement (.sltiu d a imm) :=
  ⟨.inr rfl, rfl, fun _ h => congrArg (·.getD 0) h⟩
theorem Sys2Proof.Laws.Encoding.slli (d : BitVec 6) (a : BitVec 6) (sh : BitVec 6) : Sys2Proof.Laws.Encoding.Statement (.slli d a sh) :=
  ⟨.inr rfl, rfl, fun _ h => congrArg (·.getD 0) h⟩
theorem Sys2Proof.Laws.Encoding.srli (d : BitVec 6) (a : BitVec 6) (sh : BitVec 6) : Sys2Proof.Laws.Encoding.Statement (.srli d a sh) :=
  ⟨.inr rfl, rfl, fun _ h => congrArg (·.getD 0) h⟩
theorem Sys2Proof.Laws.Encoding.srai (d : BitVec 6) (a : BitVec 6) (sh : BitVec 6) : Sys2Proof.Laws.Encoding.Statement (.srai d a sh) :=
  ⟨.inr rfl, rfl, fun _ h => congrArg (·.getD 0) h⟩
theorem Sys2Proof.Laws.Encoding.li (d : BitVec 6) (imm : BitVec 20) : Sys2Proof.Laws.Encoding.Statement (.li d imm) :=
  ⟨.inr rfl, rfl, fun _ h => congrArg (·.getD 0) h⟩
theorem Sys2Proof.Laws.Encoding.lih (d : BitVec 6) (imm : BitVec 20) : Sys2Proof.Laws.Encoding.Statement (.lih d imm) :=
  ⟨.inr rfl, rfl, fun _ h => congrArg (·.getD 0) h⟩
theorem Sys2Proof.Laws.Encoding.fadd (dbl : Bool) (d : BitVec 6) (a : BitVec 6) (b : BitVec 6) : Sys2Proof.Laws.Encoding.Statement (.fadd dbl d a b) :=
  ⟨.inr rfl, rfl, fun _ h => congrArg (·.getD 0) h⟩
theorem Sys2Proof.Laws.Encoding.fsub (dbl : Bool) (d : BitVec 6) (a : BitVec 6) (b : BitVec 6) : Sys2Proof.Laws.Encoding.Statement (.fsub dbl d a b) :=
  ⟨.inr rfl, rfl, fun _ h => congrArg (·.getD 0) h⟩
theorem Sys2Proof.Laws.Encoding.fmul (dbl : Bool) (d : BitVec 6) (a : BitVec 6) (b : BitVec 6) : Sys2Proof.Laws.Encoding.Statement (.fmul dbl d a b) :=
  ⟨.inr rfl, rfl, fun _ h => congrArg (·.getD 0) h⟩
theorem Sys2Proof.Laws.Encoding.fdiv (dbl : Bool) (d : BitVec 6) (a : BitVec 6) (b : BitVec 6) : Sys2Proof.Laws.Encoding.Statement (.fdiv dbl d a b) :=
  ⟨.inr rfl, rfl, fun _ h => congrArg (·.getD 0) h⟩
theorem Sys2Proof.Laws.Encoding.fsqrt (dbl : Bool) (d : BitVec 6) (a : BitVec 6) : Sys2Proof.Laws.Encoding.Statement (.fsqrt dbl d a) :=
  ⟨.inr rfl, rfl, fun _ h => congrArg (·.getD 0) h⟩
theorem Sys2Proof.Laws.Encoding.fmin (dbl : Bool) (d : BitVec 6) (a : BitVec 6) (b : BitVec 6) : Sys2Proof.Laws.Encoding.Statement (.fmin dbl d a b) :=
  ⟨.inr rfl, rfl, fun _ h => congrArg (·.getD 0) h⟩
theorem Sys2Proof.Laws.Encoding.fmax (dbl : Bool) (d : BitVec 6) (a : BitVec 6) (b : BitVec 6) : Sys2Proof.Laws.Encoding.Statement (.fmax dbl d a b) :=
  ⟨.inr rfl, rfl, fun _ h => congrArg (·.getD 0) h⟩
theorem Sys2Proof.Laws.Encoding.fma (dbl : Bool) (d : BitVec 6) (a : BitVec 6) (b : BitVec 6) : Sys2Proof.Laws.Encoding.Statement (.fma dbl d a b) :=
  ⟨.inr rfl, rfl, fun _ h => congrArg (·.getD 0) h⟩
theorem Sys2Proof.Laws.Encoding.fcmpeq (dbl : Bool) (d : BitVec 6) (a : BitVec 6) (b : BitVec 6) : Sys2Proof.Laws.Encoding.Statement (.fcmpeq dbl d a b) :=
  ⟨.inr rfl, rfl, fun _ h => congrArg (·.getD 0) h⟩
theorem Sys2Proof.Laws.Encoding.fcmplt (dbl : Bool) (d : BitVec 6) (a : BitVec 6) (b : BitVec 6) : Sys2Proof.Laws.Encoding.Statement (.fcmplt dbl d a b) :=
  ⟨.inr rfl, rfl, fun _ h => congrArg (·.getD 0) h⟩
theorem Sys2Proof.Laws.Encoding.fcmple (dbl : Bool) (d : BitVec 6) (a : BitVec 6) (b : BitVec 6) : Sys2Proof.Laws.Encoding.Statement (.fcmple dbl d a b) :=
  ⟨.inr rfl, rfl, fun _ h => congrArg (·.getD 0) h⟩
theorem Sys2Proof.Laws.Encoding.fclass (dbl : Bool) (d : BitVec 6) (a : BitVec 6) : Sys2Proof.Laws.Encoding.Statement (.fclass dbl d a) :=
  ⟨.inr rfl, rfl, fun _ h => congrArg (·.getD 0) h⟩
theorem Sys2Proof.Laws.Encoding.fcvt (dbl : Bool) (d : BitVec 6) (a : BitVec 6) (code : BitVec 6) : Sys2Proof.Laws.Encoding.Statement (.fcvt dbl d a code) :=
  ⟨.inr rfl, rfl, fun _ h => congrArg (·.getD 0) h⟩
theorem Sys2Proof.Laws.Encoding.beq (a : BitVec 6) (b : BitVec 6) (off : BitVec 14) : Sys2Proof.Laws.Encoding.Statement (.beq a b off) :=
  ⟨.inr rfl, rfl, fun _ h => congrArg (·.getD 0) h⟩
theorem Sys2Proof.Laws.Encoding.bne (a : BitVec 6) (b : BitVec 6) (off : BitVec 14) : Sys2Proof.Laws.Encoding.Statement (.bne a b off) :=
  ⟨.inr rfl, rfl, fun _ h => congrArg (·.getD 0) h⟩
theorem Sys2Proof.Laws.Encoding.blt (a : BitVec 6) (b : BitVec 6) (off : BitVec 14) : Sys2Proof.Laws.Encoding.Statement (.blt a b off) :=
  ⟨.inr rfl, rfl, fun _ h => congrArg (·.getD 0) h⟩
theorem Sys2Proof.Laws.Encoding.bge (a : BitVec 6) (b : BitVec 6) (off : BitVec 14) : Sys2Proof.Laws.Encoding.Statement (.bge a b off) :=
  ⟨.inr rfl, rfl, fun _ h => congrArg (·.getD 0) h⟩
theorem Sys2Proof.Laws.Encoding.bltu (a : BitVec 6) (b : BitVec 6) (off : BitVec 14) : Sys2Proof.Laws.Encoding.Statement (.bltu a b off) :=
  ⟨.inr rfl, rfl, fun _ h => congrArg (·.getD 0) h⟩
theorem Sys2Proof.Laws.Encoding.bgeu (a : BitVec 6) (b : BitVec 6) (off : BitVec 14) : Sys2Proof.Laws.Encoding.Statement (.bgeu a b off) :=
  ⟨.inr rfl, rfl, fun _ h => congrArg (·.getD 0) h⟩
theorem Sys2Proof.Laws.Encoding.jal (d : BitVec 6) (off : BitVec 20) : Sys2Proof.Laws.Encoding.Statement (.jal d off) :=
  ⟨.inr rfl, rfl, fun _ h => congrArg (·.getD 0) h⟩
theorem Sys2Proof.Laws.Encoding.jalr (d : BitVec 6) (a : BitVec 6) (imm : BitVec 14) : Sys2Proof.Laws.Encoding.Statement (.jalr d a imm) :=
  ⟨.inr rfl, rfl, fun _ h => congrArg (·.getD 0) h⟩
theorem Sys2Proof.Laws.Encoding.loop (a : BitVec 6) (off : BitVec 14) : Sys2Proof.Laws.Encoding.Statement (.loop a off) :=
  ⟨.inr rfl, rfl, fun _ h => congrArg (·.getD 0) h⟩
theorem Sys2Proof.Laws.Encoding.mfs (d : BitVec 6) (num : BitVec 12) : Sys2Proof.Laws.Encoding.Statement (.mfs d num) :=
  ⟨.inr rfl, rfl, fun _ h => congrArg (·.getD 0) h⟩
theorem Sys2Proof.Laws.Encoding.mts (d : BitVec 6) (num : BitVec 12) : Sys2Proof.Laws.Encoding.Statement (.mts d num) :=
  ⟨.inr rfl, rfl, fun _ h => congrArg (·.getD 0) h⟩
theorem Sys2Proof.Laws.Encoding.vdq (d : BitVec 6) (a : BitVec 6) (b : BitVec 6) : Sys2Proof.Laws.Encoding.Statement (.vdq d a b) :=
  ⟨.inr rfl, rfl, fun _ h => congrArg (·.getD 0) h⟩
theorem Sys2Proof.Laws.Encoding.sflag (d : BitVec 6) (a : BitVec 6) : Sys2Proof.Laws.Encoding.Statement (.sflag d a) :=
  ⟨.inr rfl, rfl, fun _ h => congrArg (·.getD 0) h⟩
theorem Sys2Proof.Laws.Encoding.rdid (d : BitVec 6) (sel : BitVec 6) : Sys2Proof.Laws.Encoding.Statement (.rdid d sel) :=
  ⟨.inr rfl, rfl, fun _ h => congrArg (·.getD 0) h⟩
theorem Sys2Proof.Laws.Encoding.ld (d : BitVec 6) (h : BitVec 4) (w : BitVec 2) (x : Bool) (a : BitVec 6) (imm : BitVec 7) : Sys2Proof.Laws.Encoding.Statement (.ld d h w x a imm) :=
  ⟨.inr rfl, rfl, fun _ h => congrArg (·.getD 0) h⟩
theorem Sys2Proof.Laws.Encoding.st (b : BitVec 6) (h : BitVec 4) (w : BitVec 2) (a : BitVec 6) (imm : BitVec 7) : Sys2Proof.Laws.Encoding.Statement (.st b h w a imm) :=
  ⟨.inr rfl, rfl, fun _ h => congrArg (·.getD 0) h⟩
theorem Sys2Proof.Laws.Encoding.lds (d : BitVec 6) (w : BitVec 2) (x : Bool) (a : BitVec 6) (imm : BitVec 11) : Sys2Proof.Laws.Encoding.Statement (.lds d w x a imm) :=
  ⟨.inr rfl, rfl, fun _ h => congrArg (·.getD 0) h⟩
theorem Sys2Proof.Laws.Encoding.sts (d : BitVec 6) (w : BitVec 2) (a : BitVec 6) (imm : BitVec 11) : Sys2Proof.Laws.Encoding.Statement (.sts d w a imm) :=
  ⟨.inr rfl, rfl, fun _ h => congrArg (·.getD 0) h⟩
theorem Sys2Proof.Laws.Encoding.pf (h : BitVec 4) (w : BitVec 2) (x : Bool) (a : BitVec 6) (imm : BitVec 7) : Sys2Proof.Laws.Encoding.Statement (.pf h w x a imm) :=
  ⟨.inr rfl, rfl, fun _ h => congrArg (·.getD 0) h⟩
theorem Sys2Proof.Laws.Encoding.trans (h : BitVec 6) (a : BitVec 6) : Sys2Proof.Laws.Encoding.Statement (.trans h a) :=
  ⟨.inr rfl, rfl, fun _ h => congrArg (·.getD 0) h⟩
theorem Sys2Proof.Laws.Encoding.hinv (h : BitVec 6) : Sys2Proof.Laws.Encoding.Statement (.hinv h) :=
  ⟨.inr rfl, rfl, fun _ h => congrArg (·.getD 0) h⟩
theorem Sys2Proof.Laws.Encoding.hqry (d : BitVec 6) (h : BitVec 6) : Sys2Proof.Laws.Encoding.Statement (.hqry d h) :=
  ⟨.inr rfl, rfl, fun _ h => congrArg (·.getD 0) h⟩
theorem Sys2Proof.Laws.Encoding.atom32Add (d : BitVec 6) (h : BitVec 4) (a : BitVec 6) (b : BitVec 6) : Sys2Proof.Laws.Encoding.Statement (.atom32Add d h a b) :=
  ⟨.inr rfl, rfl, fun _ h => congrArg (·.getD 0) h⟩
theorem Sys2Proof.Laws.Encoding.atom32And (d : BitVec 6) (h : BitVec 4) (a : BitVec 6) (b : BitVec 6) : Sys2Proof.Laws.Encoding.Statement (.atom32And d h a b) :=
  ⟨.inr rfl, rfl, fun _ h => congrArg (·.getD 0) h⟩
theorem Sys2Proof.Laws.Encoding.atom32Or (d : BitVec 6) (h : BitVec 4) (a : BitVec 6) (b : BitVec 6) : Sys2Proof.Laws.Encoding.Statement (.atom32Or d h a b) :=
  ⟨.inr rfl, rfl, fun _ h => congrArg (·.getD 0) h⟩
theorem Sys2Proof.Laws.Encoding.atom32Xor (d : BitVec 6) (h : BitVec 4) (a : BitVec 6) (b : BitVec 6) : Sys2Proof.Laws.Encoding.Statement (.atom32Xor d h a b) :=
  ⟨.inr rfl, rfl, fun _ h => congrArg (·.getD 0) h⟩
theorem Sys2Proof.Laws.Encoding.atom32Min (d : BitVec 6) (h : BitVec 4) (a : BitVec 6) (b : BitVec 6) : Sys2Proof.Laws.Encoding.Statement (.atom32Min d h a b) :=
  ⟨.inr rfl, rfl, fun _ h => congrArg (·.getD 0) h⟩
theorem Sys2Proof.Laws.Encoding.atom32Max (d : BitVec 6) (h : BitVec 4) (a : BitVec 6) (b : BitVec 6) : Sys2Proof.Laws.Encoding.Statement (.atom32Max d h a b) :=
  ⟨.inr rfl, rfl, fun _ h => congrArg (·.getD 0) h⟩
theorem Sys2Proof.Laws.Encoding.atom32Minu (d : BitVec 6) (h : BitVec 4) (a : BitVec 6) (b : BitVec 6) : Sys2Proof.Laws.Encoding.Statement (.atom32Minu d h a b) :=
  ⟨.inr rfl, rfl, fun _ h => congrArg (·.getD 0) h⟩
theorem Sys2Proof.Laws.Encoding.atom32Maxu (d : BitVec 6) (h : BitVec 4) (a : BitVec 6) (b : BitVec 6) : Sys2Proof.Laws.Encoding.Statement (.atom32Maxu d h a b) :=
  ⟨.inr rfl, rfl, fun _ h => congrArg (·.getD 0) h⟩
theorem Sys2Proof.Laws.Encoding.atom32Xchg (d : BitVec 6) (h : BitVec 4) (a : BitVec 6) (b : BitVec 6) : Sys2Proof.Laws.Encoding.Statement (.atom32Xchg d h a b) :=
  ⟨.inr rfl, rfl, fun _ h => congrArg (·.getD 0) h⟩
theorem Sys2Proof.Laws.Encoding.atom32Cas (d : BitVec 6) (h : BitVec 4) (a : BitVec 6) (b : BitVec 6) : Sys2Proof.Laws.Encoding.Statement (.atom32Cas d h a b) :=
  ⟨.inr rfl, rfl, fun _ h => congrArg (·.getD 0) h⟩
theorem Sys2Proof.Laws.Encoding.atom32Fadd (d : BitVec 6) (h : BitVec 4) (a : BitVec 6) (b : BitVec 6) : Sys2Proof.Laws.Encoding.Statement (.atom32Fadd d h a b) :=
  ⟨.inr rfl, rfl, fun _ h => congrArg (·.getD 0) h⟩
theorem Sys2Proof.Laws.Encoding.atom32Fmin (d : BitVec 6) (h : BitVec 4) (a : BitVec 6) (b : BitVec 6) : Sys2Proof.Laws.Encoding.Statement (.atom32Fmin d h a b) :=
  ⟨.inr rfl, rfl, fun _ h => congrArg (·.getD 0) h⟩
theorem Sys2Proof.Laws.Encoding.atom32Fmax (d : BitVec 6) (h : BitVec 4) (a : BitVec 6) (b : BitVec 6) : Sys2Proof.Laws.Encoding.Statement (.atom32Fmax d h a b) :=
  ⟨.inr rfl, rfl, fun _ h => congrArg (·.getD 0) h⟩
theorem Sys2Proof.Laws.Encoding.atom64Add (d : BitVec 6) (h : BitVec 4) (a : BitVec 6) (b : BitVec 6) : Sys2Proof.Laws.Encoding.Statement (.atom64Add d h a b) :=
  ⟨.inr rfl, rfl, fun _ h => congrArg (·.getD 0) h⟩
theorem Sys2Proof.Laws.Encoding.atom64And (d : BitVec 6) (h : BitVec 4) (a : BitVec 6) (b : BitVec 6) : Sys2Proof.Laws.Encoding.Statement (.atom64And d h a b) :=
  ⟨.inr rfl, rfl, fun _ h => congrArg (·.getD 0) h⟩
theorem Sys2Proof.Laws.Encoding.atom64Or (d : BitVec 6) (h : BitVec 4) (a : BitVec 6) (b : BitVec 6) : Sys2Proof.Laws.Encoding.Statement (.atom64Or d h a b) :=
  ⟨.inr rfl, rfl, fun _ h => congrArg (·.getD 0) h⟩
theorem Sys2Proof.Laws.Encoding.atom64Xor (d : BitVec 6) (h : BitVec 4) (a : BitVec 6) (b : BitVec 6) : Sys2Proof.Laws.Encoding.Statement (.atom64Xor d h a b) :=
  ⟨.inr rfl, rfl, fun _ h => congrArg (·.getD 0) h⟩
theorem Sys2Proof.Laws.Encoding.atom64Min (d : BitVec 6) (h : BitVec 4) (a : BitVec 6) (b : BitVec 6) : Sys2Proof.Laws.Encoding.Statement (.atom64Min d h a b) :=
  ⟨.inr rfl, rfl, fun _ h => congrArg (·.getD 0) h⟩
theorem Sys2Proof.Laws.Encoding.atom64Max (d : BitVec 6) (h : BitVec 4) (a : BitVec 6) (b : BitVec 6) : Sys2Proof.Laws.Encoding.Statement (.atom64Max d h a b) :=
  ⟨.inr rfl, rfl, fun _ h => congrArg (·.getD 0) h⟩
theorem Sys2Proof.Laws.Encoding.atom64Minu (d : BitVec 6) (h : BitVec 4) (a : BitVec 6) (b : BitVec 6) : Sys2Proof.Laws.Encoding.Statement (.atom64Minu d h a b) :=
  ⟨.inr rfl, rfl, fun _ h => congrArg (·.getD 0) h⟩
theorem Sys2Proof.Laws.Encoding.atom64Maxu (d : BitVec 6) (h : BitVec 4) (a : BitVec 6) (b : BitVec 6) : Sys2Proof.Laws.Encoding.Statement (.atom64Maxu d h a b) :=
  ⟨.inr rfl, rfl, fun _ h => congrArg (·.getD 0) h⟩
theorem Sys2Proof.Laws.Encoding.atom64Xchg (d : BitVec 6) (h : BitVec 4) (a : BitVec 6) (b : BitVec 6) : Sys2Proof.Laws.Encoding.Statement (.atom64Xchg d h a b) :=
  ⟨.inr rfl, rfl, fun _ h => congrArg (·.getD 0) h⟩
theorem Sys2Proof.Laws.Encoding.atom64Cas (d : BitVec 6) (h : BitVec 4) (a : BitVec 6) (b : BitVec 6) : Sys2Proof.Laws.Encoding.Statement (.atom64Cas d h a b) :=
  ⟨.inr rfl, rfl, fun _ h => congrArg (·.getD 0) h⟩
theorem Sys2Proof.Laws.Encoding.atom64Fadd (d : BitVec 6) (h : BitVec 4) (a : BitVec 6) (b : BitVec 6) : Sys2Proof.Laws.Encoding.Statement (.atom64Fadd d h a b) :=
  ⟨.inr rfl, rfl, fun _ h => congrArg (·.getD 0) h⟩
theorem Sys2Proof.Laws.Encoding.atom64Fmin (d : BitVec 6) (h : BitVec 4) (a : BitVec 6) (b : BitVec 6) : Sys2Proof.Laws.Encoding.Statement (.atom64Fmin d h a b) :=
  ⟨.inr rfl, rfl, fun _ h => congrArg (·.getD 0) h⟩
theorem Sys2Proof.Laws.Encoding.atom64Fmax (d : BitVec 6) (h : BitVec 4) (a : BitVec 6) (b : BitVec 6) : Sys2Proof.Laws.Encoding.Statement (.atom64Fmax d h a b) :=
  ⟨.inr rfl, rfl, fun _ h => congrArg (·.getD 0) h⟩
theorem Sys2Proof.Laws.Encoding.lease (h : BitVec 4) (a : BitVec 6) : Sys2Proof.Laws.Encoding.Statement (.lease h a) :=
  ⟨.inr rfl, rfl, fun _ h => congrArg (·.getD 0) h⟩
theorem Sys2Proof.Laws.Encoding.unlease (d : BitVec 6) : Sys2Proof.Laws.Encoding.Statement (.unlease d) :=
  ⟨.inr rfl, rfl, fun _ h => congrArg (·.getD 0) h⟩
theorem Sys2Proof.Laws.Encoding.fence (kind : BitVec 2) (scope : BitVec 3) (win : BitVec 6) : Sys2Proof.Laws.Encoding.Statement (.fence kind scope win) :=
  ⟨.inr rfl, rfl, fun _ h => congrArg (·.getD 0) h⟩
theorem Sys2Proof.Laws.Encoding.rcfence : Sys2Proof.Laws.Encoding.Statement (.rcfence) :=
  ⟨.inr rfl, rfl, fun _ h => congrArg (·.getD 0) h⟩
theorem Sys2Proof.Laws.Encoding.swait (eq : Bool) (a : BitVec 6) (b : BitVec 6) : Sys2Proof.Laws.Encoding.Statement (.swait eq a b) :=
  ⟨.inr rfl, rfl, fun _ h => congrArg (·.getD 0) h⟩
theorem Sys2Proof.Laws.Encoding.ssig (a : BitVec 6) (b : BitVec 6) : Sys2Proof.Laws.Encoding.Statement (.ssig a b) :=
  ⟨.inr rfl, rfl, fun _ h => congrArg (·.getD 0) h⟩
theorem Sys2Proof.Laws.Encoding.sread (d : BitVec 6) (a : BitVec 6) : Sys2Proof.Laws.Encoding.Statement (.sread d a) :=
  ⟨.inr rfl, rfl, fun _ h => congrArg (·.getD 0) h⟩
theorem Sys2Proof.Laws.Encoding.sinit (a : BitVec 6) (b : BitVec 6) : Sys2Proof.Laws.Encoding.Statement (.sinit a b) :=
  ⟨.inr rfl, rfl, fun _ h => congrArg (·.getD 0) h⟩
theorem Sys2Proof.Laws.Encoding.salias (n : BitVec 6) (a : BitVec 6) : Sys2Proof.Laws.Encoding.Statement (.salias n a) :=
  ⟨.inr rfl, rfl, fun _ h => congrArg (·.getD 0) h⟩
theorem Sys2Proof.Laws.Encoding.waitq (d : BitVec 6) (h : BitVec 4) (a : BitVec 6) : Sys2Proof.Laws.Encoding.Statement (.waitq d h a) :=
  ⟨.inr rfl, rfl, fun _ h => congrArg (·.getD 0) h⟩
theorem Sys2Proof.Laws.Encoding.wake (d : BitVec 6) (h : BitVec 4) (a : BitVec 6) (b : BitVec 6) : Sys2Proof.Laws.Encoding.Statement (.wake d h a b) :=
  ⟨.inr rfl, rfl, fun _ h => congrArg (·.getD 0) h⟩
theorem Sys2Proof.Laws.Encoding.bar : Sys2Proof.Laws.Encoding.Statement (.bar) :=
  ⟨.inr rfl, rfl, fun _ h => congrArg (·.getD 0) h⟩
theorem Sys2Proof.Laws.Encoding.enq (ring : BitVec 6) (a : BitVec 6) (b : BitVec 6) : Sys2Proof.Laws.Encoding.Statement (.enq ring a b) :=
  ⟨.inr rfl, rfl, fun _ h => congrArg (·.getD 0) h⟩
theorem Sys2Proof.Laws.Encoding.ringq (d : BitVec 6) (ring : BitVec 6) (field : BitVec 6) : Sys2Proof.Laws.Encoding.Statement (.ringq d ring field) :=
  ⟨.inr rfl, rfl, fun _ h => congrArg (·.getD 0) h⟩
theorem Sys2Proof.Laws.Encoding.pdef (q : BitVec 6) (a : BitVec 6) : Sys2Proof.Laws.Encoding.Statement (.pdef q a) :=
  ⟨.inr rfl, rfl, fun _ h => congrArg (·.getD 0) h⟩
theorem Sys2Proof.Laws.Encoding.padv (q : BitVec 6) : Sys2Proof.Laws.Encoding.Statement (.padv q) :=
  ⟨.inr rfl, rfl, fun _ h => congrArg (·.getD 0) h⟩
theorem Sys2Proof.Laws.Encoding.take (d : BitVec 6) (lvl : BitVec 6) (b : BitVec 6) : Sys2Proof.Laws.Encoding.Statement (.take d lvl b) :=
  ⟨.inr rfl, rfl, fun _ h => congrArg (·.getD 0) h⟩
theorem Sys2Proof.Laws.Encoding.lntw (slot : BitVec 4) (eng : Bool) (a : BitVec 6) : Sys2Proof.Laws.Encoding.Statement (.lntw slot eng a) :=
  ⟨.inr rfl, rfl, fun _ h => congrArg (·.getD 0) h⟩
theorem Sys2Proof.Laws.Encoding.lntgo (slot : BitVec 4) (eng : Bool) : Sys2Proof.Laws.Encoding.Statement (.lntgo slot eng) :=
  ⟨.inr rfl, rfl, fun _ h => congrArg (·.getD 0) h⟩
theorem Sys2Proof.Laws.Encoding.fmtw (e : BitVec 6) (a : BitVec 6) : Sys2Proof.Laws.Encoding.Statement (.fmtw e a) :=
  ⟨.inr rfl, rfl, fun _ h => congrArg (·.getD 0) h⟩
theorem Sys2Proof.Laws.Encoding.tld (td : BitVec 6) (a : BitVec 6) : Sys2Proof.Laws.Encoding.Statement (.tld td a) :=
  ⟨.inr rfl, rfl, fun _ h => congrArg (·.getD 0) h⟩
theorem Sys2Proof.Laws.Encoding.tlds (td : BitVec 6) (a : BitVec 6) : Sys2Proof.Laws.Encoding.Statement (.tlds td a) :=
  ⟨.inr rfl, rfl, fun _ h => congrArg (·.getD 0) h⟩
theorem Sys2Proof.Laws.Encoding.tfill (td : BitVec 6) (a : BitVec 6) (fmt : BitVec 6) : Sys2Proof.Laws.Encoding.Statement (.tfill td a fmt) :=
  ⟨.inr rfl, rfl, fun _ h => congrArg (·.getD 0) h⟩
theorem Sys2Proof.Laws.Encoding.tmm (ofmt : BitVec 3) (td : BitVec 6) (ta : BitVec 6) (tb : BitVec 6) : Sys2Proof.Laws.Encoding.Statement (.tmm ofmt td ta tb) :=
  ⟨.inr rfl, rfl, fun _ h => congrArg (·.getD 0) h⟩
theorem Sys2Proof.Laws.Encoding.tmms (ofmt : BitVec 3) (td : BitVec 6) (ta : BitVec 6) (tb : BitVec 6) : Sys2Proof.Laws.Encoding.Statement (.tmms ofmt td ta tb) :=
  ⟨.inr rfl, rfl, fun _ h => congrArg (·.getD 0) h⟩
theorem Sys2Proof.Laws.Encoding.tewAdd (td : BitVec 6) (ta : BitVec 6) (tb : BitVec 6) : Sys2Proof.Laws.Encoding.Statement (.tewAdd td ta tb) :=
  ⟨.inr rfl, rfl, fun _ h => congrArg (·.getD 0) h⟩
theorem Sys2Proof.Laws.Encoding.tewSub (td : BitVec 6) (ta : BitVec 6) (tb : BitVec 6) : Sys2Proof.Laws.Encoding.Statement (.tewSub td ta tb) :=
  ⟨.inr rfl, rfl, fun _ h => congrArg (·.getD 0) h⟩
theorem Sys2Proof.Laws.Encoding.tewMul (td : BitVec 6) (ta : BitVec 6) (tb : BitVec 6) : Sys2Proof.Laws.Encoding.Statement (.tewMul td ta tb) :=
  ⟨.inr rfl, rfl, fun _ h => congrArg (·.getD 0) h⟩
theorem Sys2Proof.Laws.Encoding.tewDiv (td : BitVec 6) (ta : BitVec 6) (tb : BitVec 6) : Sys2Proof.Laws.Encoding.Statement (.tewDiv td ta tb) :=
  ⟨.inr rfl, rfl, fun _ h => congrArg (·.getD 0) h⟩
theorem Sys2Proof.Laws.Encoding.tewMax (td : BitVec 6) (ta : BitVec 6) (tb : BitVec 6) : Sys2Proof.Laws.Encoding.Statement (.tewMax td ta tb) :=
  ⟨.inr rfl, rfl, fun _ h => congrArg (·.getD 0) h⟩
theorem Sys2Proof.Laws.Encoding.tewMin (td : BitVec 6) (ta : BitVec 6) (tb : BitVec 6) : Sys2Proof.Laws.Encoding.Statement (.tewMin td ta tb) :=
  ⟨.inr rfl, rfl, fun _ h => congrArg (·.getD 0) h⟩
theorem Sys2Proof.Laws.Encoding.tunExp (td : BitVec 6) (ta : BitVec 6) : Sys2Proof.Laws.Encoding.Statement (.tunExp td ta) :=
  ⟨.inr rfl, rfl, fun _ h => congrArg (·.getD 0) h⟩
theorem Sys2Proof.Laws.Encoding.tunLog (td : BitVec 6) (ta : BitVec 6) : Sys2Proof.Laws.Encoding.Statement (.tunLog td ta) :=
  ⟨.inr rfl, rfl, fun _ h => congrArg (·.getD 0) h⟩
theorem Sys2Proof.Laws.Encoding.tunRcp (td : BitVec 6) (ta : BitVec 6) : Sys2Proof.Laws.Encoding.Statement (.tunRcp td ta) :=
  ⟨.inr rfl, rfl, fun _ h => congrArg (·.getD 0) h⟩
theorem Sys2Proof.Laws.Encoding.tunRsq (td : BitVec 6) (ta : BitVec 6) : Sys2Proof.Laws.Encoding.Statement (.tunRsq td ta) :=
  ⟨.inr rfl, rfl, fun _ h => congrArg (·.getD 0) h⟩
theorem Sys2Proof.Laws.Encoding.tunTanh (td : BitVec 6) (ta : BitVec 6) : Sys2Proof.Laws.Encoding.Statement (.tunTanh td ta) :=
  ⟨.inr rfl, rfl, fun _ h => congrArg (·.getD 0) h⟩
theorem Sys2Proof.Laws.Encoding.tunSilu (td : BitVec 6) (ta : BitVec 6) : Sys2Proof.Laws.Encoding.Statement (.tunSilu td ta) :=
  ⟨.inr rfl, rfl, fun _ h => congrArg (·.getD 0) h⟩
theorem Sys2Proof.Laws.Encoding.tunNeg (td : BitVec 6) (ta : BitVec 6) : Sys2Proof.Laws.Encoding.Statement (.tunNeg td ta) :=
  ⟨.inr rfl, rfl, fun _ h => congrArg (·.getD 0) h⟩
theorem Sys2Proof.Laws.Encoding.tunAbs (td : BitVec 6) (ta : BitVec 6) : Sys2Proof.Laws.Encoding.Statement (.tunAbs td ta) :=
  ⟨.inr rfl, rfl, fun _ h => congrArg (·.getD 0) h⟩
theorem Sys2Proof.Laws.Encoding.tcvt (mode : BitVec 3) (td : BitVec 6) (ta : BitVec 6) (fmt : BitVec 6) : Sys2Proof.Laws.Encoding.Statement (.tcvt mode td ta fmt) :=
  ⟨.inr rfl, rfl, fun _ h => congrArg (·.getD 0) h⟩
theorem Sys2Proof.Laws.Encoding.tred (isMax : Bool) (axis : BitVec 2) (td : BitVec 6) (ta : BitVec 6) : Sys2Proof.Laws.Encoding.Statement (.tred isMax axis td ta) :=
  ⟨.inr rfl, rfl, fun _ h => congrArg (·.getD 0) h⟩
theorem Sys2Proof.Laws.Encoding.tsel (td : BitVec 6) (ta : BitVec 6) (tb : BitVec 6) : Sys2Proof.Laws.Encoding.Statement (.tsel td ta tb) :=
  ⟨.inr rfl, rfl, fun _ h => congrArg (·.getD 0) h⟩
theorem Sys2Proof.Laws.Encoding.tmap (td : BitVec 6) (ta : BitVec 6) (m : BitVec 4) (sr : BitVec 5) : Sys2Proof.Laws.Encoding.Statement (.tmap td ta m sr) :=
  ⟨.inr rfl, rfl, fun _ h => congrArg (·.getD 0) h⟩
theorem Sys2Proof.Laws.Encoding.mapset (m : BitVec 6) (a : BitVec 6) : Sys2Proof.Laws.Encoding.Statement (.mapset m a) :=
  ⟨.inr rfl, rfl, fun _ h => congrArg (·.getD 0) h⟩
theorem Sys2Proof.Laws.Encoding.maprow (row : BitVec 2) (m : BitVec 6) (a : BitVec 6) (b : BitVec 6) : Sys2Proof.Laws.Encoding.Statement (.maprow row m a b) :=
  ⟨.inr rfl, rfl, fun _ h => congrArg (·.getD 0) h⟩
theorem Sys2Proof.Laws.Encoding.tstore (sp : Bool) (ta : BitVec 6) (b : BitVec 6) : Sys2Proof.Laws.Encoding.Statement (.tstore sp ta b) :=
  ⟨.inr rfl, rfl, fun _ h => congrArg (·.getD 0) h⟩
theorem Sys2Proof.Laws.Encoding.force (wait : Bool) (ta : BitVec 6) (b : BitVec 6) : Sys2Proof.Laws.Encoding.Statement (.force wait ta b) :=
  ⟨.inr rfl, rfl, fun _ h => congrArg (·.getD 0) h⟩
theorem Sys2Proof.Laws.Encoding.tdrop (ta : BitVec 6) : Sys2Proof.Laws.Encoding.Statement (.tdrop ta) :=
  ⟨.inr rfl, rfl, fun _ h => congrArg (·.getD 0) h⟩
theorem Sys2Proof.Laws.Encoding.tqry (d : BitVec 6) (ta : BitVec 6) (sel : BitVec 3) : Sys2Proof.Laws.Encoding.Statement (.tqry d ta sel) :=
  ⟨.inr rfl, rfl, fun _ h => congrArg (·.getD 0) h⟩
theorem Sys2Proof.Laws.Encoding.tarena (a : BitVec 6) (b : BitVec 6) : Sys2Proof.Laws.Encoding.Statement (.tarena a b) :=
  ⟨.inr rfl, rfl, fun _ h => congrArg (·.getD 0) h⟩
theorem Sys2Proof.Laws.Encoding.trap (n : BitVec 18) : Sys2Proof.Laws.Encoding.Statement (.trap n) :=
  ⟨.inr rfl, rfl, fun _ h => congrArg (·.getD 0) h⟩
theorem Sys2Proof.Laws.Encoding.eret : Sys2Proof.Laws.Encoding.Statement (.eret) :=
  ⟨.inr rfl, rfl, fun _ h => congrArg (·.getD 0) h⟩
theorem Sys2Proof.Laws.Encoding.exit : Sys2Proof.Laws.Encoding.Statement (.exit) :=
  ⟨.inr rfl, rfl, fun _ h => congrArg (·.getD 0) h⟩
theorem Sys2Proof.Laws.Encoding.pause (a : BitVec 6) : Sys2Proof.Laws.Encoding.Statement (.pause a) :=
  ⟨.inr rfl, rfl, fun _ h => congrArg (·.getD 0) h⟩
theorem Sys2Proof.Laws.Encoding.wfe (d : BitVec 6) (a : BitVec 6) : Sys2Proof.Laws.Encoding.Statement (.wfe d a) :=
  ⟨.inr rfl, rfl, fun _ h => congrArg (·.getD 0) h⟩
theorem Sys2Proof.Laws.Encoding.pyld : Sys2Proof.Laws.Encoding.Statement (.pyld) :=
  ⟨.inr rfl, rfl, fun _ h => congrArg (·.getD 0) h⟩
theorem Sys2Proof.Laws.Encoding.ctxsv (d : BitVec 6) (a : BitVec 6) : Sys2Proof.Laws.Encoding.Statement (.ctxsv d a) :=
  ⟨.inr rfl, rfl, fun _ h => congrArg (·.getD 0) h⟩
theorem Sys2Proof.Laws.Encoding.ctxld (a : BitVec 6) : Sys2Proof.Laws.Encoding.Statement (.ctxld a) :=
  ⟨.inr rfl, rfl, fun _ h => congrArg (·.getD 0) h⟩
theorem Sys2Proof.Laws.Encoding.live (a : BitVec 6) : Sys2Proof.Laws.Encoding.Statement (.live a) :=
  ⟨.inr rfl, rfl, fun _ h => congrArg (·.getD 0) h⟩
theorem Sys2Proof.Laws.Encoding.dbgbrk : Sys2Proof.Laws.Encoding.Statement (.dbgbrk) :=
  ⟨.inr rfl, rfl, fun _ h => congrArg (·.getD 0) h⟩
theorem Sys2Proof.Laws.Encoding.vmov (word : VWord) : Sys2Proof.Laws.Encoding.Statement (.vmov word) :=
  ⟨.inl rfl, rfl, fun _ h => congrArg (·.getD 0) h⟩
theorem Sys2Proof.Laws.Encoding.vadd (word : VWord) : Sys2Proof.Laws.Encoding.Statement (.vadd word) :=
  ⟨.inl rfl, rfl, fun _ h => congrArg (·.getD 0) h⟩
theorem Sys2Proof.Laws.Encoding.vsub (word : VWord) : Sys2Proof.Laws.Encoding.Statement (.vsub word) :=
  ⟨.inl rfl, rfl, fun _ h => congrArg (·.getD 0) h⟩
theorem Sys2Proof.Laws.Encoding.vmul (word : VWord) : Sys2Proof.Laws.Encoding.Statement (.vmul word) :=
  ⟨.inl rfl, rfl, fun _ h => congrArg (·.getD 0) h⟩
theorem Sys2Proof.Laws.Encoding.vfma (word : VWord) : Sys2Proof.Laws.Encoding.Statement (.vfma word) :=
  ⟨.inl rfl, rfl, fun _ h => congrArg (·.getD 0) h⟩
theorem Sys2Proof.Laws.Encoding.vdiv (word : VWord) : Sys2Proof.Laws.Encoding.Statement (.vdiv word) :=
  ⟨.inl rfl, rfl, fun _ h => congrArg (·.getD 0) h⟩
theorem Sys2Proof.Laws.Encoding.vmin (word : VWord) : Sys2Proof.Laws.Encoding.Statement (.vmin word) :=
  ⟨.inl rfl, rfl, fun _ h => congrArg (·.getD 0) h⟩
theorem Sys2Proof.Laws.Encoding.vmax (word : VWord) : Sys2Proof.Laws.Encoding.Statement (.vmax word) :=
  ⟨.inl rfl, rfl, fun _ h => congrArg (·.getD 0) h⟩
theorem Sys2Proof.Laws.Encoding.vabs (word : VWord) : Sys2Proof.Laws.Encoding.Statement (.vabs word) :=
  ⟨.inl rfl, rfl, fun _ h => congrArg (·.getD 0) h⟩
theorem Sys2Proof.Laws.Encoding.vneg (word : VWord) : Sys2Proof.Laws.Encoding.Statement (.vneg word) :=
  ⟨.inl rfl, rfl, fun _ h => congrArg (·.getD 0) h⟩
theorem Sys2Proof.Laws.Encoding.vexp (word : VWord) : Sys2Proof.Laws.Encoding.Statement (.vexp word) :=
  ⟨.inl rfl, rfl, fun _ h => congrArg (·.getD 0) h⟩
theorem Sys2Proof.Laws.Encoding.vlog (word : VWord) : Sys2Proof.Laws.Encoding.Statement (.vlog word) :=
  ⟨.inl rfl, rfl, fun _ h => congrArg (·.getD 0) h⟩
theorem Sys2Proof.Laws.Encoding.vrcp (word : VWord) : Sys2Proof.Laws.Encoding.Statement (.vrcp word) :=
  ⟨.inl rfl, rfl, fun _ h => congrArg (·.getD 0) h⟩
theorem Sys2Proof.Laws.Encoding.vrsq (word : VWord) : Sys2Proof.Laws.Encoding.Statement (.vrsq word) :=
  ⟨.inl rfl, rfl, fun _ h => congrArg (·.getD 0) h⟩
theorem Sys2Proof.Laws.Encoding.vtanh (word : VWord) : Sys2Proof.Laws.Encoding.Statement (.vtanh word) :=
  ⟨.inl rfl, rfl, fun _ h => congrArg (·.getD 0) h⟩
theorem Sys2Proof.Laws.Encoding.vsilu (word : VWord) : Sys2Proof.Laws.Encoding.Statement (.vsilu word) :=
  ⟨.inl rfl, rfl, fun _ h => congrArg (·.getD 0) h⟩
theorem Sys2Proof.Laws.Encoding.vcmp (word : VWord) : Sys2Proof.Laws.Encoding.Statement (.vcmp word) :=
  ⟨.inl rfl, rfl, fun _ h => congrArg (·.getD 0) h⟩
theorem Sys2Proof.Laws.Encoding.vsel (word : VWord) : Sys2Proof.Laws.Encoding.Statement (.vsel word) :=
  ⟨.inl rfl, rfl, fun _ h => congrArg (·.getD 0) h⟩
theorem Sys2Proof.Laws.Encoding.vand (word : VWord) : Sys2Proof.Laws.Encoding.Statement (.vand word) :=
  ⟨.inl rfl, rfl, fun _ h => congrArg (·.getD 0) h⟩
theorem Sys2Proof.Laws.Encoding.vor (word : VWord) : Sys2Proof.Laws.Encoding.Statement (.vor word) :=
  ⟨.inl rfl, rfl, fun _ h => congrArg (·.getD 0) h⟩
theorem Sys2Proof.Laws.Encoding.vxor (word : VWord) : Sys2Proof.Laws.Encoding.Statement (.vxor word) :=
  ⟨.inl rfl, rfl, fun _ h => congrArg (·.getD 0) h⟩
theorem Sys2Proof.Laws.Encoding.vshl (word : VWord) : Sys2Proof.Laws.Encoding.Statement (.vshl word) :=
  ⟨.inl rfl, rfl, fun _ h => congrArg (·.getD 0) h⟩
theorem Sys2Proof.Laws.Encoding.vshr (word : VWord) : Sys2Proof.Laws.Encoding.Statement (.vshr word) :=
  ⟨.inl rfl, rfl, fun _ h => congrArg (·.getD 0) h⟩
theorem Sys2Proof.Laws.Encoding.vcvt (word : VWord) : Sys2Proof.Laws.Encoding.Statement (.vcvt word) :=
  ⟨.inl rfl, rfl, fun _ h => congrArg (·.getD 0) h⟩
theorem Sys2Proof.Laws.Encoding.vqnt (word : VWord) : Sys2Proof.Laws.Encoding.Statement (.vqnt word) :=
  ⟨.inl rfl, rfl, fun _ h => congrArg (·.getD 0) h⟩
theorem Sys2Proof.Laws.Encoding.vrsum (word : VWord) : Sys2Proof.Laws.Encoding.Statement (.vrsum word) :=
  ⟨.inl rfl, rfl, fun _ h => congrArg (·.getD 0) h⟩
theorem Sys2Proof.Laws.Encoding.vrmax (word : VWord) : Sys2Proof.Laws.Encoding.Statement (.vrmax word) :=
  ⟨.inl rfl, rfl, fun _ h => congrArg (·.getD 0) h⟩
theorem Sys2Proof.Laws.Encoding.vscan (word : VWord) : Sys2Proof.Laws.Encoding.Statement (.vscan word) :=
  ⟨.inl rfl, rfl, fun _ h => congrArg (·.getD 0) h⟩
theorem Sys2Proof.Laws.Encoding.vgath (word : VWord) : Sys2Proof.Laws.Encoding.Statement (.vgath word) :=
  ⟨.inl rfl, rfl, fun _ h => congrArg (·.getD 0) h⟩
theorem Sys2Proof.Laws.Encoding.vscat (word : VWord) : Sys2Proof.Laws.Encoding.Statement (.vscat word) :=
  ⟨.inl rfl, rfl, fun _ h => congrArg (·.getD 0) h⟩
theorem Sys2Proof.Laws.Encoding.vhins (word : VWord) : Sys2Proof.Laws.Encoding.Statement (.vhins word) :=
  ⟨.inl rfl, rfl, fun _ h => congrArg (·.getD 0) h⟩
theorem Sys2Proof.Laws.Encoding.vhdrn (word : VWord) : Sys2Proof.Laws.Encoding.Statement (.vhdrn word) :=
  ⟨.inl rfl, rfl, fun _ h => congrArg (·.getD 0) h⟩
theorem Sys2Proof.Laws.Encoding.vdrn (word : VWord) : Sys2Proof.Laws.Encoding.Statement (.vdrn word) :=
  ⟨.inl rfl, rfl, fun _ h => congrArg (·.getD 0) h⟩
theorem Sys2Proof.Laws.Encoding.vadv (word : VWord) : Sys2Proof.Laws.Encoding.Statement (.vadv word) :=
  ⟨.inl rfl, rfl, fun _ h => congrArg (·.getD 0) h⟩
theorem Sys2Proof.Laws.Encoding.vnop (word : VWord) : Sys2Proof.Laws.Encoding.Statement (.vnop word) :=
  ⟨.inl rfl, rfl, fun _ h => congrArg (·.getD 0) h⟩
theorem Sys2Proof.Laws.Encoding.mma (word : MWord) : Sys2Proof.Laws.Encoding.Statement (.mma word) :=
  ⟨.inl rfl, rfl, fun _ h => congrArg (·.getD 0) h⟩
theorem Sys2Proof.Laws.Encoding.mmas (word : MWord) : Sys2Proof.Laws.Encoding.Statement (.mmas word) :=
  ⟨.inl rfl, rfl, fun _ h => congrArg (·.getD 0) h⟩
theorem Sys2Proof.Laws.Encoding.mspm (word : MWord) : Sys2Proof.Laws.Encoding.Statement (.mspm word) :=
  ⟨.inl rfl, rfl, fun _ h => congrArg (·.getD 0) h⟩
theorem Sys2Proof.Laws.Encoding.mzero (word : MWord) : Sys2Proof.Laws.Encoding.Statement (.mzero word) :=
  ⟨.inl rfl, rfl, fun _ h => congrArg (·.getD 0) h⟩
theorem Sys2Proof.Laws.Encoding.mcmt (word : MWord) : Sys2Proof.Laws.Encoding.Statement (.mcmt word) :=
  ⟨.inl rfl, rfl, fun _ h => congrArg (·.getD 0) h⟩
theorem Sys2Proof.Laws.Encoding.mnop (word : MWord) : Sys2Proof.Laws.Encoding.Statement (.mnop word) :=
  ⟨.inl rfl, rfl, fun _ h => congrArg (·.getD 0) h⟩
theorem Sys2Proof.Laws.Encoding.ccopy (word : CWord) : Sys2Proof.Laws.Encoding.Statement (.ccopy word) :=
  ⟨.inl rfl, rfl, fun _ h => congrArg (·.getD 0) h⟩
theorem Sys2Proof.Laws.Encoding.ccvt (word : CWord) : Sys2Proof.Laws.Encoding.Statement (.ccvt word) :=
  ⟨.inl rfl, rfl, fun _ h => congrArg (·.getD 0) h⟩
theorem Sys2Proof.Laws.Encoding.cgath (word : CWord) : Sys2Proof.Laws.Encoding.Statement (.cgath word) :=
  ⟨.inl rfl, rfl, fun _ h => congrArg (·.getD 0) h⟩
theorem Sys2Proof.Laws.Encoding.cscat (word : CWord) : Sys2Proof.Laws.Encoding.Statement (.cscat word) :=
  ⟨.inl rfl, rfl, fun _ h => congrArg (·.getD 0) h⟩
theorem Sys2Proof.Laws.Encoding.cfill (word : CWord) : Sys2Proof.Laws.Encoding.Statement (.cfill word) :=
  ⟨.inl rfl, rfl, fun _ h => congrArg (·.getD 0) h⟩
theorem Sys2Proof.Laws.Encoding.csend (word : CWord) : Sys2Proof.Laws.Encoding.Statement (.csend word) :=
  ⟨.inl rfl, rfl, fun _ h => congrArg (·.getD 0) h⟩
theorem Sys2Proof.Laws.Encoding.cred (word : CWord) : Sys2Proof.Laws.Encoding.Statement (.cred word) :=
  ⟨.inl rfl, rfl, fun _ h => congrArg (·.getD 0) h⟩
theorem Sys2Proof.Laws.Encoding.csub (word : CWord) : Sys2Proof.Laws.Encoding.Statement (.csub word) :=
  ⟨.inl rfl, rfl, fun _ h => congrArg (·.getD 0) h⟩
theorem Sys2Proof.Laws.Encoding.cdrain (word : CWord) : Sys2Proof.Laws.Encoding.Statement (.cdrain word) :=
  ⟨.inl rfl, rfl, fun _ h => congrArg (·.getD 0) h⟩
theorem Sys2Proof.Laws.Encoding.sgath (word : CWord) : Sys2Proof.Laws.Encoding.Statement (.sgath word) :=
  ⟨.inl rfl, rfl, fun _ h => congrArg (·.getD 0) h⟩
theorem Sys2Proof.Laws.Encoding.sred (word : CWord) : Sys2Proof.Laws.Encoding.Statement (.sred word) :=
  ⟨.inl rfl, rfl, fun _ h => congrArg (·.getD 0) h⟩
theorem Sys2Proof.Laws.Encoding.scvt (word : CWord) : Sys2Proof.Laws.Encoding.Statement (.scvt word) :=
  ⟨.inl rfl, rfl, fun _ h => congrArg (·.getD 0) h⟩
theorem Sys2Proof.Laws.Encoding.cnop (word : CWord) : Sys2Proof.Laws.Encoding.Statement (.cnop word) :=
  ⟨.inl rfl, rfl, fun _ h => congrArg (·.getD 0) h⟩
theorem Sys2Proof.Laws.Encoding.wordConfirm (core : Nat) (ring : Nat) : Sys2Proof.Laws.Encoding.Statement (.wordConfirm core ring) :=
  ⟨.inl rfl, rfl, fun _ h => congrArg (·.getD 0) h⟩
theorem Sys2Proof.Laws.Encoding.semaphoreWake (die : Nat) (idx : Nat) : Sys2Proof.Laws.Encoding.Statement (.semaphoreWake die idx) :=
  ⟨.inl rfl, rfl, fun _ h => congrArg (·.getD 0) h⟩
theorem Sys2Proof.Laws.Encoding.stealRequest (thief : Nat) (victim : Nat) : Sys2Proof.Laws.Encoding.Statement (.stealRequest thief victim) :=
  ⟨.inl rfl, rfl, fun _ h => congrArg (·.getD 0) h⟩
theorem Sys2Proof.Laws.Encoding.stealAnswer (thief : Nat) : Sys2Proof.Laws.Encoding.Statement (.stealAnswer thief) :=
  ⟨.inl rfl, rfl, fun _ h => congrArg (·.getD 0) h⟩
theorem Sys2Proof.Laws.Encoding.pauseEnd (core : Nat) : Sys2Proof.Laws.Encoding.Statement (.pauseEnd core) :=
  ⟨.inl rfl, rfl, fun _ h => congrArg (·.getD 0) h⟩
theorem Sys2Proof.Laws.Encoding.wfeWake (core : Nat) : Sys2Proof.Laws.Encoding.Statement (.wfeWake core) :=
  ⟨.inl rfl, rfl, fun _ h => congrArg (·.getD 0) h⟩
theorem Sys2Proof.Laws.Encoding.wfeLimitExpiry (core : Nat) : Sys2Proof.Laws.Encoding.Statement (.wfeLimitExpiry core) :=
  ⟨.inl rfl, rfl, fun _ h => congrArg (·.getD 0) h⟩
theorem Sys2Proof.Laws.Encoding.leaseExpiry (core : Nat) : Sys2Proof.Laws.Encoding.Statement (.leaseExpiry core) :=
  ⟨.inl rfl, rfl, fun _ h => congrArg (·.getD 0) h⟩
theorem Sys2Proof.Laws.Encoding.walkComplete (core : Nat) (h : Nat) : Sys2Proof.Laws.Encoding.Statement (.walkComplete core h) :=
  ⟨.inl rfl, rfl, fun _ h => congrArg (·.getD 0) h⟩
theorem Sys2Proof.Laws.Encoding.launchRecordFetch (fn : Nat) (q : Nat) : Sys2Proof.Laws.Encoding.Statement (.launchRecordFetch fn q) :=
  ⟨.inl rfl, rfl, fun _ h => congrArg (·.getD 0) h⟩
theorem Sys2Proof.Laws.Encoding.gangPlace (die : Nat) (cluster : Nat) : Sys2Proof.Laws.Encoding.Statement (.gangPlace die cluster) :=
  ⟨.inl rfl, rfl, fun _ h => congrArg (·.getD 0) h⟩
theorem Sys2Proof.Laws.Encoding.sliceEnd (die : Nat) (cluster : Nat) (cycles : Nat) : Sys2Proof.Laws.Encoding.Statement (.sliceEnd die cluster cycles) :=
  ⟨.inl rfl, rfl, fun _ h => congrArg (·.getD 0) h⟩
theorem Sys2Proof.Laws.Encoding.clusterIdleSelect (die : Nat) (cluster : Nat) : Sys2Proof.Laws.Encoding.Statement (.clusterIdleSelect die cluster) :=
  ⟨.inl rfl, rfl, fun _ h => congrArg (·.getD 0) h⟩
theorem Sys2Proof.Laws.Encoding.drainDeadline (gang : Nat) : Sys2Proof.Laws.Encoding.Statement (.drainDeadline gang) :=
  ⟨.inl rfl, rfl, fun _ h => congrArg (·.getD 0) h⟩
theorem Sys2Proof.Laws.Encoding.gangSave (core : Nat) : Sys2Proof.Laws.Encoding.Statement (.gangSave core) :=
  ⟨.inl rfl, rfl, fun _ h => congrArg (·.getD 0) h⟩
theorem Sys2Proof.Laws.Encoding.saveTimeout (core : Nat) : Sys2Proof.Laws.Encoding.Statement (.saveTimeout core) :=
  ⟨.inl rfl, rfl, fun _ h => congrArg (·.getD 0) h⟩
theorem Sys2Proof.Laws.Encoding.gangRestore (gang : Nat) (die : Nat) (cluster : Nat) : Sys2Proof.Laws.Encoding.Statement (.gangRestore gang die cluster) :=
  ⟨.inl rfl, rfl, fun _ h => congrArg (·.getD 0) h⟩
theorem Sys2Proof.Laws.Encoding.instanceComplete (gang : Nat) : Sys2Proof.Laws.Encoding.Statement (.instanceComplete gang) :=
  ⟨.inl rfl, rfl, fun _ h => congrArg (·.getD 0) h⟩
theorem Sys2Proof.Laws.Encoding.watchdogExpiry (core : Nat) (ring : Nat) : Sys2Proof.Laws.Encoding.Statement (.watchdogExpiry core ring) :=
  ⟨.inl rfl, rfl, fun _ h => congrArg (·.getD 0) h⟩
theorem Sys2Proof.Laws.Encoding.parityError (core : Nat) (ring : Nat) : Sys2Proof.Laws.Encoding.Statement (.parityError core ring) :=
  ⟨.inl rfl, rfl, fun _ h => congrArg (·.getD 0) h⟩
theorem Sys2Proof.Laws.Encoding.protocolAlarm (core : Nat) (ring : Nat) : Sys2Proof.Laws.Encoding.Statement (.protocolAlarm core ring) :=
  ⟨.inl rfl, rfl, fun _ h => congrArg (·.getD 0) h⟩
theorem Sys2Proof.Laws.Encoding.strikeReport (core : Nat) (unit : StruckUnit) : Sys2Proof.Laws.Encoding.Statement (.strikeReport core unit) :=
  ⟨.inl rfl, rfl, fun _ h => congrArg (·.getD 0) h⟩
theorem Sys2Proof.Laws.Encoding.rollingReset (core : Nat) (ring : Nat) : Sys2Proof.Laws.Encoding.Statement (.rollingReset core ring) :=
  ⟨.inl rfl, rfl, fun _ h => congrArg (·.getD 0) h⟩
theorem Sys2Proof.Laws.Encoding.engineResetDone (core : Nat) (ring : Nat) : Sys2Proof.Laws.Encoding.Statement (.engineResetDone core ring) :=
  ⟨.inl rfl, rfl, fun _ h => congrArg (·.getD 0) h⟩
theorem Sys2Proof.Laws.Encoding.arbiterAlarm (die : Nat) : Sys2Proof.Laws.Encoding.Statement (.arbiterAlarm die) :=
  ⟨.inl rfl, rfl, fun _ h => congrArg (·.getD 0) h⟩
theorem Sys2Proof.Laws.Encoding.dieResetDone (die : Nat) : Sys2Proof.Laws.Encoding.Statement (.dieResetDone die) :=
  ⟨.inl rfl, rfl, fun _ h => congrArg (·.getD 0) h⟩
theorem Sys2Proof.Laws.Encoding.correctedError (die : Nat) (bank : Nat) (err : ErrorReport) : Sys2Proof.Laws.Encoding.Statement (.correctedError die bank err) :=
  ⟨.inl rfl, rfl, fun _ h => congrArg (·.getD 0) h⟩
theorem Sys2Proof.Laws.Encoding.uncorrectableError (die : Nat) (bank : Nat) (err : ErrorReport) : Sys2Proof.Laws.Encoding.Statement (.uncorrectableError die bank err) :=
  ⟨.inl rfl, rfl, fun _ h => congrArg (·.getD 0) h⟩
theorem Sys2Proof.Laws.Encoding.coldStart : Sys2Proof.Laws.Encoding.Statement (.coldStart) :=
  ⟨.inl rfl, rfl, fun _ h => congrArg (·.getD 0) h⟩
theorem Sys2Proof.Laws.Encoding.warmStart : Sys2Proof.Laws.Encoding.Statement (.warmStart) :=
  ⟨.inl rfl, rfl, fun _ h => congrArg (·.getD 0) h⟩
theorem Sys2Proof.Laws.Encoding.startStepDone (outcome : StartOutcome) : Sys2Proof.Laws.Encoding.Statement (.startStepDone outcome) :=
  ⟨.inl rfl, rfl, fun _ h => congrArg (·.getD 0) h⟩
theorem Sys2Proof.Laws.Encoding.supplyLoss (alwaysOnLost : Bool) : Sys2Proof.Laws.Encoding.Statement (.supplyLoss alwaysOnLost) :=
  ⟨.inl rfl, rfl, fun _ h => congrArg (·.getD 0) h⟩
theorem Sys2Proof.Laws.Encoding.powerStateRequest (die : Nat) (target : BitVec 2) : Sys2Proof.Laws.Encoding.Statement (.powerStateRequest die target) :=
  ⟨.inl rfl, rfl, fun _ h => congrArg (·.getD 0) h⟩
theorem Sys2Proof.Laws.Encoding.voltageRampDone (die : Nat) : Sys2Proof.Laws.Encoding.Statement (.voltageRampDone die) :=
  ⟨.inl rfl, rfl, fun _ h => congrArg (·.getD 0) h⟩
theorem Sys2Proof.Laws.Encoding.clockSwitchDone (die : Nat) : Sys2Proof.Laws.Encoding.Statement (.clockSwitchDone die) :=
  ⟨.inl rfl, rfl, fun _ h => congrArg (·.getD 0) h⟩
theorem Sys2Proof.Laws.Encoding.thermalClampEngage (die : Nat) : Sys2Proof.Laws.Encoding.Statement (.thermalClampEngage die) :=
  ⟨.inl rfl, rfl, fun _ h => congrArg (·.getD 0) h⟩
theorem Sys2Proof.Laws.Encoding.thermalClampRelease (die : Nat) : Sys2Proof.Laws.Encoding.Statement (.thermalClampRelease die) :=
  ⟨.inl rfl, rfl, fun _ h => congrArg (·.getD 0) h⟩
theorem Sys2Proof.Laws.Encoding.junctionPowerRemoval : Sys2Proof.Laws.Encoding.Statement (.junctionPowerRemoval) :=
  ⟨.inl rfl, rfl, fun _ h => congrArg (·.getD 0) h⟩
theorem Sys2Proof.Laws.Encoding.pwrmeasSample (watts : BitVec 16) : Sys2Proof.Laws.Encoding.Statement (.pwrmeasSample watts) :=
  ⟨.inl rfl, rfl, fun _ h => congrArg (·.getD 0) h⟩
theorem Sys2Proof.Laws.Encoding.stallSample (die : Nat) (active : BitVec 16) (mem : BitVec 16) (sync : BitVec 16) : Sys2Proof.Laws.Encoding.Statement (.stallSample die active mem sync) :=
  ⟨.inl rfl, rfl, fun _ h => congrArg (·.getD 0) h⟩
theorem Sys2Proof.Laws.Encoding.peakwRead : Sys2Proof.Laws.Encoding.Statement (.peakwRead) :=
  ⟨.inl rfl, rfl, fun _ h => congrArg (·.getD 0) h⟩
theorem Sys2Proof.Laws.Encoding.queueEnable (fn : Nat) (q : QueueId) (value : BitVec 64) : Sys2Proof.Laws.Encoding.Statement (.queueEnable fn q value) :=
  ⟨.inl rfl, rfl, fun _ h => congrArg (·.getD 0) h⟩
theorem Sys2Proof.Laws.Encoding.queueDisable (fn : Nat) (q : QueueId) (value : BitVec 64) : Sys2Proof.Laws.Encoding.Statement (.queueDisable fn q value) :=
  ⟨.inl rfl, rfl, fun _ h => congrArg (·.getD 0) h⟩
theorem Sys2Proof.Laws.Encoding.queueDoorbell (fn : Nat) (q : QueueId) (value : BitVec 32) : Sys2Proof.Laws.Encoding.Statement (.queueDoorbell fn q value) :=
  ⟨.inl rfl, rfl, fun _ h => congrArg (·.getD 0) h⟩
theorem Sys2Proof.Laws.Encoding.queueStatusRead (fn : Nat) (q : QueueId) : Sys2Proof.Laws.Encoding.Statement (.queueStatusRead fn q) :=
  ⟨.inl rfl, rfl, fun _ h => congrArg (·.getD 0) h⟩
theorem Sys2Proof.Laws.Encoding.faultRetry (fn : Nat) (fid : Nat) : Sys2Proof.Laws.Encoding.Statement (.faultRetry fn fid) :=
  ⟨.inl rfl, rfl, fun _ h => congrArg (·.getD 0) h⟩
theorem Sys2Proof.Laws.Encoding.faultFail (fn : Nat) (fid : Nat) : Sys2Proof.Laws.Encoding.Statement (.faultFail fn fid) :=
  ⟨.inl rfl, rfl, fun _ h => congrArg (·.getD 0) h⟩
theorem Sys2Proof.Laws.Encoding.errorBankStatusRead (die : Nat) (bank : Nat) : Sys2Proof.Laws.Encoding.Statement (.errorBankStatusRead die bank) :=
  ⟨.inl rfl, rfl, fun _ h => congrArg (·.getD 0) h⟩
theorem Sys2Proof.Laws.Encoding.errorBankClear (die : Nat) (bank : Nat) : Sys2Proof.Laws.Encoding.Statement (.errorBankClear die bank) :=
  ⟨.inl rfl, rfl, fun _ h => congrArg (·.getD 0) h⟩
theorem Sys2Proof.Laws.Encoding.ringConfigWrite (core : Nat) (ring : Nat) (value : BitVec 64) : Sys2Proof.Laws.Encoding.Statement (.ringConfigWrite core ring value) :=
  ⟨.inl rfl, rfl, fun _ h => congrArg (·.getD 0) h⟩
theorem Sys2Proof.Laws.Encoding.ringStatusRead (core : Nat) (ring : Nat) : Sys2Proof.Laws.Encoding.Statement (.ringStatusRead core ring) :=
  ⟨.inl rfl, rfl, fun _ h => congrArg (·.getD 0) h⟩
theorem Sys2Proof.Laws.Encoding.registerWrite (fn : Nat) (off : Nat) (value : BitVec 64) : Sys2Proof.Laws.Encoding.Statement (.registerWrite fn off value) :=
  ⟨.inl rfl, rfl, fun _ h => congrArg (·.getD 0) h⟩
theorem Sys2Proof.Laws.Encoding.hostBar2Read (fn : Nat) (off : Nat) (len : Nat) : Sys2Proof.Laws.Encoding.Statement (.hostBar2Read fn off len) :=
  ⟨.inl rfl, rfl, fun _ h => congrArg (·.getD 0) h⟩
theorem Sys2Proof.Laws.Encoding.hostBar2Write (fn : Nat) (off : Nat) (data : List (BitVec 8)) : Sys2Proof.Laws.Encoding.Statement (.hostBar2Write fn off data) :=
  ⟨.inl rfl, rfl, fun _ h => congrArg (·.getD 0) h⟩
theorem Sys2Proof.Laws.Encoding.hostAtomicop (fn : Nat) (off : Nat) (width : Nat) (op : HostAtomic) (v : BitVec 64) (cmp : BitVec 64) : Sys2Proof.Laws.Encoding.Statement (.hostAtomicop fn off width op v cmp) :=
  ⟨.inl rfl, rfl, fun _ h => congrArg (·.getD 0) h⟩
theorem Sys2Proof.Laws.Encoding.hostSnoop (addr : Nat) (invalidate : Bool) : Sys2Proof.Laws.Encoding.Statement (.hostSnoop addr invalidate) :=
  ⟨.inl rfl, rfl, fun _ h => congrArg (·.getD 0) h⟩
theorem Sys2Proof.Laws.Encoding.hostOwnershipRequest (dpa : Nat) : Sys2Proof.Laws.Encoding.Statement (.hostOwnershipRequest dpa) :=
  ⟨.inl rfl, rfl, fun _ h => congrArg (·.getD 0) h⟩
theorem Sys2Proof.Laws.Encoding.hostLineReturn (dpa : Nat) : Sys2Proof.Laws.Encoding.Statement (.hostLineReturn dpa) :=
  ⟨.inl rfl, rfl, fun _ h => congrArg (·.getD 0) h⟩
theorem Sys2Proof.Laws.Encoding.hostsAtomicCompletion (core : Nat) (ok : Bool) : Sys2Proof.Laws.Encoding.Statement (.hostsAtomicCompletion core ok) :=
  ⟨.inl rfl, rfl, fun _ h => congrArg (·.getD 0) h⟩
theorem Sys2Proof.Laws.Encoding.flitReceive (port : Nat) (raw : List (BitVec 8)) : Sys2Proof.Laws.Encoding.Statement (.flitReceive port raw) :=
  ⟨.inl rfl, rfl, fun _ h => congrArg (·.getD 0) h⟩
theorem Sys2Proof.Laws.Encoding.retryRequestReceive (port : Nat) (seq : Nat) : Sys2Proof.Laws.Encoding.Statement (.retryRequestReceive port seq) :=
  ⟨.inl rfl, rfl, fun _ h => congrArg (·.getD 0) h⟩
theorem Sys2Proof.Laws.Encoding.portRetrain (port : Nat) : Sys2Proof.Laws.Encoding.Statement (.portRetrain port) :=
  ⟨.inl rfl, rfl, fun _ h => congrArg (·.getD 0) h⟩
theorem Sys2Proof.Laws.Encoding.portRetrainDone (port : Nat) (ok : Bool) : Sys2Proof.Laws.Encoding.Statement (.portRetrainDone port ok) :=
  ⟨.inl rfl, rfl, fun _ h => congrArg (·.getD 0) h⟩
theorem Sys2Proof.Laws.Encoding.routeChange (die0 : Nat) (die1 : Nat) : Sys2Proof.Laws.Encoding.Statement (.routeChange die0 die1) :=
  ⟨.inl rfl, rfl, fun _ h => congrArg (·.getD 0) h⟩
theorem Sys2Proof.Laws.Encoding.fabricWritePacket (port : Nat) (vftag : Nat) (pkt : Packet) : Sys2Proof.Laws.Encoding.Statement (.fabricWritePacket port vftag pkt) :=
  ⟨.inl rfl, rfl, fun _ h => congrArg (·.getD 0) h⟩
theorem Sys2Proof.Laws.Encoding.fabricSignalPacket (port : Nat) (vftag : Nat) (pkt : Packet) : Sys2Proof.Laws.Encoding.Statement (.fabricSignalPacket port vftag pkt) :=
  ⟨.inl rfl, rfl, fun _ h => congrArg (·.getD 0) h⟩
theorem Sys2Proof.Laws.Encoding.fabricSignalApply (peer : Nat) (xfer : Nat) : Sys2Proof.Laws.Encoding.Statement (.fabricSignalApply peer xfer) :=
  ⟨.inl rfl, rfl, fun _ h => congrArg (·.getD 0) h⟩
theorem Sys2Proof.Laws.Encoding.fabricReducePacket (port : Nat) (vftag : Nat) (pkt : Packet) : Sys2Proof.Laws.Encoding.Statement (.fabricReducePacket port vftag pkt) :=
  ⟨.inl rfl, rfl, fun _ h => congrArg (·.getD 0) h⟩
theorem Sys2Proof.Laws.Encoding.reductionSlotComplete (fn : Nat) (die : Nat) (region : Nat) (slot : Nat) : Sys2Proof.Laws.Encoding.Statement (.reductionSlotComplete fn die region slot) :=
  ⟨.inl rfl, rfl, fun _ h => congrArg (·.getD 0) h⟩
theorem Sys2Proof.Laws.Encoding.fabricAck (port : Nat) (vftag : Nat) (pkt : Packet) : Sys2Proof.Laws.Encoding.Statement (.fabricAck port vftag pkt) :=
  ⟨.inl rfl, rfl, fun _ h => congrArg (·.getD 0) h⟩
theorem Sys2Proof.Laws.Encoding.fabricNak (port : Nat) (vftag : Nat) (pkt : Packet) : Sys2Proof.Laws.Encoding.Statement (.fabricNak port vftag pkt) :=
  ⟨.inl rfl, rfl, fun _ h => congrArg (·.getD 0) h⟩
theorem Sys2Proof.Laws.Encoding.functionLevelReset (fn : Nat) : Sys2Proof.Laws.Encoding.Statement (.functionLevelReset fn) :=
  ⟨.inl rfl, rfl, fun _ h => congrArg (·.getD 0) h⟩
theorem Sys2Proof.Laws.Encoding.ctxCreate (cmd : AdminCmd) : Sys2Proof.Laws.Encoding.Statement (.ctxCreate cmd) :=
  ⟨.inl rfl, rfl, fun _ h => congrArg (·.getD 0) h⟩
theorem Sys2Proof.Laws.Encoding.ctxDestroy (cmd : AdminCmd) : Sys2Proof.Laws.Encoding.Statement (.ctxDestroy cmd) :=
  ⟨.inl rfl, rfl, fun _ h => congrArg (·.getD 0) h⟩
theorem Sys2Proof.Laws.Encoding.exportSet (cmd : AdminCmd) : Sys2Proof.Laws.Encoding.Statement (.exportSet cmd) :=
  ⟨.inl rfl, rfl, fun _ h => congrArg (·.getD 0) h⟩
theorem Sys2Proof.Laws.Encoding.ctxSwitch (cmd : AdminCmd) : Sys2Proof.Laws.Encoding.Statement (.ctxSwitch cmd) :=
  ⟨.inl rfl, rfl, fun _ h => congrArg (·.getD 0) h⟩
theorem Sys2Proof.Laws.Encoding.invalRange (cmd : AdminCmd) : Sys2Proof.Laws.Encoding.Statement (.invalRange cmd) :=
  ⟨.inl rfl, rfl, fun _ h => congrArg (·.getD 0) h⟩
theorem Sys2Proof.Laws.Encoding.adminReservedOpcode (cmd : AdminCmd) : Sys2Proof.Laws.Encoding.Statement (.adminReservedOpcode cmd) :=
  ⟨.inl rfl, rfl, fun _ h => congrArg (·.getD 0) h⟩
theorem Sys2Proof.Laws.Encoding.partSet (cmd : AdminCmd) : Sys2Proof.Laws.Encoding.Statement (.partSet cmd) :=
  ⟨.inl rfl, rfl, fun _ h => congrArg (·.getD 0) h⟩
theorem Sys2Proof.Laws.Encoding.partQuery (cmd : AdminCmd) : Sys2Proof.Laws.Encoding.Statement (.partQuery cmd) :=
  ⟨.inl rfl, rfl, fun _ h => congrArg (·.getD 0) h⟩
theorem Sys2Proof.Laws.Encoding.gdieSet (cmd : AdminCmd) : Sys2Proof.Laws.Encoding.Statement (.gdieSet cmd) :=
  ⟨.inl rfl, rfl, fun _ h => congrArg (·.getD 0) h⟩
theorem Sys2Proof.Laws.Encoding.dlogSet (cmd : AdminCmd) : Sys2Proof.Laws.Encoding.Statement (.dlogSet cmd) :=
  ⟨.inl rfl, rfl, fun _ h => congrArg (·.getD 0) h⟩
theorem Sys2Proof.Laws.Encoding.dlogArm (cmd : AdminCmd) : Sys2Proof.Laws.Encoding.Statement (.dlogArm cmd) :=
  ⟨.inl rfl, rfl, fun _ h => congrArg (·.getD 0) h⟩
theorem Sys2Proof.Laws.Encoding.dlogArmCompletion (fn : Nat) : Sys2Proof.Laws.Encoding.Statement (.dlogArmCompletion fn) :=
  ⟨.inl rfl, rfl, fun _ h => congrArg (·.getD 0) h⟩
theorem Sys2Proof.Laws.Encoding.keyLoad (cmd : AdminCmd) : Sys2Proof.Laws.Encoding.Statement (.keyLoad cmd) :=
  ⟨.inl rfl, rfl, fun _ h => congrArg (·.getD 0) h⟩
theorem Sys2Proof.Laws.Encoding.winCreate (cmd : AdminCmd) : Sys2Proof.Laws.Encoding.Statement (.winCreate cmd) :=
  ⟨.inl rfl, rfl, fun _ h => congrArg (·.getD 0) h⟩
theorem Sys2Proof.Laws.Encoding.winDestroy (cmd : AdminCmd) : Sys2Proof.Laws.Encoding.Statement (.winDestroy cmd) :=
  ⟨.inl rfl, rfl, fun _ h => congrArg (·.getD 0) h⟩
theorem Sys2Proof.Laws.Encoding.t2Assign (cmd : AdminCmd) : Sys2Proof.Laws.Encoding.Statement (.t2Assign cmd) :=
  ⟨.inl rfl, rfl, fun _ h => congrArg (·.getD 0) h⟩
theorem Sys2Proof.Laws.Encoding.schedSet (cmd : AdminCmd) : Sys2Proof.Laws.Encoding.Statement (.schedSet cmd) :=
  ⟨.inl rfl, rfl, fun _ h => congrArg (·.getD 0) h⟩
theorem Sys2Proof.Laws.Encoding.semRange (cmd : AdminCmd) : Sys2Proof.Laws.Encoding.Statement (.semRange cmd) :=
  ⟨.inl rfl, rfl, fun _ h => congrArg (·.getD 0) h⟩
theorem Sys2Proof.Laws.Encoding.s2rootSet (cmd : AdminCmd) : Sys2Proof.Laws.Encoding.Statement (.s2rootSet cmd) :=
  ⟨.inl rfl, rfl, fun _ h => congrArg (·.getD 0) h⟩
theorem Sys2Proof.Laws.Encoding.scopeSet (cmd : AdminCmd) : Sys2Proof.Laws.Encoding.Statement (.scopeSet cmd) :=
  ⟨.inl rfl, rfl, fun _ h => congrArg (·.getD 0) h⟩
theorem Sys2Proof.Laws.Encoding.fabricPeer (cmd : AdminCmd) : Sys2Proof.Laws.Encoding.Statement (.fabricPeer cmd) :=
  ⟨.inl rfl, rfl, fun _ h => congrArg (·.getD 0) h⟩
theorem Sys2Proof.Laws.Encoding.routeSet (cmd : AdminCmd) : Sys2Proof.Laws.Encoding.Statement (.routeSet cmd) :=
  ⟨.inl rfl, rfl, fun _ h => congrArg (·.getD 0) h⟩
theorem Sys2Proof.Laws.Encoding.dieReset (cmd : AdminCmd) : Sys2Proof.Laws.Encoding.Statement (.dieReset cmd) :=
  ⟨.inl rfl, rfl, fun _ h => congrArg (·.getD 0) h⟩
theorem Sys2Proof.Laws.Encoding.attest (cmd : AdminCmd) : Sys2Proof.Laws.Encoding.Statement (.attest cmd) :=
  ⟨.inl rfl, rfl, fun _ h => congrArg (·.getD 0) h⟩
theorem Sys2Proof.Laws.Encoding.fieldTest (cmd : AdminCmd) : Sys2Proof.Laws.Encoding.Statement (.fieldTest cmd) :=
  ⟨.inl rfl, rfl, fun _ h => congrArg (·.getD 0) h⟩
theorem Sys2Proof.Laws.Encoding.inject (cmd : AdminCmd) : Sys2Proof.Laws.Encoding.Statement (.inject cmd) :=
  ⟨.inl rfl, rfl, fun _ h => congrArg (·.getD 0) h⟩
theorem Sys2Proof.Laws.Encoding.coreResetDone (core : Nat) : Sys2Proof.Laws.Encoding.Statement (.coreResetDone core) :=
  ⟨.inl rfl, rfl, fun _ h => congrArg (·.getD 0) h⟩
theorem Sys2Proof.Laws.Encoding.illegalInstruction (word : BitVec 32) : Sys2Proof.Laws.Encoding.Statement (.illegalInstruction word) :=
  ⟨.inl rfl, rfl, fun _ h => congrArg (·.getD 0) h⟩
theorem Sys2Proof.Laws.Encoding.reservedEngineOpcode (word : BitVec 192) : Sys2Proof.Laws.Encoding.Statement (.reservedEngineOpcode word) :=
  ⟨.inl rfl, rfl, fun _ h => congrArg (·.getD 0) h⟩
end

