-- ==== Sys2Proof/Tests/Slice0.lean ====
section
/-! SUPPORT. Tests of the model: ill-formed instructions are refused, words written out from the spec's tables decode, and for
each statement a state that meets its hypotheses. -/

set_option Elab.async false

open Sys2Proof Sys2Proof.Machine

namespace Sys2Proof.Tests

/-- The word decodes to the instruction. -/
def decodesTo (w : BitVec 32) (i : Instr) : Bool :=
  match decodeStrand w with
  | .ok j => decide (j = i)
  | .error _ => false

/-- The word decodes to the instruction on this ring. -/
def engineDecodesTo (r : Nat) (w : BitVec 192) (i : Instr) : Bool :=
  match decodeEngine r w with
  | .ok j => decide (j = i)
  | .error _ => false

/-- The word is no instruction, for this reason. -/
def rejects (w : BitVec 32) (e : DecodeError) : Bool :=
  match decodeStrand w with
  | .ok _ => false
  | .error f => decide (f = e)

/-! ## Well-formedness -/

/-- One ill-formed instruction for each check, at the first value outside (Tables 15-7, 18-1, 21-1). -/
theorem test_wf_refuses : [Instr.sext 1 2 3, .zext 1 2 63, .fcvt false 1 2 40, .loop 1 0, .loop 1 8192, .mfs 1 7, .mfs 1 0x15, .mfs 1 0x23,
    .mts 1 0x2F, .mts 1 0x31, .rdid 1 8, .ld 1 0 3 true 0 0, .lds 1 3 true 0 0, .trans 15 0, .hinv 15, .hqry 1 15, .fence 0 6 0,
    .fence 0 3 1, .salias 32 0, .enq 6 0 0, .enq 1 62 0, .enq 0 63 0, .enq 0 1 1, .ringq 1 6 0, .ringq 1 0 6, .pdef 32 0, .padv 32,
    .take 1 6 2, .take 1 0 1, .lntw 0 false 1, .lntw 12 true 1, .lntgo 0 false, .tmm 3 1 2 3, .tmms 7 1 2 3, .tcvt 5 1 2 3,
    .mapset 16 1, .maprow 0 16 1 2].all (fun i => !i.wf && decide (encodeStrand i ≠ none)) = true := by decide +kernel

/-- The last value inside each of those checks. -/
theorem test_wf_accepts : [Instr.sext 1 2 2, .zext 1 2 2, .fcvt false 1 2 39, .loop 1 1, .loop 1 8191, .mfs 1 6, .mfs 1 0x14, .mfs 1 0x22,
    .mts 1 0x30, .rdid 1 7, .ld 1 0 3 false 0 0, .lds 1 3 false 0 0, .trans 14 0, .hinv 14, .hqry 1 14, .fence 0 5 0, .fence 0 4 63,
    .salias 31 0, .enq 5 62 0, .enq 1 61 63, .ringq 1 5 5, .pdef 31 0, .padv 31, .take 1 5 2, .take 0 0 0, .lntw 1 false 1, .lntw 11 true 1,
    .lntgo 11 false, .tmm 2 1 2 3, .tmms 2 1 2 3, .tcvt 4 1 2 3, .mapset 15 1, .maprow 0 15 1 2].all Instr.wf = true := by decide +kernel

/-- R271 to R273: words with a reserved major, a reserved function code, a field that must be zero, a value out of range. -/
theorem test_words_rejected :
    (rejects 0 .reservedMajor && rejects 0xFFFFFFFF .reservedMajor && rejects 0xB8000000 .reservedMajor && rejects 0xDFFFFFFF .reservedMajor &&
      rejects 0xE4000000 .reservedMajor && rejects 0x0400001C .reservedFunction && rejects 0x04000020 .fieldNotZero &&
      rejects 0x04000118 .fieldNotZero && rejects 0x20003000 .reservedFunction && rejects 0x20000040 .fieldNotZero && rejects 0x50004001 .fieldNotZero &&
      rejects 0x2C3108AC .fieldNotZero && rejects 0x2C31288C .outOfRange && rejects 0x8C0FC000 .outOfRange && rejects 0x88000001 .fieldNotZero) = true := by
  decide +kernel

/-- R278: VOP 0 and 0x24, MOP 0 and 7, COP 0 and 0x0E are reserved on their rings. -/
theorem test_engine_words_rejected : [(0, 0), (0, 0x24 * 2 ^ 89), (1, 0), (1, 7 * 2 ^ 184), (2, 0), (5, 0x0E * 2 ^ 89)].all (fun e =>
    match decodeEngine e.1 (BitVec.ofNat 192 e.2) with
    | .error .reservedEngineOpcode => true
    | _ => false) = true := by decide +kernel

/-! ## Decoding: each word is the row's match bits of the opcode table with its fields placed by hand -/

/-- Tables 15-5 to 15-7, 18-1, 21-1. -/
theorem test_decode_alu : [
    (0x0655A900#32, Instr.add 37 22 41), (0x0655A901#32, .sub 37 22 41), (0x0655A902#32, .and 37 22 41),
    (0x0655A903#32, .or 37 22 41), (0x0655A904#32, .xor 37 22 41), (0x0655A905#32, .andn 37 22 41),
    (0x0655A906#32, .sll 37 22 41), (0x0655A907#32, .srl 37 22 41), (0x0655A908#32, .sra 37 22 41),
    (0x0655A909#32, .mul 37 22 41), (0x0655A90A#32, .mulhu 37 22 41), (0x0655A90B#32, .mulhs 37 22 41),
    (0x0655A90C#32, .div 37 22 41), (0x0655A90D#32, .divu 37 22 41), (0x0655A90E#32, .rem 37 22 41),
    (0x0655A90F#32, .remu 37 22 41), (0x0655A910#32, .min 37 22 41), (0x0655A911#32, .max 37 22 41),
    (0x0655A912#32, .minu 37 22 41), (0x0655A913#32, .maxu 37 22 41), (0x0655A914#32, .slt 37 22 41),
    (0x0655A915#32, .sltu 37 22 41), (0x0655A916#32, .seq 37 22 41), (0x06558017#32, .clz 37 22), (0x06558018#32, .ctz 37 22),
    (0x06558019#32, .popc 37 22), (0x0655811A#32, .sext 37 22 1), (0x0655811B#32, .zext 37 22 1)].all (fun e =>
      decodesTo e.1 e.2 && e.2.wf && decide (encodeStrand e.2 = some e.1)) = true := by decide +kernel

/-- Tables 15-5 to 15-7, 18-1, 21-1. -/
theorem test_decode_immediate : [
    (0x0A55AA95#32, Instr.addi 37 22 10901), (0x0E55AA95#32, .andi 37 22 10901), (0x1255AA95#32, .ori 37 22 10901),
    (0x1655AA95#32, .xori 37 22 10901), (0x1A55AA95#32, .slti 37 22 10901), (0x1E55AA95#32, .sltiu 37 22 10901),
    (0x2255802D#32, .slli 37 22 45), (0x2255902D#32, .srli 37 22 45), (0x2255A02D#32, .srai 37 22 45),
    (0x2659C3A5#32, .li 37 639909), (0x2A59C3A5#32, .lih 37 639909)].all (fun e =>
      decodesTo e.1 e.2 && e.2.wf && decide (encodeStrand e.2 = some e.1)) = true := by decide +kernel

/-- Tables 15-5 to 15-7, 18-1, 21-1. -/
theorem test_decode_float : [
    (0x2E55A980#32, Instr.fadd true 37 22 41), (0x2E55A981#32, .fsub true 37 22 41), (0x2E55A982#32, .fmul true 37 22 41),
    (0x2E55A983#32, .fdiv true 37 22 41), (0x2E558084#32, .fsqrt true 37 22), (0x2E55A985#32, .fmin true 37 22 41),
    (0x2E55A986#32, .fmax true 37 22 41), (0x2E55A987#32, .fma true 37 22 41), (0x2E55A988#32, .fcmpeq true 37 22 41),
    (0x2E55A989#32, .fcmplt true 37 22 41), (0x2E55A98A#32, .fcmple true 37 22 41), (0x2E55808B#32, .fclass true 37 22),
    (0x2E559D8C#32, .fcvt true 37 22 29)].all (fun e =>
      decodesTo e.1 e.2 && e.2.wf && decide (encodeStrand e.2 = some e.1)) = true := by decide +kernel

/-- Tables 15-5 to 15-7, 18-1, 21-1. -/
theorem test_decode_control : [
    (0x316A6A95#32, Instr.beq 22 41 10901), (0x356A6A95#32, .bne 22 41 10901), (0x396A6A95#32, .blt 22 41 10901),
    (0x3D6A6A95#32, .bge 22 41 10901), (0x416A6A95#32, .bltu 22 41 10901), (0x456A6A95#32, .bgeu 22 41 10901),
    (0x4A59C3A5#32, .jal 37 639909), (0x4E55AA95#32, .jalr 37 22 10901), (0x51601FFF#32, .loop 22 8191),
    (0x56501300#32, .mfs 37 19), (0x56501301#32, .mts 37 19), (0x5655A902#32, .vdq 37 22 41), (0x56558003#32, .sflag 37 22),
    (0x56500604#32, .rdid 37 6)].all (fun e =>
      decodesTo e.1 e.2 && e.2.wf && decide (encodeStrand e.2 = some e.1)) = true := by decide +kernel

/-- Tables 15-5 to 15-7, 18-1, 21-1. -/
theorem test_decode_memory : [
    (0x5A59AB55#32, Instr.ld 37 9 2 true 22 85), (0x5E998B55#32, .st 41 9 2 22 85), (0x625AB4D3#32, .lds 37 2 true 22 1235),
    (0x6658B4D3#32, .sts 37 2 22 1235), (0x6809AB55#32, .pf 9 2 true 22 85), (0x6CB58000#32, .trans 11 22),
    (0x6CB00001#32, .hinv 11), (0x6E52C002#32, .hqry 37 11)].all (fun e =>
      decodesTo e.1 e.2 && e.2.wf && decide (encodeStrand e.2 = some e.1)) = true := by decide +kernel

/-- Tables 15-5 to 15-7, 18-1, 21-1. -/
theorem test_decode_atomics : [
    (0x72595A90#32, Instr.atom32Add 37 9 22 41), (0x72595A91#32, .atom32And 37 9 22 41), (0x72595A92#32, .atom32Or 37 9 22 41),
    (0x72595A93#32, .atom32Xor 37 9 22 41), (0x72595A94#32, .atom32Min 37 9 22 41), (0x72595A95#32, .atom32Max 37 9 22 41),
    (0x72595A96#32, .atom32Minu 37 9 22 41), (0x72595A97#32, .atom32Maxu 37 9 22 41), (0x72595A98#32, .atom32Xchg 37 9 22 41),
    (0x72595A99#32, .atom32Cas 37 9 22 41), (0x72595A9A#32, .atom32Fadd 37 9 22 41), (0x72595A9B#32, .atom32Fmin 37 9 22 41),
    (0x72595A9C#32, .atom32Fmax 37 9 22 41), (0x76595A90#32, .atom64Add 37 9 22 41), (0x76595A91#32, .atom64And 37 9 22 41),
    (0x76595A92#32, .atom64Or 37 9 22 41), (0x76595A93#32, .atom64Xor 37 9 22 41), (0x76595A94#32, .atom64Min 37 9 22 41),
    (0x76595A95#32, .atom64Max 37 9 22 41), (0x76595A96#32, .atom64Minu 37 9 22 41), (0x76595A97#32, .atom64Maxu 37 9 22 41),
    (0x76595A98#32, .atom64Xchg 37 9 22 41), (0x76595A99#32, .atom64Cas 37 9 22 41), (0x76595A9A#32, .atom64Fadd 37 9 22 41),
    (0x76595A9B#32, .atom64Fmin 37 9 22 41), (0x76595A9C#32, .atom64Fmax 37 9 22 41)].all (fun e =>
      decodesTo e.1 e.2 && e.2.wf && decide (encodeStrand e.2 = some e.1)) = true := by decide +kernel

/-- Tables 15-5 to 15-7, 18-1, 21-1. -/
theorem test_decode_sync : [
    (0x78095800#32, Instr.lease 9 22), (0x7A500001#32, .unlease 37), (0x7D1A4000#32, .fence 1 4 41), (0x7C000001#32, .rcfence),
    (0x8005A920#32, .swait true 22 41), (0x8005A901#32, .ssig 22 41), (0x82558002#32, .sread 37 22),
    (0x8005A903#32, .sinit 22 41), (0x81B58004#32, .salias 27 22), (0x86595800#32, .waitq 37 9 22),
    (0x86595A91#32, .wake 37 9 22 41), (0x88000000#32, .bar)].all (fun e =>
      decodesTo e.1 e.2 && e.2.wf && decide (encodeStrand e.2 = some e.1)) = true := by decide +kernel

/-- Tables 15-5 to 15-7, 18-1, 21-1. -/
theorem test_decode_rings : [
    (0x8C1F6900#32, Instr.enq 1 61 41), (0x8E510501#32, .ringq 37 4 5), (0x8DD58002#32, .pdef 29 22), (0x8DD00003#32, .padv 29),
    (0x92516900#32, .take 37 5 41), (0x95A58000#32, .lntw 10 true 22), (0x95A00001#32, .lntgo 10 true),
    (0x96D58002#32, .fmtw 45 22)].all (fun e =>
      decodesTo e.1 e.2 && e.2.wf && decide (encodeStrand e.2 = some e.1)) = true := by decide +kernel

/-- Tables 15-5 to 15-7, 18-1, 21-1. -/
theorem test_decode_leaves : [
    (0x99358000#32, Instr.tld 19 22), (0x99358001#32, .tlds 19 22), (0x9935AA02#32, .tfill 19 22 42),
    (0x9D35A940#32, .tmm 2 19 22 41), (0x9D35A941#32, .tmms 2 19 22 41), (0xA135A900#32, .tewAdd 19 22 41),
    (0xA135A901#32, .tewSub 19 22 41), (0xA135A902#32, .tewMul 19 22 41), (0xA135A903#32, .tewDiv 19 22 41),
    (0xA135A904#32, .tewMax 19 22 41), (0xA135A905#32, .tewMin 19 22 41)].all (fun e =>
      decodesTo e.1 e.2 && e.2.wf && decide (encodeStrand e.2 = some e.1)) = true := by decide +kernel

/-- Tables 15-5 to 15-7, 18-1, 21-1. -/
theorem test_decode_tiles : [
    (0xA5358000#32, Instr.tunExp 19 22), (0xA5358001#32, .tunLog 19 22), (0xA5358002#32, .tunRcp 19 22),
    (0xA5358003#32, .tunRsq 19 22), (0xA5358004#32, .tunTanh 19 22), (0xA5358005#32, .tunSilu 19 22),
    (0xA5358006#32, .tunNeg 19 22), (0xA5358007#32, .tunAbs 19 22), (0xA935AA80#32, .tcvt 4 19 22 42),
    (0xA93580A1#32, .tred true 2 19 22), (0xA935A902#32, .tsel 19 22 41), (0xAD35ABA0#32, .tmap 19 22 11 21),
    (0xACD58001#32, .mapset 13 22), (0xACD5A982#32, .maprow 2 13 22 41), (0xB005A920#32, .tstore true 22 41),
    (0xB005A921#32, .force true 22 41), (0xB4058000#32, .tdrop 22), (0xB6558061#32, .tqry 37 22 3), (0xB405A902#32, .tarena 22 41)].all (fun e =>
      decodesTo e.1 e.2 && e.2.wf && decide (encodeStrand e.2 = some e.1)) = true := by decide +kernel

/-- Tables 15-5 to 15-7, 18-1, 21-1. -/
theorem test_decode_system : [
    (0xE2C0DE00#32, Instr.trap 180446), (0xE0000001#32, .eret), (0xE0000002#32, .exit), (0xE0058003#32, .pause 22),
    (0xE2558004#32, .wfe 37 22), (0xE0000005#32, .pyld), (0xE2558006#32, .ctxsv 37 22), (0xE0058007#32, .ctxld 22),
    (0xE0058008#32, .live 22), (0xE0000009#32, .dbgbrk)].all (fun e =>
      decodesTo e.1 e.2 && e.2.wf && decide (encodeStrand e.2 = some e.1)) = true := by decide +kernel

/-- Table 15-8: opcodes from 1 in the order of Table 15-11 (R278). -/
theorem test_decode_vector : [
    (1, Instr.vmov), (2, .vadd), (3, .vsub), (4, .vmul), (5, .vfma), (6, .vdiv), (7, .vmin), (8, .vmax), (9, .vabs),
    (10, .vneg), (11, .vexp), (12, .vlog), (13, .vrcp), (14, .vrsq), (15, .vtanh), (16, .vsilu), (17, .vcmp), (18, .vsel),
    (19, .vand), (20, .vor), (21, .vxor), (22, .vshl), (23, .vshr), (24, .vcvt), (25, .vqnt), (26, .vrsum), (27, .vrmax),
    (28, .vscan), (29, .vgath), (30, .vscat), (31, .vhins), (32, .vhdrn), (33, .vdrn), (34, .vadv), (35, .vnop)].all (fun e =>
      engineDecodesTo 0 (BitVec.ofNat 192 (e.1 * 2 ^ 89 + 0x1639556AABC3C51223F0F16)) (e.2 {
        mod := 0x5, fmt := 0x23, lnt := 0x9, await := 0x155, raise := 0x2aa, dst := 0x2f0f1, a := 0x11223, b := 0x3c3c5, rsv := 0x2 })) = true := by
  decide +kernel

/-- Table 15-9: opcodes from 1 in the order of Table 15-11 (R278). -/
theorem test_decode_matrix : [
    (1, Instr.mma), (2, .mmas), (3, .mspm), (4, .mzero), (5, .mcmt), (6, .mnop)].all (fun e =>
      engineDecodesTo 1 (BitVec.ofNat 192 (e.1 * 2 ^ 184 + 0x8D56556AA9CDC8D159E26AF3786ABFB72EA61D950CAA95)) (e.2 {
        fmtA := 0x23, fmtB := 0x15, accm := 0x1, bank := 0x2, await := 0x155, raise := 0x2aa, n16 := 0x13, lnt := 0x9, scale := 0xb, ava := 0x123456789abcde1, aux := 0x55, bva := 0xfedcba98765432, flags := 0x2a95 })) = true := by
  decide +kernel

/-- Table 15-10: opcodes from 1 in the order of Table 15-11 (R278). -/
theorem test_decode_copy : [
    (1, Instr.ccopy), (2, .ccvt), (3, .cgath), (4, .cscat), (5, .cfill), (6, .csend), (7, .cred), (8, .csub), (9, .cdrain),
    (10, .sgath), (11, .sred), (12, .scvt), (13, .cnop)].all (fun e =>
      engineDecodesTo 4 (BitVec.ofNat 192 (e.1 * 2 ^ 89 + 0x1555AAAD2D2D2D2D2D0CF55)) (e.2 {
        mod := 0x5, await := 0x155, raise := 0x2aa, tsra := 0x5a5a5a5a5a5a1, ch := 0x13, tsrsp := true, rsv := 0x155 })) = true := by
  decide +kernel
/-! ## Steps: expected values from the spec's tables and examples, or by hand from them -/

/-- Core 0 with a strand at 0x10_0000 that holds these registers. -/
def at0 (regs : List (Nat × Word)) : State :=
  { State.reset with cores := [(0, { resident := true, strand := { status := .running, pc := 0x100000, regs := regs } })] }

/-- The state after an instruction, or the state before it where it gives none. -/
def after (i : Instr) (s : State) : State :=
  match exec i s with
  | .next t => t
  | _ => s

/-- The scalar register after an instruction. -/
def gives (i : Instr) (regs : List (Nat × Word)) (d : Reg) : Nat := ((after i (at0 regs)).get d).toNat

/-- The event that an instruction takes, 0 for none. -/
def cause (i : Instr) (s : State) : Nat :=
  ((after i (s.onStrand (fun t => { t with trapVecValid := true, trapVec := 0x2000 }))).strand.trapCause).toNat

/-- Table 16-1: the sum wraps modulo 2^64. -/
theorem test_add_wraps : gives (.add 3 4 5) [(4, 0xFFFFFFFFFFFFFFFF), (5, 2)] 3 = 1 := by decide +kernel

/-- Table 16-1: s0 reads as zero and discards writes (R268). -/
theorem test_s0_stays_zero : gives (.add 0 4 5) [(4, 7), (5, 2)] 0 = 0 := by decide +kernel

/-- Table 16-2: division by 0, and −2^63 / −1. -/
theorem test_division_corners : gives (.div 3 4 5) [(4, 7)] 3 = 0xFFFFFFFFFFFFFFFF ∧ gives (.rem 3 4 5) [(4, 7)] 3 = 7 ∧
    gives (.div 3 4 5) [(4, 0x8000000000000000), (5, 0xFFFFFFFFFFFFFFFF)] 3 = 0x8000000000000000 ∧
    gives (.rem 3 4 5) [(4, 0x8000000000000000), (5, 0xFFFFFFFFFFFFFFFF)] 3 = 0 := by decide +kernel

/-- Table 16-1: −7 / 2 truncates towards zero, and the remainder has the sign of A. -/
theorem test_division_truncates : gives (.div 3 4 5) [(4, 0xFFFFFFFFFFFFFFF9), (5, 2)] 3 = 0xFFFFFFFFFFFFFFFD ∧
    gives (.rem 3 4 5) [(4, 0xFFFFFFFFFFFFFFF9), (5, 2)] 3 = 0xFFFFFFFFFFFFFFFF := by decide +kernel

/-- Table 16-1: high products, unsigned and signed, of −1 by −1. -/
theorem test_high_products : gives (.mulhu 3 4 4) [(4, 0xFFFFFFFFFFFFFFFF)] 3 = 0xFFFFFFFFFFFFFFFE ∧
    gives (.mulhs 3 4 4) [(4, 0xFFFFFFFFFFFFFFFF)] 3 = 0 := by decide +kernel

/-- Table 16-1: shifts use B[5:0]; SRA keeps the sign. -/
theorem test_shifts : gives (.sll 3 4 5) [(4, 3), (5, 65)] 3 = 6 ∧
    gives (.sra 3 4 5) [(4, 0x8000000000000000), (5, 63)] 3 = 0xFFFFFFFFFFFFFFFF := by decide +kernel

/-- R291: CLZ and CTZ of 0 are 64; SEXT.B of 0x80. -/
theorem test_counts_and_extends : gives (.clz 3 4) [] 3 = 64 ∧ gives (.ctz 3 4) [] 3 = 64 ∧ gives (.popc 3 4) [(4, 0xF0F)] 3 = 8 ∧
    gives (.sext 3 4 0) [(4, 0x180)] 3 = 0xFFFFFFFFFFFFFF80 ∧ gives (.zext 3 4 0) [(4, 0x180)] 3 = 0x80 := by decide +kernel

/-- R293: ADDI sign-extends, ANDI does not; SLTIU reads the extended immediate as unsigned. -/
theorem test_immediates : gives (.addi 3 4 0x3FFF) [(4, 1)] 3 = 0 ∧ gives (.andi 3 4 0x3FFF) [(4, 0xFFFFFFFFFFFFFFFF)] 3 = 0x3FFF ∧
    gives (.sltiu 3 4 0x3FFF) [(4, 5)] 3 = 1 := by decide +kernel

/-- R294: its example, LI 0x200 then LIH 0x8000. -/
theorem test_li_lih : gives (.li 4 0x200) [] 4 = 0x200 ∧ gives (.lih 4 0x8000) [(4, 0x200)] 4 = 0x20008000 := by decide +kernel

/-- R305's example: 1 + 2^−24 in FP32 rounds to 1 and sets NX. -/
theorem test_fadd_example : gives (.fadd false 3 4 5) [(4, 0x3F800000), (5, 0x33800000)] 3 = 0x3F800000 ∧
    (after (.fadd false 3 4 5) (at0 [(4, 0x3F800000), (5, 0x33800000)])).strand.flags = 0x10 := by decide +kernel

/-- Table 16-4: ∞ − ∞ is NaN with NV; a NaN compares unequal to itself. -/
theorem test_fsub_infinities : (after (.fsub false 3 4 4) (at0 [(4, 0x7F800000)])).strand.flags = 1 ∧
    gives (.fcmpeq false 3 4 4) [(4, 0x7FC00000)] 3 = 0 := by decide +kernel

/-- Table 16-5: the class of −0 in FP64 and of a subnormal in FP32. -/
theorem test_fclass : gives (.fclass true 3 4) [(4, 0x8000000000000000)] 3 = 8 ∧ gives (.fclass false 3 4) [(4, 1)] 3 = 32 := by decide +kernel

/-- R297: 2.5 to I64 in RNE is 2 and in RUP 3. -/
theorem test_fcvt_modes : gives (.fcvt true 3 4 0) [(4, 0x4004000000000000)] 3 = 2 ∧
    gives (.fcvt true 3 4 24) [(4, 0x4004000000000000)] 3 = 3 := by decide +kernel

/-- R298: BLT three words back is taken on −1 < 0, and not on 0 < −1. -/
theorem test_blt : (after (.blt 4 5 0x3FFD) (at0 [(4, 0xFFFFFFFFFFFFFFFF)])).strand.pc = 0xFFFF4 ∧
    (after (.blt 4 5 0x3FFD) (at0 [(5, 0xFFFFFFFFFFFFFFFF)])).strand.pc = 0x100004 := by decide +kernel

/-- R299: JALR s5, s5 jumps through the old s5 and then links; a target that is no multiple of 4 takes 0x03. -/
theorem test_jalr : (after (.jalr 5 5 0) (at0 [(5, 0x4000)])).strand.pc = 0x4000 ∧ gives (.jalr 5 5 0) [(5, 0x4000)] 5 = 0x100004 ∧
    cause (.jalr 5 5 0) (at0 [(5, 0x4002)]) = 3 := by decide +kernel

/-- R300: a LOOP with a count of 0 goes behind its body; one with a count pushes its entry. -/
theorem test_loop : (after (.loop 4 5) (at0 [])).strand.pc = 0x100018 ∧
    (after (.loop 4 5) (at0 [(4, 2)])).strand.loops = [{ pc := 0x100000, reg := 4, last := 0x100014 }] := by decide +kernel

/-- R300: at the last word of a body with the count at 2, the count drops to 1 and PC goes to the first word. -/
theorem test_loop_end :
    let s := (at0 [(4, 2)]).onStrand (fun t => { t with loops := [{ pc := 0xFFFF8, reg := 4, last := 0x100000 }] })
    (after (.addi 6 0 1) s).strand.pc = 0xFFFFC ∧ ((after (.addi 6 0 1) s).get 4).toNat = 1 := by decide +kernel

/-- R303, Table 15-2: MTS to CTXID is a privilege event; LEASEMAX takes the nearest bound (R178). -/
theorem test_mts : cause (.mts 4 0x14) (at0 []) = 2 ∧ (after (.mts 4 0x11) (at0 [(4, 5000)])).strand.leaseMax = 4096 ∧
    (after (.mts 4 0x11) (at0 [])).strand.leaseMax = 1 := by decide +kernel

/-- R305: SFLAG clears the flags that s[a] selects. -/
theorem test_sflag :
    let s := (at0 [(7, 0x10)]).onStrand (fun t => { t with flags := 0x14 })
    ((after (.sflag 6 7) s).get 6).toNat = 0x14 ∧ (after (.sflag 6 7) s).strand.flags = 4 := by decide +kernel

/-- Table 16-11: selector 3 of core 65 (die 1, core 1 of its die). -/
theorem test_rdid :
    let s : State := { State.reset with actor := { core := 65 }, cores := [(65, { resident := true, strand := { status := .running } })] }
    ((after (.rdid 3 3) s).get 3).toNat = 2 ^ 38 + 2 ^ 32 ∧ ((after (.rdid 3 0) s).get 3).toNat = 1 := by decide +kernel

/-- R312: STS then LDS, signed; the top byte of the scratchpad is the last. -/
theorem test_sts_lds : ((after (.lds 3 0 true 4 0) (after (.sts 5 0 4 0) (at0 [(4, 0x1FFFFF), (5, 0x80)]))).get 3).toNat =
      0xFFFFFFFFFFFFFF80 ∧ cause (.lds 3 0 true 4 1) (at0 [(4, 0x1FFFFF)]) = 7 ∧ cause (.lds 3 1 true 4 0) (at0 [(4, 1)]) = 3 := by
  decide +kernel

/-- R310 through h1 to a device page, ST.W then LD.W signed. -/
theorem test_st_ld :
    let s := (at0 [(5, 0x80000001)]).onStrand (fun t => { t with
      handles := [(1, { va := 0x7000, st := .valid, tr := { base := 0x7000, pa := 0x3000, wr := true } })] })
    let t := after (.st 5 1 2 0 1) s
    mval t.mem 0x3004 4 = 0x80000001 ∧ ((after (.ld 3 1 2 true 0 1) t).get 3).toNat = 0xFFFFFFFF80000001 ∧
      cause (.ld 3 1 2 true 4 0) (s.set 4 0x1000) = 7 := by decide +kernel

/-- Table 10-7: an access through an INVALID handle takes 0x06. -/
theorem test_invalid_handle : cause (.ld 3 2 2 true 0 0) (at0 []) = 6 := by decide +kernel

/-- R313: ATOM32.ADD wraps, ATOM32.CAS compares with s[d] and writes only on equality. -/
theorem test_atomics :
    let s := (at0 [(5, 1), (6, 9)]).onStrand (fun t => { t with
      handles := [(1, { va := 0x7000, st := .valid, tr := { base := 0x7000, pa := 0x3000, wr := true } })] })
    let s := { s with mem := mwrite s.mem 0x3000 (toBytes 4 0xFFFFFFFF) }
    let t := after (.atom32Add 3 1 0 5) s
    (t.get 3).toNat = 0xFFFFFFFF ∧ mval t.mem 0x3000 4 = 0 ∧ mval (after (.atom32Cas 6 1 0 5) s).mem 0x3000 4 = 0xFFFFFFFF := by
  decide +kernel

/-- Table 17-4: SSIG saturates at both ends; SREAD reads. -/
theorem test_ssig :
    let s := { at0 [(4, 3), (5, 0x8000), (6, 0x7FFF)] with sems := [(3, 0xFFFFFFF0)] }
    (after (.ssig 4 6) s).sem 3 = 0xFFFFFFFF ∧ (after (.ssig 4 5) { s with sems := [(3, 5)] }).sem 3 = 0 ∧
      ((after (.sread 7 4) s).get 7).toNat = 0xFFFFFFF0 := by decide +kernel

/-- R317: SWAIT.GE passes and subtracts; SWAIT.EQ leaves the value; a value too small queues the strand. -/
theorem test_swait :
    let s := { at0 [(4, 3), (5, 2)] with sems := [(3, 5)] }
    (after (.swait false 4 5) s).sem 3 = 3 ∧ (after (.swait true 4 5) { s with sems := [(3, 2)] }).sem 3 = 2 ∧
      (after (.swait false 4 5) { s with sems := [(3, 1)] }).strand.status = .waitSem 3 := by decide +kernel

/-- R320: in a gang of one core BAR completes at once. -/
theorem test_bar : (after .bar (at0 [])).strand.pc = 0x100004 := by decide +kernel

/-- R382 and R383: TRAP enters the handler with its number, ERET returns to the TRAP; with no handler the strand ends. -/
theorem test_trap_eret :
    let s := (at0 []).onStrand (fun t => { t with trapVec := 0x2000, trapVecValid := true })
    let t := after (.trap 77) s
    t.strand.pc = 0x2000 ∧ t.strand.trapPc = 0x100000 ∧ t.strand.trapInfo = 77 ∧ t.strand.inHandler = true ∧
      (after .eret t).strand.pc = 0x100000 ∧ (after .eret t).strand.inHandler = false ∧ (after (.trap 77) (at0 [])).strand.status = .ended := by
  decide +kernel

/-- R335: TFILL.F32 appends a scalar node whose value is s[a] as FP32 rounded to BF16. -/
theorem test_tfill :
    let t := after (.tfill 9 4 0) (at0 [(4, 0x3F808000)])
    (sfind t.strand.tiles 9).isSome = true ∧ t.strand.flags = 0x10 := by decide +kernel

/-- R388: PYLD counts. -/
theorem test_pyld : (after .pyld (at0 [])).strand.pylds = 1 := by decide +kernel

/-- R384: EXIT ends the issue. -/
theorem test_exit : (after .exit (at0 [])).strand.status = .exited := by decide +kernel

/-- A word placed at the PC is what the next step runs: ADD s3, s4, s5 (0x0431_0500) after reset. -/
theorem test_step_runs_word :
    (match step ((State.reset.withFetchWord 32 0x04310500).onStrand (fun t => { t with regs := [(4, 40), (5, 2)] })) with
     | .next t => ((t.core 0).strand.get 3).toNat
     | _ => 0) = 42 := by decide +kernel

/-- Table 5-2: COLD_START begins step 1 from reset. -/
theorem test_cold_start : (after .coldStart State.reset).start.step = 1 ∧ (after .coldStart State.reset).start.done = false := by decide +kernel

/-- R126: SCHED_SET 249 µs is refused and 250 is taken. -/
theorem test_sched_set :
    (after (.schedSet { fn := 0, opc := 0x49, cid := 1, ops := 249 + 20 * 2 ^ 32 }) State.reset).slice = 2000 ∧
    (after (.schedSet { fn := 0, opc := 0x49, cid := 1, ops := 250 + 20 * 2 ^ 32 }) State.reset).slice = 250 := by decide +kernel

/-- R25: a sample raises PEAKW, and the read of PWRMEAS clears it. -/
theorem test_peakw : (after (.pwrmeasSample 700) State.reset).peakW = 700 ∧
    (after .peakwRead (after (.pwrmeasSample 700) State.reset)).peakW = 0 := by decide +kernel


/-! ## Witnesses: for each statement with hypotheses, states and operands that meet them -/

/-- The computation answers `p`. -/
def okIs {ε α : Type} [DecidableEq α] (e : Except ε α) (p : α) : Bool :=
  match e with
  | .ok q => decide (q = p)
  | .error _ => false

theorem of_okIs {ε α : Type} [DecidableEq α] {e : Except ε α} {p : α} (h : okIs e p = true) : e = .ok p := by
  cases e with
  | ok q => simpa [okIs] using h
  | error _ => simp [okIs] at h

/-- The computation answers something that `f` accepts. -/
def okAnd {ε α : Type} (e : Except ε α) (f : α → Bool) : Bool :=
  match e with
  | .ok q => f q
  | .error _ => false

theorem of_okAnd {ε α : Type} {e : Except ε α} {f : α → Bool} (h : okAnd e f = true) : ∃ p, e = .ok p ∧ f p = true := by
  cases e with
  | ok q => exact ⟨q, rfl, h⟩
  | error _ => simp [okAnd] at h

theorem of_error {ε α : Type} {e : Except ε α} (h : (match e with | .ok _ => false | .error _ => true) = true) :
    ∃ x, e = .error x := by
  cases e with
  | ok _ => simp at h
  | error x => exact ⟨x, rfl⟩

/-- The computation stops with `x`. -/
def errIs {α : Type} (e : Chk α) (x : Stop) : Bool :=
  match e with
  | .ok _ => false
  | .error y => decide (y = x)

theorem of_errIs {α : Type} {e : Chk α} {x : Stop} (h : errIs e x = true) : e = .error x := by
  cases e with
  | ok _ => simp [errIs] at h
  | error _ => simpa [errIs] using h

/-- The page of handle h1 of `paged`. -/
def page1 : Trans := { base := 0x7000, pa := 0x3000, gpa := 0x3000, wr := true }
def hand1 : Handle := { va := 0x7000, st := .valid, tr := page1 }

/-- `at0` with h1 VALID on a device page. -/
def paged (regs : List (Nat × Word)) (tr : Trans) : State :=
  (at0 regs).onStrand (fun t => { t with handles := [(1, { va := 0x7000, st := .valid, tr := tr })] })

/-- Branches, loops, FCLASS and FCVT: each class, each rounding field, taken and not, aligned and not. -/
theorem witness_scalar_values :
    [0x7F800001, 0x7F800000, 0, 1, 0x3F800000].map (fun v => (v % 2 ^ 23, v / 2 ^ 23 % 2 ^ 8)) =
      [(1, 255), (0, 255), (0, 0), (1, 0), (0, 127)] ∧
    [0x7FF0000000000001, 0x7FF0000000000000, 0, 1, 0x3FF0000000000000].map (fun v => (v % 2 ^ 52, v / 2 ^ 52 % 2 ^ 11)) =
      [(1, 2047), (0, 2047), (0, 0), (1, 0), (0, 1023)] ∧
    (modeOf ((3 : BitVec 6).toNat / 8) = some .rne ∧ modeOf ((31 : BitVec 6).toNat / 8) = some .rup ∧
      (32 : BitVec 6).toNat / 8 = 4 ∧ (39 : BitVec 6).toNat / 8 = 4 ∧ (39 : BitVec 6).toNat % 8 = 7 ∧ 5 ≤ (40 : BitVec 6).toNat / 8 ∧ 5 ≤ (63 : BitVec 6).toNat / 8) ∧
    (Fmt.f32.val 0x7F7FFFFF ≠ .nan ∧ Fmt.f64.val 1 ≠ .nan ∧ Fmt.bf16.val 0xFF80 ≠ .nan ∧ Fmt.f16.val 0 ≠ .nan) ∧
    (((at0 [(4, 0x1003)]).get 4).toNat + 4 * (0 : BitVec 14).toInt) % 2 ^ 64 % 4 ≠ 0 ∧
    (((at0 [(4, 0x1004)]).get 4).toNat + 4 * (-1 : BitVec 14).toInt) % 2 ^ 64 % 4 = 0 := by decide +kernel

/-- The special float cases, each with its operands in s4, s5 and s6. -/
theorem witness_float_corners : [((0x7F800000 : Word), (0xFF800000 : Word), (0 : Word)), (0x7F800000, 0x7F800000, 0),
    (0x80000000, 0xFF800000, 0x7FC00000), (1, 0, 0), (0x7F7FFFFF, 0x80000000, 0), (0, 0x80000000, 0), (0xFF800000, 0, 0),
    (0x7F800001, 0, 0)].all (fun e =>
      let s := at0 [(4, e.1), (5, e.2.1), (6, e.2.2)]
      decide (s.get 4 = e.1 ∧ s.get 5 = e.2.1 ∧ s.get 6 = e.2.2)) = true := by decide +kernel

/-- LOOP with a count of 0, with a free entry, with three entries, and inside a body that ends first; the end of a body. -/
theorem witness_LoopsRepeatTheirBody :
    let e : LoopEntry := { pc := 0xFFFF8, reg := 4, last := 0x100000 }
    let s (n : Nat) (c : Word) := (at0 [(4, c)]).onStrand (fun t => { t with loops := List.replicate n e })
    (s 0 0).get 4 = 0 ∧ (s 0 2).get 4 ≠ 0 ∧ (s 0 2).strand.loops.length < 3 ∧ (s 3 2).strand.loops.length = 3 ∧
    e.last.toNat ≤ (BitVec.ofInt 57 (((s 1 2).strand.pc.toNat : Int) + 4 * (1 : BitVec 14).toInt)).toNat ∧
    (s 1 1).strand.pc = e.last ∧ ((s 1 1).get e.reg).toNat ≤ 1 ∧ 1 < ((s 1 2).get e.reg).toNat := by decide +kernel

/-- MTS: no retained word with a random draw and a change of ENGSEED; the PF and another function; every RO number. -/
theorem witness_StatusRegistersAreReadAndWritten :
    (at0 []).anyRetained 0 0 (usesSr (at0 []).me) = false ∧ (at0 []).me.fn = 0 ∧
    ((at0 []).onMe (fun k => { k with fn := 1 })).me.fn ≠ 0 := by decide +kernel

/-- RDID in a gang. -/
theorem witness_FlagsAndIdentityAreRead :
    let g : Gang := { id := 1, fn := 0, ctx := 0, q := 0, idx := 0, inst := 3, die := 0, shape := 0, cores := [0] }
    let n : TaskNode := { fn := 0, q := 0, idx := 0, launch := {}, remaining := 0, phase := .ready, peer := 1023 }
    let s : State := { at0 [] with gangs := [g], nodes := [n], cores := [(0, { resident := true, gang := 1 })] }
    s.gang s.me.gang = some g ∧ s.nodeOf 0 = some n ∧ s.vdie 0 63 = none := by decide +kernel

/-- LDS and STS below the top, at it, misaligned, with SPDBG and a word in flight that writes the bytes. -/
theorem witness_ScratchLoadsAndStores :
    let busy := ((at0 [(4, 8)]).onMe (fun k => { k with rings := [(0, { flight := [{ seq := 0, writes := [(0, 16)] }], next := 1, rtail := 1 })] })).onStrand
      (fun t => { t with spdbg := true })
    Unshared (at0 [(4, 0x1FFFF8)]) true 0x1FFFF8 0x200000 ∧ 0x200000 ≤ ((at0 [(4, 0x200000)]).get 4).toNat ∧
    (((at0 [(4, 0x1FFFF9)]).get 4).toNat < 0x200000 ∧ 0x1FFFF9 % 8 ≠ 0) ∧
    (busy.strand.spdbg = true ∧ busy.pendingBytes 0 8 16 = true) ∧ ¬((at0 [(4, 0x1FFFF8)]).strand.spdbg = true) :=
  ⟨of_okIs (by decide +kernel), by decide +kernel⟩

/-- LD and ST of the last doubleword of the page of h1; each handle state; misaligned inside the page; one byte outside it. -/
theorem witness_LoadsAndStoresThroughHandles :
    let s := paged [(4, 0xFF8)] page1
    let st (v : Handle) : State := (at0 []).onStrand (fun t => { t with handles := [(1, v)] })
    Reaches s 1 0x7FF8 8 .read (page1, hand1) ∧ Reaches s 1 0x7FF8 8 .write (page1, hand1) ∧ Unshared s false 0x7FF8 0x8000 ∧
    s.eaM 1 3 4 0 = 0x7FF8 ∧ s.eaM 1 3 4 1 = 0x8000 ∧ s.eaM 1 0 4 7 = 0x7FFF ∧ s.eaM 1 0 0 127 = 0x6FFF ∧
    ((at0 []).strand.handle 1).st = .invalid ∧ ((st { st := .failed, failPerm := true }).strand.handle 1).st = .failed ∧
    ((st { st := .pending }).strand.handle 1).st = .pending ∧
    (((st { st := .revoked }).onStrand (fun t => { t with revoke := true })).strand.handle 1).st = .revoked :=
  ⟨⟨by decide, of_okIs (by decide +kernel), by decide, of_okIs (by decide +kernel)⟩,
    ⟨by decide, of_okIs (by decide +kernel), by decide, of_okIs (by decide +kernel)⟩, of_okIs (by decide +kernel),
    by decide +kernel⟩

/-- Ring `r` of core 0 holds one word in its first slot, at granule 0x100, with this mark. -/
def ringed (r : Nat) (mark : Nat) (g : Ring) : State :=
  State.swrite ((at0 []).onMe (fun k => { k with rings := [(r, { g with baseG := 0x100, rtail := 1 })] })) 0 0x2000 (List.replicate 24 0 ++ toBytes 8 mark)

/-- The PF owns cluster 0. -/
def owned (s : State) : State := s.onFn 0 (fun f => { f with part := { f.part with clusters := 1 } })

/-- h15 at the last doubleword of the own scratchpad, at 2^40, at another core, at an offset that Table 10-1 does not list. -/
theorem witness_OnChipLoadsAndStores :
    let s := owned (at0 [])
    s.onChip 0 0 0x1FFFF8 8 true = .ok (0, .scratch 0x1FFFF8) ∧ s.onChip 0 0 0x1FFFF8 8 false = .ok (0, .scratch 0x1FFFF8) ∧
    s.me.fn = 0 ∧ s.me.ctx = 0 ∧ (owned (at0 [(4, 2 ^ 40)])).eaM 15 3 4 0 = 2 ^ 40 ∧ s.admits 0 0 1 = false ∧
    s.admits 0 0 0 = true ∧ placeOf 0x200000 = none :=
  ⟨of_okIs (by decide +kernel), of_okIs (by decide +kernel), by decide +kernel⟩

/-- h15 at the ends of each region: elements of a bank with no pair, scalar registers, handle VAs, ring blocks, MCFG, pipes,
aliases, format entries, shadow doublewords of LNT slots 0, 11 and 12; a pair enabled, a pipe filled, a ring that is not idle. -/
theorem witness_on_chip_places :
    let s := owned ((at0 []).onMe (fun k => { k with pair01 := false, pair23 := false }))
    let r := owned (ringed 5 0 {})
    ([(0x01000000, Place.acc 0 0), (0x010FFFF8, .acc 3 65534), (0x03000000, .reg 0), (0x030001F8, .reg 63), (0x03000400, .hva 0),
      (0x03000470, .hva 14), (0x02000000, .cfg 0), (0x02000158, .cfg 0x158), (0x02000400, .cfg 0x400), (0x02001000, .cfg 0x1000),
      (0x020011F0, .cfg 0x11F0), (0x02003000, .cfg 0x3000), (0x020030F8, .cfg 0x30F8), (0x02002000, .cfg 0x2000), (0x020021F8, .cfg 0x21F8)].all
      (fun e => okIs (s.onChip 0 0 e.1 8 false) (0, e.2))) = true ∧
    ([(0x01000000, Place.acc 0 0), (0x010FFFF4, .acc 3 65533), (0x02000400, .cfg 0x400), (0x02001000, .cfg 0x1000), (0x020011F0, .cfg 0x11F0), (0x02002000, .cfg 0x2000),
      (0x02010200, .cfg 0x10200), (0x02016F08, .cfg 0x16F08), (0x02013200, .cfg 0x13200)].all (fun e => okIs (s.onChip 0 0 e.1 (if e.1 % 8 = 4 then 4 else 8) true) (0, e.2))) = true ∧
    bmem (s.core 0).accLost 3 = false ∧ ((s.core 0).ring 1).rtail = ((s.core 0).ring 1).rkeep ∧ ((s.core 0).pipe 31).fill = 0 ∧
    (owned (at0 [])).me.pair01 = true ∧ (r.core 0).pair23 = true ∧ ((r.core 0).ring 5).idle = false ∧
    ((owned ((at0 []).onMe (fun k => { k with pipes := [(31, { fill := 1 })] }))).me.pipe 31).fill ≠ 0 := by decide +kernel

/-- TRANS with and without an entry of the core TLB. -/
theorem witness_HandleInstructionsSetState :
    let s := (at0 [(4, 0x7123)]).onMe (fun k => { k with tlb := [{ fn := 0, ctx := 0, tr := page1 }] })
    s.me.tlbHit 0 0 0x7123 = some page1 ∧ (at0 [(4, 0x7123)]).me.tlbHit 0 0 0x7123 = none ∧
    ((at0 []).strand.handle 1).st ≠ .valid ∧ (hand1.st = .valid ∧ page1.mtype ≠ .hosts ∧ page1.isWindow = false) := by decide +kernel

/-- PF at a good page, at a HOSTS page, at a line that another strand leases, at a poisoned line, past its page. -/
theorem witness_prefetches :
    let h : Trans := { page1 with mtype := .hosts, keyid := 0xFF }
    let s := paged [] page1
    let leased : State := { s with cores := s.cores ++ [(1, { strand := { lease := some (page1.line 0x7000), leaseEnd := 9 } })] }
    let bad : State := { s.writePa .dev 0x3000 [1] with poison := [(0xC0, 0xC1)] }
    let check (s : State) := s.accessCheckOn 0 (some 0) page1 0x7000 1 false false
    s.handlePage 1 0x7000 .write = .ok (page1, hand1) ∧ leased.handlePage 1 0x7000 .read = .ok (page1, hand1) ∧
    bad.handlePage 1 0x7000 .read = .ok (page1, hand1) ∧ (paged [] h).handlePage 1 0x7000 .read = .ok (h, { hand1 with tr := h }) ∧
    s.handlePage 1 0x8000 .read = .error (.event 7 0x8000) ∧ check s = .ok () ∧ check bad = .error (.integrity 0x3000) ∧
    leased.leasedByOther (some 0) (page1.line 0x7000) = true :=
  ⟨of_okIs (by decide +kernel), of_okIs (by decide +kernel), of_okIs (by decide +kernel), of_okIs (by decide +kernel),
    of_errIs (by decide +kernel), of_okIs (by decide +kernel), of_errIs (by decide +kernel), by decide +kernel⟩

/-- Atomics at a device page, at a scratchpad and at another place of h15, at a HOSTS page; an answer of the host root. -/
theorem witness_AtomicsReturnOldAndStoreNew :
    let h : Trans := { page1 with mtype := .hosts, keyid := 0xFF }
    let r : HostsAtom := { core := 0, addr := 0x3000, va := 0x7000, base := 0x7000, size := 4096, w := 4, op := 0, d := 3, v := 1, cmp := 0 }
    Reaches (paged [] page1) 1 0x7000 8 .atomic (page1, hand1) ∧ Unshared (paged [] page1) false 0x7000 0x7008 ∧
    Reaches (paged [] h) 1 0x7000 4 .atomic (h, { hand1 with tr := h }) ∧
    (owned (at0 [])).onChip 0 0 8 8 true = .ok (0, .scratch 8) ∧
    (owned (at0 [])).onChip 0 0 0x02002008 8 true = .ok (0, .cfg 0x2008) ∧ page1.mtype ≠ .hosts ∧ h.mtype = .hosts ∧
    ({ at0 [] with hostsAtoms := [r] } : State).hostsAtoms.find? (fun x => decide (x.core = 0)) = some r :=
  ⟨⟨by decide, of_okIs (by decide +kernel), by decide, of_okIs (by decide +kernel)⟩, of_okIs (by decide +kernel),
    ⟨by decide, of_okIs (by decide +kernel), by decide, of_okIs (by decide +kernel)⟩, of_okIs (by decide +kernel),
    of_okIs (by decide +kernel), by decide +kernel⟩

/-- LEASE allowed, with a lease that has expired and with no way, on a window page, on an L2ATOM page; h15 at 2^40 and at the scratchpad; FENCE scopes 3, 4 and 5. -/
theorem witness_LeasesAndFencesHoldAndOrder :
    let w : Trans := { page1 with keyid := 127 }
    let l : Trans := { page1 with l2atom := true }
    let no := (at0 []).onFn 0 (fun f => { f with winok := false, sysok := false })
    let s := (paged [] page1).onFn 0 (fun f => { f with part := { f.part with ways := [(0, 1)] } })
    let win : State := { at0 [] with windows := [(63, { owner := 0, home := 0, readers := 0, frame0 := 0, count := 1, sem := 0 })] }
    s.handlePage 1 0x7000 .read = .ok (page1, hand1) ∧
    s.accessCheck 0 (some 0) page1 0x7000 1 false = .ok () ∧
    ({ paged [] w with windows := win.windows } : State).handlePage 1 0x7000 .read = .ok (w, { hand1 with tr := w }) ∧
    (paged [] l).handlePage 1 0x7000 .read = .ok (l, { hand1 with tr := l }) ∧ page1.isWindow = false ∧ page1.l2atom = false ∧
    s.strand.lease = none ∧ (0 ∈ s.waysOf 0 0 ∧ s.occupant (page1.line 0x7000) 0 0 = none ∧ (s.l1Others 0 (page1.line 0x7000)).length < 8) ∧
    (s.onStrand (fun t => { t with lease := some 5 })).strand.leaseEnd ≤ s.cycle ∧
    (((paged [] page1).keepHandle 1 hand1).ownLine 0 0 (some 0) .e page1 0x7000).ownedInL1 0 (page1.line 0x7000) = false ∧ w.isWindow = true ∧ l.isWindow = false ∧ (owned (at0 [])).admits 0 0 0 = true ∧
    (placeOf 0).isSome = true ∧ ((at0 []).fn 0).winok = true ∧ ((at0 []).fn 0).sysok = true ∧ (no.fn 0).winok = false ∧
    (no.fn 0).sysok = false ∧ ((win.window 63).any (fun x => x.participant 0)) = true ∧ (at0 []).window 63 = none :=
  ⟨of_okIs (by decide +kernel), of_okIs (by decide +kernel), of_okIs (by decide +kernel), of_okIs (by decide +kernel),
    by decide +kernel⟩

/-- A semaphore that the strand may name, a planner slot, an ID it may not name; SALIAS binding and unbinding slot 31. -/
theorem witness_SemaphoreInstructionsReadAndWrite :
    let s := at0 [(4, 3)]
    s.semId 0 3 = .ok 3 ∧ s.semId 0 80 = .ok 80 ∧ s.semId 0 0x30000 = .error (.event 2 0x30000) ∧ s.semId 0 0x80000003 = .ok 3 ∧
    plannerSlot 3 = false ∧ plannerSlot 80 = true ∧
    (List.range 6).any (fun r => (s.demandKeep 0).anyRetained 0 r (namesSlot r (96 + 31))) = false ∧
    (0x80000003 : Word).getLsbD 31 = true :=
  ⟨of_okIs (by decide +kernel), of_okIs (by decide +kernel), of_errIs (by decide +kernel), of_okIs (by decide +kernel),
    by decide +kernel⟩

/-- Stage-1 tables at 0x1_0000 (levels 5 to 1) that map these pages of the first 2 MiB, writable and executable. -/
def tables (pages : List (Nat × Nat)) : Memory :=
  pages.foldl (fun m p => mwrite m (0x14000 + p.1 / 512) (toBytes 8 (p.2 + 0xD)))
    ([(0x10000, 0x11001), (0x11000, 0x12001), (0x12000, 0x13001), (0x13000, 0x14001)].foldl (fun m e => mwrite m e.1 (toBytes 8 e.2)) [])

/-- Context 0 translates through `tables`; its wait area is at 0x8000 and its save area at 0x10000. -/
def mapped (s : State) (pages : List (Nat × Nat)) : State :=
  { s with mem := tables pages, ctxs := [(0, { live := true, s1root := 0x10000, waitVa := 0x8000, saveVa := 0x10000 })] }

/-- SWAIT that passes, waits for EQ, passes and waits for GE; SEMAPHORE_WAKE for a matched watcher, a queued strand, a queued
engine and a value that is too small. -/
theorem witness_SemaphoreWaitsPassQueueAndWake :
    let s := { at0 [(4, 3), (5, 2)] with sems := [(3, 2)] }
    let w : SemWaiter := { core := 0, ring := none, key := 3, eq := false, c := 2 }
    let q (w : SemWaiter) : State := { s with semWaiters := [w] }
    s.semId 0 (s.get 4) = .ok 3 ∧ s.pendingOn 0 3 = none ∧ s.sem 3 = (s.get 5).setWidth 32 ∧ s.semQueued 3 = false ∧
    s.sem 3 ≠ 3 ∧ ((s.sem 3).toNat < 3) ∧ (q w).semQueued 3 = true ∧
    (q { w with eq := true, matched := true }).semWaiters.find? (fun w => decide (w.key = 3) && w.eq && w.matched) = some { w with eq := true, matched := true } ∧
    (q w).semWaiters.find? (fun w => decide (w.key = 3) && w.eq && w.matched) = none ∧
    (q w).semWaiters.find? (fun w => decide (w.key = 3) && !w.eq) = some w ∧ w.c.toNat ≤ ((q w).sem 3).toNat ∧
    ((q { w with c := 3 }).sem 3).toNat < 3 ∧
    (q { w with ring := some 5 }).semWaiters.find? (fun w => decide (w.key = 3) && !w.eq) = some { w with ring := some 5 } ∧
    ((ringed 5 0 { wait := .await }).me.ring 5).wait = .await :=
  ⟨of_okIs (by decide +kernel), by decide +kernel⟩

/-- A queue word at the page of h1 and records at 0x8000: an empty queue, one waiter, a woken record. -/
def queued (recs : List (Nat × Nat)) (q : Nat) : State :=
  let s := mapped (paged [(5, 1)] page1) [(0x8000, 0x4000)]
  { s with mem := recs.foldl (fun m e => mwrite m (0x4000 + 16 * e.1) (toBytes 2 e.2)) (mwrite s.mem 0x3000 (toBytes 8 q)) }

/-- A queue word with the wait record 0 at its head, and core 1 suspended on it. -/
def sleeping : State :=
  let s := queued [(0, 0x4000)] (1 + 2 ^ 13 + 2 ^ 26)
  { s with cores := s.cores ++ [(1, { resident := true, strand := { status := .waitQueue 0 7 } })] }

/-- WAITQ without a wait area, into an empty queue, behind a waiter, woken and not; WAKE of none and of one, suspended and not
resident; BAR in a gang of one and of two. -/
theorem witness_RecordsAndBarriersSuspendAndWake :
    (paged [] page1).queuePage 1 0x7000 = .ok (page1, hand1) ∧ (queued [] 0).queuePage 1 0x7000 = .ok (page1, hand1) ∧
    (queued [] 0).freeRecord 0 4096 = .ok (some 0) ∧
    (∃ u, (queued [] 0).setWaitRecord 0 0 false true = .ok u ∧ okIs (u.accessCheck u.me.fn (some u.actor.core) page1 0x7000 8 true) () = true) ∧
    (let s := queued [(0, 0x4000)] (1 + 2 ^ 13 + 2 ^ 26)
     let q := ofBytes (s.readVia page1 0x7000 8)
     s.freeRecord 0 4096 = .ok (some 1) ∧ s.waitRecord 0 = .ok 0x4000 ∧
     (∃ u, s.setWaitRecord 1 0 false true = .ok u ∧ (okIs (u.waitRecord 0) 0x4000 &&
       okAnd (u.setWaitRecord 0 2 false true) (fun w => okIs (w.accessCheck w.me.fn (some w.actor.core) page1 0x7000 8 true) ())) = true) ∧
     (∃ r, s.wakeFirst q 1 = .ok r ∧ (decide (qCount r.2 = 0) && okIs (r.1.accessCheck 0 (some 0) page1 0x7000 8 true) ()) = true) ∧
     (∃ u, s.setWaitRecord 0 0 true true = .ok u ∧ okIs (u.accessCheck u.me.fn (some u.actor.core) page1 0x7000 8 true) () = true) ∧
     (∃ u, sleeping.setWaitRecord 0 0 false false = .ok u ∧
       okIs ((u.onStrandOf 1 (fun t => (t.set 7 0).retired)).accessCheck 0 (some 0) page1 0x7000 8 true) () = true) ∧
     sleeping.waitRecord 0 = .ok 0x4000 ∧ sleeping.queuePage 1 0x7000 = .ok (page1, hand1) ∧
     sleeping.sleeper 0 = some (1, 7) ∧ s.sleeper 0 = none ∧ qHead q - 1 = 0 ∧
     qCount q ≠ 0 ∧ qTail q - 1 = 0 ∧ 0x4000 / 2 ^ 13 % 2 = 0 ∧ min (s.get 5).toNat (qCount q) ≠ 0) ∧
    ((queued [(0, 0x6000)] 0).waitRecord 0 = .ok 0x6000 ∧ 0x6000 / 2 ^ 13 % 2 = 1 ∧ okAnd ((queued [(0, 0x6000)] 0).setWaitRecord 0 0 false false) (fun _ => true) = true) ∧ ((paged [] page1).ctx 0).waitVa = 0 ∧
    ((queued [] 0).ctx 0).waitVa ≠ 0 ∧ qCount (ofBytes ((queued [] 0).readVia page1 0x7000 8)) = 0 ∧ (at0 []).gangCores 0 = [0] :=
  ⟨of_okIs (by decide +kernel), of_okIs (by decide +kernel), of_okIs (by decide +kernel), of_okAnd (by decide +kernel),
    ⟨of_okIs (by decide +kernel), of_okIs (by decide +kernel), of_okAnd (by decide +kernel), of_okAnd (by decide +kernel),
      of_okAnd (by decide +kernel), of_okAnd (by decide +kernel), of_okIs (by decide +kernel), of_okIs (by decide +kernel), by decide +kernel⟩,
    ⟨of_okIs (by decide +kernel), by decide +kernel⟩, by decide +kernel⟩

/-- EXIT with flags to write to a mapped save area; a pause over, a latch set, a WFE with its limit; LIVE at the last granules
of the scratchpad and past them, misaligned, with a good and a bad descriptor. -/
theorem witness_StrandsEndIdleAndReachSavePoints :
    let s := (mapped (at0 []) [(0x10000, 0x5000)]).onStrand (fun t => { t with flags := 1 })
    let st (x : Status) : State := (at0 []).onStrand (fun t => { t with status := x, latch := 2 })
    let u := (s.abandonWalks 0).onStrand (fun t => { t with lease := none, loops := [], status := .exited, stalled := false })
    (∃ p, walk u 0 0 0x10000 .write = .ok p ∧ decide (p.pa = 0x5000) = true) ∧
    (∃ old, u.peek 0 0 0x10000 8 = .ok old ∧ decide (ofBytes old = 0) = true) ∧
    (∃ w, u.poke 0 0 0x10000 (toBytes 8 1) = .ok w ∧ w.isSome = true) ∧ s.strand.flags ≠ 0 ∧ (at0 []).strand.flags = 0 ∧
    (upto 6).all (fun r => !(s.me.ring r).pendx) = true ∧ (st .paused).strand.status = .paused ∧
    (st (.wfe 3 true)).strand.status = .wfe 3 true ∧ (st .running).strand.latch ≠ 0 ∧ (at0 []).strand.latch = 0 ∧
    liveBad (BitVec.ofNat 768 (((at0 []).swrite 0 0x1FFFA0 (List.replicate 96 0)).sval 0 0x1FFFA0 96)) = false ∧
    0x1FFFA0 + 96 ≤ 0x200000 ∧
    liveBad (BitVec.ofNat 768 (((at0 []).swrite 0 0 (List.replicate 19 0 ++ [9] ++ List.replicate 76 0)).sval 0 0 96)) = true :=
  ⟨of_okAnd (by decide +kernel), of_okAnd (by decide +kernel), of_okAnd (by decide +kernel), by decide +kernel⟩

/-- Rings with room and full; N of 16 and of 512. -/
theorem witness_RingsTakeAndReportWords :
    let f := (at0 []).onMe (fun k => { k with rings := [(0, { rtail := 1 }), (1, { rtail := 1 }), (5, { rtail := 1 })] })
    let m := (at0 []).onMe (fun k => { k with pair01 := false, pair23 := false, rings := [(1, { rtail := 1, rhead := 1, next := 1, rcmt := 1 })] })
    (at0 []).enqGate 0 0 = .ok () ∧ ((at0 []).me.ring 0).full = false ∧ ((at0 []).me.ring 5).full = false ∧
    (f.me.ring 0).full = true ∧ (f.me.ring 5).full = true ∧ (f.me.ring 1).full = true ∧ ((f.demandKeep 0).me.ring 1).full = true ∧
    (m.me.ring 1).full = true ∧ ((m.demandKeep 0).me.ring 1).full = false ∧ f.enqGate 0 0 = .ok () ∧ ((at0 []).me.ring 1).pendx = false :=
  ⟨of_okIs (by decide +kernel), by decide +kernel, by decide +kernel, by decide +kernel, by decide +kernel, by decide +kernel, by decide +kernel,
    by decide +kernel, by decide +kernel, of_okIs (by decide +kernel), by decide +kernel⟩

/-- PDEF of pipe 31 and of a pipe that is not empty; PADV of a filled pipe of the strand; LNT slots 1 and 11; FMTW. -/
theorem witness_PipesAndTablesAreWritten :
    let s := (at0 []).onMe (fun k => { k with pipes := [(30, { slotG := 1, fill := 1 }), (31, { slotG := 1 })] })
    s.pipeNamed 0 31 = false ∧ s.pipeNamed 0 30 = false ∧ (s.demandKeep 0).pipeNamed 0 31 = false ∧ (s.me.pipe 31).fill = 0 ∧ (s.demandKeep 0).pipeNamed 0 30 = false ∧
    (s.me.pipe 30).fill ≠ 0 ∧ (s.me.pipe 30).slotG ≠ 0 ∧ (s.me.pipe 30).cons = 0 ∧ (s.me.pipe 31).cons = 0 ∧ (s.me.pipe 0).slotG = 0 ∧
    (at0 []).anyRetained 0 1 (lntNames true 11) = false ∧ ((at0 []).demandKeep 0).anyRetained 0 1 (lntNames true 11) = false ∧ (at0 []).anyRetained 0 0 (lntNames false 1) = false ∧
    (((at0 []).demandKeep 0).anyRetained 0 0 (tableFmt 0) || ((at0 []).demandKeep 0).anyRetained 0 1 (tableFmt 1)) = false := by
  decide +kernel

/-- Two cores of a gang whose node has one level of 10 in chunks of 4, STEAL or STATIC. -/
def ganged (kind lo hi u : Nat) : State :=
  let n : TaskNode := { fn := 0, q := 0, idx := 0, launch := { nlev := 1, levels := [(10, kind, 4)] }, remaining := 0, phase := .ready }
  let g : Gang := { id := 1, fn := 0, ctx := 0, q := 0, idx := 0, inst := 0, die := 0, shape := 1, cores := [0, 1], u := u }
  let k (r lo hi : Nat) (t : Strand) : Core := { resident := true, gang := 1, rank := r, strand := { t with ownLo := lo, ownHi := hi } }
  { State.reset with nodes := [n], gangs := [g], nextGang := 2
                     cores := [(0, k 0 lo hi { status := .running }), (1, k 1 0 2 { status := .stealing 0 })] }

/-- TAKE at another kind of level, with a chunk left, with an empty range and no work left, and with work left elsewhere; a
steal request to a range of 2 and of 1; an answer with a range and an empty one. -/
theorem witness_RangesAreTakenAndStolen :
    (ganged 0 0 4 5).levelOf 0 0 = some (10, 0, 4) ∧ (ganged 3 0 4 5).levelOf 0 0 = some (10, 3, 4) ∧ (ganged 3 0 4 5).strand.ownLo = 0 ∧
    (ganged 3 0 4 5).strand.ownHi = 4 ∧ (ganged 3 4 4 0).gangU 0 = 0 ∧ (ganged 3 4 4 5).gangU 0 = 5 ∧
    ((ganged 3 4 4 5).gangCores 0).length = 2 ∧ ((ganged 3 0 2 5).core 1).strand.status = .stealing 0 ∧
    ((ganged 3 0 2 5).gangCores 1)[0]? = some 0 ∧ ((ganged 3 0 2 5).core 1).strand.reply = none ∧
    (((ganged 3 0 2 5).onStrandOf 1 (fun t => { t with reply := some (0, 1) })).core 1).strand.reply = some (0, 1) ∧
    (((ganged 3 0 2 5).onStrandOf 1 (fun t => { t with reply := some (0, 0) })).core 1).strand.reply = some (0, 0) := by decide +kernel

theorem of_snd {α β : Type} {r : α × Option β} (h : r.2.isNone = true) : ∃ v, r = (v, none) := by
  obtain ⟨v, x⟩ := r
  cases x with
  | none => exact ⟨v, rfl⟩
  | some _ => simp at h

theorem of_full {α : Type} {e : Chk α} (h : (match e with | .error (.event 0x0C _) => true | _ => false) = true) :
    ∃ x, e = .error (.event 0x0C x) := by
  split at h
  · exact ⟨_, rfl⟩
  · simp at h

/-- A tile descriptor: base, format code, extents. -/
def desc (base : Nat) (fmt : Byte) (rank : Byte) (ext : List Nat) (str : List Nat) (sc : Byte) : List Byte :=
  toBytes 8 base ++ [fmt, rank, sc, 0, 0, 0, 0, 0] ++ ext.flatMap (toBytes 4) ++ str.flatMap (toBytes 4) ++ List.replicate 20 0

/-- Two named 16 by 16 leaves in FP8 and FP32 and a scalar; their names are tile registers 9, 10 and 11. -/
def tiled (fmt : BitVec 6) (sc : Option (Nat × Int)) : State :=
  let leaf : Node := { kind := .tlds, fmt := fmt, rank := 2, ext := [16, 16, 1, 1], names := 1
                       body := .leaf 0x1000 0x1400 0x1000 [4, 64, 0, 0] sc }
  let fill : Node := { kind := .tfill, fmt := 0, rank := 1, ext := [1, 1, 1, 1], names := 1, body := .fill 0x3F800000 }
  ((at0 []).onStrand (fun t => { t with tiles := [(9, 0), (10, 1), (11, 2)] })).onMe (fun k => { k with
    thunks := { nodes := [(0, leaf), (1, { leaf with cseq := 1 }), (2, { fill with cseq := 2 })], cseq := 3, arenaFirst := 1024, arenaCount := 64 } })

/-- A good descriptor in scratch and in the VA space, a bad one, a misaligned address; TFILL's formats; TMM and TMMS; the shapes of
elementwise nodes. -/
theorem witness_TileOperationsAppendNodes :
    let d := TileDesc.of (desc 0x8000 0 2 [16, 16, 1, 1] [64, 0, 0] 0)
    let iv := d.intervals 0
    let s := mapped (at0 []) [(0x8000, 0x3000)]
    let t := tiled 2 (some (0x2000, 16))
    d.place (.tlds 9 4) true 0 = .ok () ∧ d.place (.tld 9 4) false 0 = .ok () ∧ d.bad = false ∧ nodeFmt 0 = true ∧
    (iv.all (fun r => okIs (s.walkPages r.2.toNat ((r.2 - r.1).toNat / 4096 + 2) r.1.toNat) ())) = true ∧
    (TileDesc.of (desc 0 0 5 [1, 1, 1, 1] [0, 0, 0] 0)).bad = true ∧ (fmtOf 0).isSome = true ∧ nodeFmt 5 = true ∧
    nodeFmt 0x3E = false ∧ t.strand.tile 9 = some 0 ∧ t.strand.tile 10 = some 1 ∧ t.strand.tile 12 = none ∧ matFmt 2 = true ∧
    (t.me.thunks.node 0).scalar = false ∧ (t.me.thunks.node 0).extents = [16, 16, 1, 1] ∧
    ((t.me.thunks.node 0).roleScales true).isSome = true ∧ ((t.me.thunks.node 1).roleScales false).isSome = true ∧
    ((tiled 2 none).me.thunks.node 0).roleScales true = none ∧
    (t.me.thunks.node 2).extents.getD 1 1 ≠ (t.me.thunks.node 0).extents.getD 0 1 ∧ okIs (t.nodeGate 0) 3 = true ∧
    okAnd (elementwiseShape (.tewAdd 12 9 10) [t.me.thunks.node 0, t.me.thunks.node 1] [t.me.thunks.node 0, t.me.thunks.node 1] [7]) (fun n => decide (n.fmt = 2)) = true ∧
    okAnd (elementwiseShape (.tunExp 12 9) [t.me.thunks.node 0] [t.me.thunks.node 0] [3, 4, 7]) (fun n => decide (n.fmt = 2)) = true ∧
    okAnd (elementwiseShape (.tsel 11 9 10) [t.me.thunks.node 2, t.me.thunks.node 0, t.me.thunks.node 1] [t.me.thunks.node 0, t.me.thunks.node 1] [7]) (fun n => decide (n.fmt = 2)) = true :=
  ⟨of_okIs (by decide +kernel), of_okIs (by decide +kernel), by decide +kernel⟩

/-- TRED of a tile, of a scalar and of an I32 tile; TQRY of a node with an arena block; TARENA to the end of the scratchpad, past
it, and with a persistent block. -/
theorem witness_TileReductionsMapsAndNames :
    let t := tiled 2 none
    let p := t.onMe (fun k => { k with thunks := { k.thunks with persist := [(1024, 1)] } })
    let a := t.onMe (fun k => { k with thunks := { k.thunks with nodes := [(0, { kind := .mat, arena := some 7 })] } })
    (t.me.thunks.node 0).scalar = false ∧ (t.me.thunks.node 0).fmt = 2 ∧ (t.me.thunks.node 2).scalar = true ∧
    ((tiled 4 none).me.thunks.node 0).fmt = 4 ∧ (a.me.thunks.node 0).arena = some 7 ∧ (t.me.thunks.node 0).arena = none ∧
    t.me.thunks.plans = [] ∧ t.me.thunks.persist = [] ∧ p.me.thunks.plans = [] ∧ p.me.thunks.persist ≠ [] ∧ 65535 + 1 ≤ 65536 ∧
    0x1FFFB0 % 16 = 0 ∧ 0x1FFFB0 + 80 ≤ 0x200000 := by decide +kernel

/-- A demand record in scratch for FORCE: the whole box, no semaphore, its kind and its descriptor. -/
def demanding (kind : Byte) (d : List Byte) : State :=
  (tiled 0 none).swrite 0 0 ([0, 16, 0, 16, 0, 1, 0, 1].flatMap (toBytes 4) ++ [0, kind] ++ List.replicate 30 0 ++ d)

/-- TSTORE.SP and FORCE whose plans fit, and TSTORE with an arena that holds nothing; a plan with a word to write, with none, and with
none of its words in flight. -/
theorem witness_DemandsPlanAndReturn :
    let d := desc 0x8000 0 2 [16, 16, 1, 1] [64, 0, 0] 0
    let s := (tiled 0 none).swrite 0 0 d
    let n := s.me.thunks.node 0
    let big := (s.onMe (fun k => { k with thunks := { k.thunks with arenaCount := 0, nodes := k.thunks.nodes ++ [(3,
      { kind := .tred, sub := 0, fmt := 0, rank := 2, ext := [1, 16, 1, 1], opnd := [0], names := 1 }), (4,
      { kind := .tred, sub := 1, fmt := 0, rank := 2, ext := [1, 1, 1, 1], opnd := [3], names := 1 })] } }))
    let f := demanding 2 d
    let w (q : List QueuedWord) (p : List Plan) : State := ((at0 []).onStrand (fun t => { t with status := .waitPlan 5 })).onMe (fun k => { k with
      rings := [(0, { rtail := 1 })], thunks := { queue := q, plans := p } })
    okAnd (s.destination (.tstore true 9 4) n (TileDesc.of d) true) (fun l =>
      okAnd (s.demand 0 { node := 0, box := n.whole, dest := .place l.1, pc := s.strand.pc }) (fun r => decide (r.2 = 0))) = true ∧
    Unshared s true 0x8000 0x8400 ∧
    okAnd (f.destination (.force false 9 4) n (TileDesc.of d) true) (fun l =>
      okAnd (f.demand 0 { node := 0, box := n.whole, dest := .place l.1, pc := s.strand.pc }) (fun r => decide (r.2 = 0))) = true ∧
    okAnd ((demanding 0 (List.replicate 64 0)).demand 0 { node := 0, box := n.whole, dest := .arena, pc := s.strand.pc }) (fun r => decide (r.2 = 0)) = true ∧
    f.pendingPlanned 0 (fun _ => true) = none ∧
    (∃ x, big.demand 0 { node := 4, box := (big.me.thunks.node 4).whole, dest := .place { base := 0x10000, str := [8, 8, 8, 8] }, pc := s.strand.pc } = .error (.event 0x0C x)) ∧
    ((((w [{ ring := 0, word := 0, plan := 5 }] [{ id := 5 }]).pump 0).thunks 0).queue.any (fun q => decide (q.plan = 5))) = true ∧
    (((w [] [{ id := 5 }]).pump 0).thunks 0).queue = [] ∧ (((w [] []).pump 0).thunks 0).plans = [] ∧
    ((w [] []).pump 0).pendingPlanned 0 (fun w => decide (w.plan = 5)) = none := by
  exact ⟨by decide +kernel, of_okIs (by decide +kernel), by decide +kernel, by decide +kernel, by decide +kernel,
    of_full (by decide +kernel), by decide +kernel, by decide +kernel, by decide +kernel, by decide +kernel⟩

/-- A word that awaits nothing begins on an idle engine. -/
theorem begins_idle {s : State} {c r : Nat} {rs : BitVec 10} (h : (!((s.core c).ring r).pendx &&
      decide (((s.core c).ring r).flight.length < 4) && decide (((s.core c).ring r).wait = .none) &&
      decide (s.semFault c r ((s.core c).ring r).next 0 (if markDone (s.mark c r ((s.core c).ring r).next) then 0 else rs) = none)) = true) : Begins s s c r none 0 rs := by
  simp only [Bool.and_eq_true, Bool.not_eq_true', decide_eq_true_eq] at h
  obtain ⟨⟨⟨a, b⟩, w⟩, f⟩ := h
  exact ⟨.inl a, b, by simp [w], by simp [w], rfl, by rw [ite_self]; exact f, .inl ⟨.inr (.inr (by decide)), rfl⟩⟩

/-- A word whose await finds its count begins after the subtraction, and one whose await has passed begins again. -/
theorem witness_begins :
    let s := { ringed 0 0 {} with sems := [(5, 2)] }
    let aw : BitVec 10 := 2 + 8 * 5
    (∃ u, Begins s u 0 0 none aw 0) ∧ Begins (ringed 0 (2 ^ 62) {}) (ringed 0 (2 ^ 62) {}) 0 0 none aw 0 :=
  ⟨⟨_, .inl (by decide +kernel), by decide +kernel, by decide +kernel, by decide +kernel, rfl, by decide +kernel,
      .inr ⟨by decide +kernel, by decide +kernel, 5, by decide +kernel, by decide +kernel, by decide +kernel, by decide +kernel, rfl⟩⟩,
    .inl (by decide +kernel), by decide +kernel, by decide +kernel, by decide +kernel, rfl, by decide +kernel, .inl ⟨.inl (by decide +kernel), rfl⟩⟩

/-- A failing check, an await that must queue, an exception pending, four words unconfirmed; a confirmation with a push and with a
pop; MNOP and MCMT at RHEAD, and MCMT behind an unconfirmed word. -/
theorem witness_EngineWordsCheckAwaitAndConfirm :
    let s := ringed 0 0 {}
    let m := ringed 1 0 {}
    let f : Flight := { seq := 0, raise := 1 + 8 * 5, moves := [.push 3 1] }
    let p := ((ringed 0 0 { next := 1, flight := [f] }).onMe (fun k => { k with pipes := [(3, { slotG := 1, prod := 1, fill := 0 })] }))
    vecCheck 2 { rsv := 1 } s.me = some 0x25 ∧ s.strand.status ≠ .exited ∧ s.strand.status = .running ∧
    markAwt (s.mark 0 0 0) = false ∧ markDone (s.mark 0 0 0) = false ∧ s.semFault 0 0 0 (1 + 8 * 5) 0 = none ∧
    s.slotSem 0 (semSlot (1 + 8 * 5)) = some 5 ∧ (s.sem 5).toNat < semCount (1 + 8 * 5) ∧ vecCheck 2 {} s.me = none ∧
    matCheck 6 {} m.me = none ∧ matCheck 5 {} m.me = none ∧ matCheck 1 { flags := 32 } m.me = some 0x25 ∧
    (p.me.ring 0).flight = [f] ∧ f.seq = (p.me.ring 0).rhead ∧ f.seq + 1 = (p.me.ring 0).next ∧
    seqDist (p.me.ring 0).rhead (p.me.ring 0).rtail ≠ 0 ∧ p.me.thunks.words = [] ∧ p.me.thunks.queue = [] ∧
    (m.me.ring 1).flight = [] ∧ (m.me.ring 1).next = (m.me.ring 1).rhead ∧ (m.me.ring 1).rtail = (m.me.ring 1).next + 1 ∧
    (m.me.ring 1).belowRcmt 0 = false ∧ (m.me.ring 1).pendx = false := by decide +kernel

/-- Two words unconfirmed; a planned word that is no join, and one that is; a matrix word that has written bank 0 of an enabled pair
and raises; a matrix word before an MCMT. -/
theorem witness_confirmations :
    let fs : List Flight := [{ seq := 0, raise := 1 + 8 * 5, flags := 1, moves := [.pop 3 1] }, { seq := 1 }]
    let two (r n : Nat) (fs : List Flight) (t : Thunks) : State := ((at0 []).swrite 0 0x2038 (toBytes 8 0)).onMe (fun k => { k with
      thunks := t, rings := [(r, { baseG := 0x100, log2n := 4, rtail := BitVec.ofNat 32 n, next := BitVec.ofNat 32 fs.length, flight := fs })] })
    let word (j : Bool) : PlannedWord := { ring := 0, seq := 0, node := 0, demandPc := 0, creatorPc := 0, plan := 3, join := j }
    let plan : Plan := { id := 3, nodes := [0] }
    let th (j : Bool) : Thunks := { (tiled 0 none).me.thunks with words := [word j], plans := [plan] }
    let m := two 1 1 [{ seq := 0, bank := some 0, raise := 1 + 8 * 5 }] {}
    let c := (two 1 2 [{ seq := 0, bank := some 0 }] {}).swrite 0 0x2020 (toBytes 24 (5 * 2 ^ 184))
    (([two 0 2 fs {}, m, c, two 0 1 [{ seq := 0, flags := 1 }] (th true)].zip [0, 1, 1, 0]).all (fun e =>
      let g := e.1.me.ring e.2
      decide (g.rhead = 0 ∧ g.rhead ≠ g.next ∧ g.rhead ≠ g.rtail ∧ 4 ≤ g.log2n.toNat) && decide (e.1.me.thunks.queue = []) &&
        (decide (g.rhead + 1 = g.next ∨ g.rhead + 1 = g.rtail) || !markDone (e.1.mark 0 e.2 (g.rhead + 1))))) = true ∧
    (two 0 2 fs {}).me.thunks.plannedWord 0 0 = none ∧ (two 0 2 fs {}).me.strand.status = .running ∧
    (th false).plannedWord 0 0 = some (word false) ∧ (th true).plannedWord 0 0 = some (word true) ∧
    (th true).plans.find? (fun x => decide (x.id = (word true).plan)) = some plan ∧ ((th true).node 0).names ≠ 0 ∧
    m.me.paired 0 = true ∧ (m.me.ring 1).next = (m.me.ring 1).rtail ∧ (two 1 2 fs {}).me.paired 3 = true ∧
    bareCommit (c.slotWord 0 1 1) = true ∧ (c.me.ring 1).belowRcmt 1 = false ∧ semCount (awaitOf 1 (c.slotWord 0 1 1)) = 0 ∧
    (c.me.ring 1).pendx = false ∧ (c.me.ring 1).next ≠ (c.me.ring 1).rtail := by decide +kernel

theorem witness_matrix_begins : Begins (ringed 1 0 {}) (ringed 1 0 {}) 0 1 (matCheck 5 {} (ringed 1 0 {}).me) 0 0 := by
  have h : matCheck 5 {} (ringed 1 0 {}).me = none := by decide +kernel
  rw [h]
  exact begins_idle (by decide +kernel)

/-- An idle vector engine with an empty hash table of 64 slots at 0x8000. -/
def emptyTable : State := (ringed 0 0 {}).onMe (fun x => { x with
  scratch := x.scratch ++ (upto 256).map (fun i => (0x8000 + 8 * (i / 4) + i % 4, 0xFF)) })

/-- An idle vector engine with 128 keys of padding at 0x8000, and with 1 for the first of them. -/
@[irreducible] def padded : State := (ringed 0 0 {}).swrite 0 0x8000 (List.replicate 512 0xFF)
@[irreducible] def oneKey : State := padded.swrite 0 0x8000 [1, 0, 0, 0]

theorem padded_byte (i : Nat) (h : i < 512) : padded.sbyte 0 (0x8000 + i) = 0xFF := by
  unfold padded
  rw [State.sbyte_swrite_inside _ _ _ _ _ (by rw [List.length_replicate]; exact h) (by rw [List.length_replicate]; decide),
    List.getElem_replicate]

theorem padded_key (e : Nat) (h : e < 128) : padded.sval 0 (0x8000 + 4 * e) 4 = 0xFFFFFFFF := by
  simp only [State.sval, State.sread, show upto 4 = [0, 1, 2, 3] from rfl, List.map, Nat.add_assoc]
  rw [padded_byte _ (by omega), padded_byte _ (by omega), padded_byte _ (by omega), padded_byte _ (by omega)]
  rfl

theorem oneKey_key (e : Nat) (h : e < 128) (n : e ≠ 0) : oneKey.sval 0 (0x8000 + 4 * e) 4 = 0xFFFFFFFF := by
  refine Eq.trans ?_ (padded_key e h)
  simp only [State.sval, State.sread]
  congr 1
  refine List.map_congr_left (fun i m => ?_)
  have b : i < 4 := by simpa [upto] using m
  unfold oneKey
  exact State.sbyte_swrite_outside _ _ _ _ _ (.inr (by simp; omega)) (by omega) (by decide) (by decide)

theorem sval_swrite (s : State) (c a v : Nat) (e : a + 4 ≤ 0x200000) : (s.swrite c a (toBytes 4 v)).sval c a 4 = v % 2 ^ 32 := by
  have h := State.sread_swrite s c a (toBytes 4 v) (by rw [toBytes_length]; exact e)
  rw [toBytes_length] at h
  have k : (s.swrite c a (toBytes 4 v)).sval c a 4 = v % 256 ^ 4 := by rw [State.sval, h, ofBytes_toBytes]
  exact k

/-- A vector word of one element on an idle engine runs without an error, over bytes that an unconfirmed word reads and not; one
whose first stream is misaligned ends with its XCODE; one of two outermost iterations before its start, held or not, and
at each of its parts; VHDRN of an aligned and of a misaligned table; VADV with its pipe filled and empty. -/
theorem witness_VectorWordsRunTheirNest :
    let w : VWord := { dst := 0x2000, a := 0x100, b := 0x200, lnt := 1 }
    let one := lntZero ||| BitVec.ofNat 2176 (2 ^ 1908)
    let s := (ringed 0 0 {}).onMe (fun k => { k with lntActive := [(1, one)] })
    let img := s.me.lntImage 0 1
    let two := one ^^^ BitVec.ofNat 2176 (3 * 2 ^ 256)
    let s2 := s.onMe (fun k => { k with lntActive := [(1, two)] })
    let x : VRun := { c := 0, seq := 0, seed := 1, vop := 0x13, w := w, img := img }
    let x2 : VRun := { c := 0, seq := 0, seed := 1, vop := 0x13, w := w, img := s2.me.lntImage 0 1 }
    let h : VRun := { c := 0, seq := 0, seed := 1, vop := 0x20, w := { w with a := 0x400, b := 0, lnt := 0 }, img := lntZero }
    let t := x.nest 1 0 { s := s }
    let whole := x2.spans (x2.outer s2 0 2) .f32
    let q (n : Nat) := s.onMe (fun k => { k with pipes := [(3, { slotG := 1, cons := 1, fill := n })] })
    vecCheck 0x13 w s.me = none ∧ x.pipes s = (.slot 0, .slot 0, .slot 0) ∧ nestSize img = 1 ∧ t.err = none ∧
    spansMeet (granules t.writes) (granules []) = false ∧ spansMeet (granules t.writes) (granules [(0x40000, 0x40010)]) = true ∧
    vlOf img = 1 ∧ ({ x with img := one ||| 1 }.nest 1 0 { s := s }).err = some 0x26 ∧
    vecCheck 0x13 w s2.me = none ∧ x2.pipes s2 = (.slot 0, .slot 0, .slot 0) ∧ levelCount x2.img 0 = 2 ∧
    (s2.me.ring 0).begun = false ∧ (s2.me.ring 0).holds whole = false ∧
    ({ flight := [{ seq := 9, reads := [(0x40000, 0x40010)] }] } : Ring).holds whole = true ∧
    (x2.outer s2 0 1).err = none ∧ (x2.outer s2 1 1).err = none ∧
    vecCheck 0x20 h.w emptyTable.me = none ∧ (h.drainHash { s := emptyTable } .f32).err = none ∧
    ({ h with img := lntZero ||| 1 }.drainHash { s := s } .f32).err = some 0x26 ∧
    vecCheck 0x22 { a := 0x10003 } s.me = none ∧ vecCheck 0x23 {} s.me = none ∧
    ((ringed 0 2 {}).me.ring 0).next = 0 ∧ min (markProg ((ringed 0 2 {}).mark 0 0 0)) (levelCount x2.img 0) = 2 ∧
    ({ x with w := { w with dst := 0x10003 } }.pipes (q 0)).1 = .misuse ∧
    ({ x with w := { w with a := 0x10003, fmt := 0, lnt := 0 }, img := lntZero }.pipes
      (s.onMe (fun k => { k with pipes := [(3, { slotG := 16, cons := 1, fill := 0 })] }))).2.1 = .wait ((({ slotG := 16 } : Pipe)).slotAt 0) ∧
    (q 1).vecAdvance 0 { a := 0x10003 } = some [.pop 3 1] ∧ (q 0).vecAdvance 0 { a := 0x10003 } = none := by decide +kernel

/-- The engine idle at every operand; a table of padding, a key whose home slot holds it, and one whose home slot is empty;
the last row of the last bank. -/
theorem witness_VectorElementsTakeTheirValue : Begins (ringed 0 0 {}) (ringed 0 0 {}) 0 0 none 0 0 ∧
    ((ringed 0 0 {}).me.ring 0).jobs = [] ∧ (∀ e, e < 128 → padded.sval 0 (0x8000 + 4 * e) 4 = 0xFFFFFFFF) ∧
    (∀ e, e < 128 → e ≠ 0 → oneKey.sval 0 (0x8000 + 4 * e) 4 = 0xFFFFFFFF) ∧ oneKey.sval 0 0x8000 4 = 1 ∧
    (oneKey.swrite 0 0x10008 (toBytes 4 1)).sval 0 0x10008 4 = 1 ∧
    (oneKey.swrite 0 0x10008 (toBytes 4 0xFFFFFFFF)).sval 0 0x10008 4 = 0xFFFFFFFF ∧
    (((ringed 0 0 {}).me.ring 0).flight = [] ∧ (0xFFFF : BitVec 18).toNat < 65536 ∧ (1 ^^^ 1 / 2 ^ 13) % 2 ^ (6 + 7) = 1 ∧
      (ringed 0 0 {}).me.thunks.plannedWord 0 0 = none ∧ (0x201FF : BitVec 18).toNat = 0x20000 + 128 * 3 + 127) :=
  ⟨begins_idle (by decide +kernel), by decide +kernel, padded_key, oneKey_key, by unfold oneKey; exact sval_swrite _ _ _ 1 (by decide),
    sval_swrite _ _ _ _ (by decide), sval_swrite _ _ _ _ (by decide), by decide +kernel⟩

/-- An idle matrix engine whose nest slot 1 limits a step to one row and one column, and eight bytes at 0xA000. -/
def oneRow (b : Byte) : State := ((ringed 1 0 {}).onMe (fun k => { k with
  lntActive := [(17, lntZero ||| BitVec.ofNat 2176 (257 * 2 ^ 224))] })).swrite 0 0xA000 (List.replicate 8 b)

/-- MMA in BF16 with 16 columns and the largest scratch operand; MMAS; a step refused; steps that load their rows, with good and
with bad metadata; MZERO of a bank that no pair protects and of one that a pair does. -/
theorem witness_MatrixWordsUpdateTheirBank :
    let w : MWord := { fmtA := 1, fmtB := 1, n16 := 1, flags := 0x0C, ava := 0x1000, bva := 0x1FFFFE }
    let v : MWord := { fmtA := 1, fmtB := 1, n16 := 1, flags := 0x0C, lnt := 1, aux := 1, ava := 0x8000, bva := 0x9000 }
    let s := ringed 1 0 {}
    let img := lntZero
    let u0 (b : Byte) := (((oneRow b).takeBank 0 0 0).onRing 0 1 (fun g => { g with facc := 0, rows := [] })).onCore 0 (fun k => { k with rowprog := 0 })
    let steps (mop : Nat) (b : Byte) (bad : Bool) : Prop := ∃ m, matStep (oneRow b).me 0 mop (if mop = 3 then { v with flags := 0x1C } else v) ((oneRow b).me.lntImage 1 1) 0 = .ok m ∧
      ((m.load 192 (u0 b) []).2.2.isNone && m.badMeta (m.load 192 (u0 b) []).2.1 == bad) = true
    Begins s s 0 1 none 0 0 ∧ Begins (oneRow 0) (oneRow 0) 0 1 none 0 0 ∧ steps 1 0 false ∧ steps 2 0 false ∧ steps 3 0x44 false ∧
    steps 3 0 true ∧ (∃ e, matStep s.me 0 1 { w with ava := 0x1001 } img 0 = .error e) ∧
    matCheck 1 w s.me = none ∧ matCheck 2 { v with scale := 3 } (oneRow 0).me = none ∧ matCheck 3 { v with flags := 0x1C } (oneRow 0).me = none ∧
    (s.me.ring 1).commitDue s.me = false ∧ (s.me.ring 1).begun = false ∧ s.matStart 0 w = some 0 ∧ nestSize img = 1 ∧
    (∀ l, l < 6 → cmtInt img l = 0) ∧ ((oneRow 0).me.ring 1).commitDue (oneRow 0).me = false ∧ (oneRow 0).matStart 0 v = some 0 ∧
    nestSize ((oneRow 0).me.lntImage 1 1) = 1 ∧ (∀ l, l < 6 → cmtInt ((oneRow 0).me.lntImage 1 1) l = 0) ∧
    matCheck 4 {} s.me = none ∧ s.me.paired 0 = true ∧ (s.me.ring 1).belowRcmt 0 = false ∧ markProg (s.mark 0 1 0) = 0 ∧
    (fmtOf 1).isSome = true ∧ Fmt.bf16.isMatrix = true ∧ 8 ≤ Fmt.bf16.bits ∧ w.bva.toNat % Fmt.bf16.bytes = 0 ∧
    s.me.snapshot 0 = false ∧ bmem s.me.accLost 0 = false ∧ (s.me.ring 1).jobs = [] ∧ s.mark 0 1 0 = 0 :=
  ⟨begins_idle (by decide +kernel), begins_idle (by decide +kernel), of_okAnd (by decide +kernel), of_okAnd (by decide +kernel),
    of_okAnd (by decide +kernel), of_okAnd (by decide +kernel), of_error (by decide +kernel), by decide +kernel⟩
theorem of_moved {α β γ δ : Type} {r : α × β × γ × Option δ} (h : r.2.2.2.isNone = true) : ∃ v m f, r = (v, m, f, none) := by
  obtain ⟨v, m, f, x⟩ := r
  cases x with
  | none => exact ⟨v, m, f, rfl⟩
  | some _ => simp at h

theorem of_stopped {α β γ : Type} {r : α × β × γ × Option CFail} (h : (match r.2.2.2 with | some (.code _) => true | _ => false) = true) :
    ∃ v m f x, r = (v, m, f, some (.code x)) := by
  obtain ⟨v, m, f, x⟩ := r
  split at h
  · rename_i y hy
    exact ⟨v, m, f, y, by simp_all⟩
  · simp at h

/-- A record of one dimension. -/
def tsr (src dst sfmt dfmt flags ext sstr dstr : Nat) : Tsr :=
  BitVec.ofNat 2560 (src + dst * 2 ^ 64 + sfmt * 2 ^ 160 + dfmt * 2 ^ 168 + 2 ^ 176 + flags * 2 ^ 192 + ext * 2 ^ 512 + sstr * 2 ^ 544
    + dstr * 2 ^ 592)

/-- Ring 2 or 5 of core 0 with one word whose record has been chosen. -/
def copying (r : Nat) (t : Tsr) (begun : Bool) : State :=
  (ringed r 0 { chosen := some (0, t), begun := begun }).onFn 0 (fun f => { f with part := { f.part with agents := 1023, ports := 1 } })

/-- A copy of four FP32 elements inside the scratchpad, its record chosen before or now; one that leaves the scratchpad at its second
element; a check that fails, an agent that the partition has not; a stack agent that the word has not reached, where it is next and where another core's word is,
and which takes it; CSUB and CDRAIN with slots there and not, of another producer, of no whole slot, over a region that a descriptor covers
and not; CNOP. -/
theorem witness_CopyWordsMoveTheirElements :
    let t := tsr 0x4000 0x8000 0 0 3 4 4 4
    let over' := tsr 0x4000 0x1FFFFC 0 0 3 2 4 4
    let w : CWord := { ch := 3, tsra := 0x200, tsrsp := true }
    let s := copying 5 t false
    let m := mapped (ringed 5 0 {}) [(0x7000, 0x3000)]
    let fresh := { m with mem := [(0x3001, 0x40), (0x3009, 0x80), (0x3016, 1), (0x3018, 3), (0x3040, 4), (0x3044, 4), (0x304A, 4)] ++ m.mem }
    let word : BitVec 192 := (cform 1 { w with tsra := 0x1C0, tsrsp := false }).setWidth 192
    let x : CRun := { c := 0, r := 5, seq := 0, cop := 1, t := t, stack := none }
    let p := tsr 0x4000 3 0 0 3 8 4 0
    let piped (fill : Nat) (prod : BitVec 4) := (copying 2 p true).onMe (fun k => { k with pipes := [(3, { slotG := 1, nslotM1 := 1, prod := prod, cons := 7, fill := fill })] })
    let y : CRun := { c := 0, r := 2, seq := 0, cop := 8, t := p, stack := none }
    let came := s.agentJoin 0 0 5
    let late := ((s.swrite 1 (((s.core 1).ring 2).slotAddr 0) (List.replicate 32 0)).agentJoin 0 1 2).agentJoin 0 0 5
    let gang : Gang := { id := 1, fn := 0, ctx := 0, q := 0, idx := 0, inst := 0, die := 0, shape := 0, cores := [0] }
    let node : TaskNode := { fn := 0, q := 0, idx := 0, launch := { opVa := 0x7000, opcnt := 1 }, remaining := 0, phase := .ready }
    let region := mapped ((piped 0 7).onMe (fun k => { k with gang := 1 })) [(0x7000, 0x3000)]
    let op (n : Nat) : State := { region with
      gangs := [gang], nodes := [node], mem := mwrite region.mem 0x3000 (toBytes 8 0x4000 ++ toBytes 8 0x10100 ++ toBytes 16 n) }
    let h := y.hull true
    s.agentOf 0 1 w = .ok none ∧ (∃ u, fresh.recordFor 0 5 0 word = .ok u ∧ decide (u.1 = t) = true) ∧ Begins s s 0 5 none 0 0 ∧
    (let p := fresh.chooseRecord 0 5 0 none (recordKey word) (t, 0); Begins p p 0 5 none 0 0) ∧
    (∃ v m f, x.elements t.count 0 s 0 = (v, m, f, none)) ∧
    (∃ v m f e, { x with t := over' }.elements 2 0 s 0 = (v, m, f, some (.code e))) ∧
    s.agentOf 0 0x0A { w with ch := 16 } = .ok (some (0, 0)) ∧ (∃ e, s.agentOf 0 0x0A { w with ch := 19 } = .error e) ∧
    Begins (piped 0 7) (piped 0 7) 0 2 none 0 0 ∧ (∃ v m f, y.elements 8 0 (piped 0 7) 0 = (v, m, f, none)) ∧
    y.covered (op 8) 0x7000 h.1 h.2 false 1 0 = .ok true ∧ y.covered (op 7) 0x7000 h.1 h.2 false 1 0 = .ok false ∧
    (op 8).nodeOf 0 = some node ∧ copUnit 0x0A = some 0 ∧ (s.me.ring 5).wait ≠ .agent ∧ (came.me.ring 5).wait = .agent ∧
    came.agentNext 0 = some (0, 5) ∧ late.agentNext 0 = some (1, 2) ∧ ((came.agentTake 0 0 5).me.ring 5).begun = true ∧
    ((came.agentTake 0 0 5).me.ring 5).flight = [] ∧ ((came.agentTake 0 0 5).me.ring 5).next = ((came.agentTake 0 0 5).me.ring 5).rhead ∧
    copCheck 1 w 5 = none ∧ copCheck 1 { w with rsv := 1 } 5 = some 0x25 ∧ (s.me.ring 5).chosen = some (0, t) ∧
    (fresh.me.ring 5).chosen = none ∧ tsrCheck 1 t (fresh.indices 0 1 t) = none ∧ tsrCheck 1 (tsr 0x4000 0x8000 0 0 3 4 3 4) [] ≠ none ∧ t.count = 4 ∧ copCheck 0x0A { w with ch := 16 } 5 = none ∧
    (copying 5 (tsr 0x4000 3 0 0 3 0 4 0) true).me.ring 5 ≠ {} ∧ (tsr 0x4000 3 0 0 3 0 4 0).count = 0 ∧ markProg (s.mark 0 5 0) = 0 ∧ copCheck 0x0D { ch := 3 } 5 = none ∧
    p.count * (goodFmt p.sfmt).bits = 256 ∧ ((piped 0 7).me.ring 2).begun = true ∧ 1 ≤ (piped 1 7).pipeFree 0 2 3 ∧
    (piped 2 7).pipeFree 0 2 3 = 0 ∧ ((piped 0 1).me.pipe 3).prod ≠ 7 :=
  ⟨of_okIs (by decide +kernel), of_okAnd (by decide +kernel), begins_idle (by decide +kernel), begins_idle (by decide +kernel), of_moved (by decide +kernel),
    of_stopped (by decide +kernel), of_okIs (by decide +kernel), of_error (by decide +kernel), begins_idle (by decide +kernel),
    of_moved (by decide +kernel), of_okIs (by decide +kernel), of_okIs (by decide +kernel), by decide +kernel⟩

/-- A dense copy, a conversion and a fill: their records, at the top of the scratchpad. -/
theorem witness_copy_elements :
    let a := tsr 0x1FFFF0 0x1FFFE0 0 0 3 4 4 4
    let b := tsr 0x1FFFE0 0x1FFFF8 0 1 3 4 4 2
    let f := tsr 0x3F800000 0x1FFFF0 0 0 2 4 0 4
    a.ndim = 1 ∧ a.ssp = true ∧ a.dsp = true ∧ a.sfmt = 0 ∧ a.dfmt = 0 ∧ a.dst + 4 * 4 ≤ 0x200000 ∧ a.dst + 4 * 4 ≤ a.src ∧ a.src + 16 ≤ 0x200000 ∧
    (a.dim 0) = ⟨4, 4, 4⟩ ∧ (b.dim 0) = ⟨4, 4, 2⟩ ∧ b.dfmt = 1 ∧ b.mode = 0 ∧ b.src + 16 ≤ b.dst ∧ f.ndim = 1 ∧ (f.dim 0) = ⟨4, 0, 4⟩ ∧ f.ssp = false ∧
    f.mode = 0 := by decide +kernel

/-- CSEND to a peer with no port, to one with a port, with every packet answered well and badly. -/
theorem witness_FabricWordsSendAndComplete :
    let t := tsr 0x4000 0 0 0 0x25 4 4 4 ||| BitVec.ofNat 2560 (5 * 2 ^ 128)
    let w : CWord := { ch := 3, tsra := 0x200, tsrsp := true }
    let s := copying 5 t false
    let r : State := { s with fabric := { s.fabric with routes := [(5, 1)] } }
    let x : CRun := { c := 0, r := 5, seq := 0, cop := 6, t := t, stack := none }
    let y : Transfer := { core := 0, ring := 5, seq := 0, fn := 0, peer := 5, xfer := 0 }
    let sent : Sent := { pkt := {}, port := 0, vc := 0, elems := 4, answered := true }
    let d (st : Option Nat) : State := { s with fabric := { s.fabric with transfers := [{ y with packets := [sent], done := true, status := st }] } }
    Begins s s 0 5 none 0 0 ∧ (∃ v, x.sendRest (r.beginTransfer 0 5 0 5) y = (v, none)) ∧ copCheck 6 w 5 = none ∧
    (s.me.ring 5).chosen = some (0, t) ∧ s.transferOf 0 5 0 = none ∧ t.peer = 5 ∧ s.portsTo 0 5 = [] ∧ r.portsTo 0 5 = [0] ∧
    (r.beginTransfer 0 5 0 5).transferOf 0 5 0 = some y ∧
    ((x.sendRest (r.beginTransfer 0 5 0 5) y).1.transferOf 0 5 0).any (fun y => !y.packets.all Sent.answered) = true ∧
    (d none).transferOf 0 5 0 = some { y with packets := [sent], done := true } ∧
    markDone ((d (some 4)).mark 0 5 0) = false ∧ (d (some 4)).transferOf 0 5 0 = some { y with packets := [sent], done := true, status := some 4 } ∧
    s.strand.status = .running :=
  ⟨begins_idle (by decide +kernel), of_snd (by decide +kernel), by decide +kernel⟩

/-- A strand with a handler, in it, and without one; a ring with an exception pending. -/
theorem witness_PreciseEventsEnterHandler :
    let h (b : Bool) := (at0 []).onStrand (fun t => { t with trapVec := 0x2000, trapVecValid := true, inHandler := b })
    (h false).strand.trapVecValid = true ∧ (h false).strand.inHandler = false ∧ (h true).strand.inHandler = true ∧
    (at0 []).strand.trapVecValid = false ∧
    (let e := (ringed 3 0 { pendx := true, xcode := 0x20 }).onStrand (fun t => { t with trapVec := 0x2000, trapVecValid := true })
     (e.me.ring 3).pendx = true ∧ (e.me.ring 3).jobs = [] ∧ (e.me.ring 3).next = (e.me.ring 3).xseq ∧ e.me.thunks.words = [] ∧ e.me.thunks.queue = [] ∧ e.strand.trapVecValid = true ∧ e.strand.inHandler = false ∧
      (e.me.ring 3).xseq = (e.me.ring 3).rhead) := by decide +kernel

/-- A save slot at 0x10000 whose first page, and its page of scratch, lie in device memory. -/
def slotted (kind gang : Nat) : State :=
  let s := mapped ((at0 [(4, 0x10000)]).onStrand (fun t => { t with live := some 0, liveBytes := some 4096 })) [(0x10000, 0x20000)]
  { s with mem := mwrite (mwrite s.mem 0x20008 (toBytes 1 kind)) 0x2000E (toBytes 2 gang) }

/-- CTXSV of a LIVE context into a mapped slot; CTXLD from a slot of another KIND, of another gang size, and of its own; a misaligned VA. -/
theorem witness_SlotsAreSavedAndLoaded :
    let s := slotted 1 1
    let u := s.demandKeep 0
    (s.get 4).toNat % 2 ^ 57 % 0x10000 = 0 ∧ u.me.ringsEmpty = true ∧ s.strand.loops = [] ∧ s.actor.core < 256 ∧
    (∃ v, (u.onStrand (fun t => t.imaged 3)).writeSlot 0 0x10000 { full := u.strand.live.isNone, pc := (u.strand.imaged 3).pc, dynamic := false } = (v, none)) ∧
    (∃ h, s.vaBytes 0 0 0x10000 0x1000 = .ok h ∧ decide (bytesAt h 8 1 = 1 ∧ bytesAt h 10 2 = s.me.ctx ∧ bytesAt h 12 2 = s.me.rank ∧
      bytesAt h 14 2 = (s.gangCores 0).length) = true) ∧
    (∃ i, u.readSlot 0 0 0x10000 = .ok i ∧ decide (i.kind = 1) = true) ∧
    (∃ h, (slotted 3 1).vaBytes 0 0 0x10000 0x1000 = .ok h ∧ decide (bytesAt h 8 1 = 3) = true) ∧
    (∃ h, (slotted 2 2).vaBytes 0 0 0x10000 0x1000 = .ok h ∧ decide (bytesAt h 8 1 = 2 ∧ bytesAt h 14 2 ≠ 1) = true) :=
  ⟨by decide +kernel, by decide +kernel, by decide +kernel, by decide +kernel, of_snd (by decide +kernel), of_okAnd (by decide +kernel), of_okAnd (by decide +kernel),
    of_okAnd (by decide +kernel), of_okAnd (by decide +kernel)⟩

/-- The computation stops with something that `f` accepts. -/
def errAnd {ε α : Type} (e : Except ε α) (f : ε → Bool) : Bool :=
  match e with
  | .ok _ => false
  | .error x => f x

theorem of_errAnd {ε α : Type} {e : Except ε α} {f : ε → Bool} (h : errAnd e f = true) : ∃ x, e = .error x ∧ f x = true := by
  cases e with
  | ok _ => simp [errAnd] at h
  | error x => exact ⟨x, rfl, h⟩

/-- A pending handle whose walk succeeds, fails, was shot down; faults of a strand, a handle and an engine, one dropped, none. -/
theorem witness_WalksAndFaultsAreAnswered :
    let s (v : Handle) : State := (mapped (at0 []) [(0x7000, 0x3000)]).onStrand (fun t => { t with handles := [(1, v)] })
    let p : Handle := { va := 0x7000, st := .pending }
    let r (a : Agent) : FaultRec := { fn := 0, fid := 65535, ctx := 0, va := 0x7000, acc := .read, stage2 := false, perm := false, gpa := 0, waiters := [a] }
    let q (a : Agent) : State := { at0 [] with faults := [r a] }
    let asked (s : State) := s.faults.find? (fun x => decide (x.owner = 0 ∧ x.fid = 65535))
    (∃ t, walk (s p) 0 0 0x7000 .read = .ok t ∧ decide (t.pa = 0x3000) = true) ∧ (∃ f, walk (s p) 0 0 0x6000 .read = .error f ∧ decide (f.mac = none) = true) ∧
    ((s p).strand.handle 1).st = .pending ∧ ((s p).strand.handle 1).fid = none ∧ ((s p).strand.handle 1).shot = false ∧
    ((s { p with shot := true }).strand.handle 1).shot = true ∧ asked (q (.strand 0)) = some (r (.strand 0)) ∧
    asked (q (.handle 0 14)) = some (r (.handle 0 14)) ∧ asked (q (.ring 0 5)) = some (r (.ring 0 5)) ∧ asked (at0 []) = none ∧
    ((at0 []).fn 0).dropped.contains 65535 = false ∧
    (let e : State := { ringed 5 0 { wait := .fault 65535 } with faults := [r (.ring 0 5)] }
     (e.me.ring 5).wait.fid = some 65535 ∧ (e.me.ring 5).jobs = []) ∧
    (((at0 []).onFn 0 (fun f => { f with dropped := [65535] })).fn 0).dropped.contains 65535 = true :=
  ⟨of_okAnd (by decide +kernel), of_errAnd (by decide +kernel), by decide +kernel⟩

/-- A launch queue with one record, of this predecessor count and these reserved bits, in host memory at 0x8000. -/
def launching (preds rsv : Nat) : State :=
  let s : State := { at0 [] with ctxs := [(0, { live := true })], hostMem := [(0x8002, 0x10), (0x800F, BitVec.ofNat 8 rsv), (0x8010, BitVec.ofNat 8 preds)] }
  s.onQueue 0 4 (fun q => { q with base := 0x8000, en := true, host := 1 })

theorem witness_RecordsBecomeNodes :
    (at0 []).canFetch 0 0 = false ∧ (launching 0 0).canFetch 0 0 = true ∧
    recordBad ((launching 0 0).launchBytes 0 0).2 0 ((launching 0 0).captureOf 0) = false ∧
    recordBad ((launching 0 9).launchBytes 0 0).2 0 ((launching 0 9).captureOf 0) = true ∧
    (launchOf ((launching 0 0).launchBytes 0 0).2).predcnt = 0 ∧ (launchOf ((launching 0 0).launchBytes 0 0).2).barren = false ∧
    recordBad ((launching 2 0).launchBytes 0 0).2 0 ((launching 2 0).captureOf 0) = false ∧
    (launchOf ((launching 2 0).launchBytes 0 0).2).predcnt = 2 ∧ (∀ n ∈ (launching 0 0).nodes, n.phase ≠ .completing) ∧ ((launching 0 0).fn 0).decs = [] := by
  decide +kernel

/-- A node of one instance of shape 0 ready for cluster 0, which the PF holds; with a gang in this phase. -/
def readied (toPlace : List Nat) (gangs : List Gang) (idemp : Bool) : State :=
  let n : TaskNode := { fn := 0, q := 0, idx := 0, launch := { entry := 0x100000, idemp := idemp }, remaining := 0, phase := .ready, toPlace := toPlace, instances := 1 }
  let s : State := { State.reset with nodes := [n], gangs := gangs, ctxs := [(0, { live := true, saveVa := 0x10000, slots := 2 })]
                                      clusters := [(0, { holder := some 0 })] }
  s.onFn 0 (fun f => { f with part := { f.part with valid := true, clusters := 1, tickets := [(0, 8)] } })

def gang0 (p : GangPhase) (cores : List Nat) : Gang :=
  { id := 1, fn := 0, ctx := 0, q := 0, idx := 0, inst := 0, die := 0, shape := 0, cores := cores, phase := p }

theorem witness_GangsStartWithTheirRegisters :
    let s := readied [0] [] false
    ((s.pick 0).any (fun c => !c.1.bad && decide (c.1.kind = .fresh) && (s.node c.1.fn c.1.q c.1.idx).isSome && decide (s.fitAt c.1 0 = some [0]))) = true ∧
    [0].Nodup ∧ (∀ x ∈ [0], x < 256) := by decide +kernel

/-- An idle cluster with a function with work, one that is reserved, a holder that switches contexts. -/
theorem witness_ClustersSelectLeastPass :
    let s := { readied [0] [] false with clusters := [] }
    let v : State := State.onNode { (readied [0] [] false).onFn 0 (fun f => { f with part := { f.part with clusters := 0xFF } }) with
      clusters := [(0, { reserved := some (0, 0) })] } 0 0 0 (fun n => { n with launch := { n.launch with gang := 4 } })
    (v.cluster 0).reserved = some (0, 0) ∧ v.standing (0, 0) = true ∧ (readied [] [] false).standing (0, 0) = false ∧ (s.cluster 0).holder = none ∧ (s.cluster 0).reserved = none ∧ 0 ∈ s.eligible 0 ∧ (∀ g ∈ s.eligible 0, g = 0) ∧
    ((readied [] [] false).eligible 0 = []) ∧ ((readied [0] [] false).cluster 0).holder = some 0 ∧ ((readied [0] [] false).fn 0).switching = none ∧
    (((readied [0] [] false).onFn 0 (fun f => { f with switching := some (0, 1, 7) })).fn 0).switching ≠ none := by decide +kernel

theorem of_snd2 {x : State × Option Stop} {f : State → State × Option Stop} (h : (decide (x.2 = none) && decide ((f x.1).2 = none)) = true) :
    ∃ v, x = (v, none) ∧ ∃ w, f v = (w, none) := by
  obtain ⟨a, b⟩ := x
  simp only [Bool.and_eq_true, decide_eq_true_eq] at h
  exact ⟨a, by rw [h.1], (f a).1, Prod.ext rfl h.2⟩

/-- A draining gang whose estimate fits its deadline, and whose does not, idempotent or not; a strand at its save point with and
without a descriptor; one past its limit; a saved gang that fits. -/
theorem witness_GangsAreSavedAndRestored :
    let d (i : Bool) (b : Option Nat) : State := { readied [] [{ gang0 .draining [0] with deadline := 100 }] i with cores := [(0, { resident := true, gang := 1, strand := { status := .running, liveBytes := b } })] }
    let m (st : Status) (l : Option (BitVec 768)) : State :=
      let s := mapped (at0 []) [(0x20000, 0x5000)]
      { s with
        gangs := [gang0 .saving [0]]
        cores := [(0, { resident := true, gang := 1, saveAsk := true, strand := { status := st, live := l } })] }
    let u (st : Status) (l : Option (BitVec 768)) := (m st l).demandKeep 0
    let r := readied [] [{ gang0 .saved [] with slots := [(0, none)] }] false
    let p := ((u .saving (some 0)).abandonWalks 0).endLease 0
    (∃ v, p.writeSlot 0 ((p.ctx 0).slotVa (p.ctx 0).freeSlot) { full := false, pc := (p.core 0).strand.pc } = (v, none) ∧
      ∃ w, v.writeLate 0 = (w, none)) ∧
    (∃ l, r.readSlots { gang0 .saved [] with slots := [(0, none)] } [(0, none)] = .ok l ∧ decide (l = []) = true) ∧
    p.gang 1 = some (gang0 .saving [0]) ∧
    (d true (some 4096)).gang 1 = some { gang0 .draining [0] with deadline := 100 } ∧ ((d true (some 4096)).node 0 0 0).isSome = true ∧
    [0].foldl (fun m c => max m (((d true (some 4096)).core c).strand.liveBytes.getD 3283008)) 0 * 13 ≤ 100 * 1000 ∧
    100 * 1000 < [0].foldl (fun m c => max m (((d true none).core c).strand.liveBytes.getD 3283008)) 0 * 13 ∧
    ((u .saving (some 0)).core 0).mustSave = true ∧
    ((u .saving (some 0)).core 0).ringsEmpty = true ∧
    (upto 6).all (fun r => !(((u .saving (some 0)).core 0).ring r).pendx) = true ∧
    ((u .saving (some 0)).core 0).strand.status = .saving ∧ ((u .saving (some 0)).core 0).strand.live ≠ none ∧
    ((u .saving none).core 0).strand.live = none ∧ ((m .running none).core 0).mustSave = true ∧
    ((m .running none).core 0).strand.status = .running ∧ ((m .running none).core 0).replayable = true ∧
    ((m .running none).core 0).strand.reply = none ∧ (∀ i ∈ upto 6, (((m .running none).core 0).ring i).wait = .none) ∧
    r.gang 1 = some { gang0 .saved [] with slots := [(0, none)] } ∧
    ((r.pick 0).any (fun c => decide (c.1.kind = .saved 1) && decide (r.fitAt c.1 0 = some [0]))) = true :=
  ⟨of_snd2 (by decide +kernel), of_okAnd (by decide +kernel), by decide +kernel⟩

/-- A gang that has exited, one that has not, the last instance and not the last: nothing else in the machine. -/
theorem witness_InstancesCompleteTheirNode :
    let s (st : Status) (n : Nat) : State := State.onNode { readied [] [gang0 .running [0]] false with
      cores := [(0, { resident := true, gang := 1, strand := { status := st } })] } 0 0 0 (fun x => { x with instances := n })
    (s .exited 1).gang 1 = some (gang0 .running [0]) ∧ ((s .exited 1).core 0).strand.status = .exited ∧ ((s .running 1).core 0).strand.status ≠ .exited ∧
    (upto 6).all (fun r => decide ((((s .exited 1).core 0).ring r).rtail = (((s .exited 1).core 0).ring r).rkeep)) = true ∧
    ((s .exited 1).node 0 0 0).any (fun n => decide (n.status = 0 ∧ n.doneCount + 1 = n.instances ∧ n.fid = none ∧ n.succs = none ∧ n.signalled = false ∧
      n.launch.nsucc = 0 ∧ n.launch.crVa = 0)) = true ∧ ((s .exited 1).ctx 0).destroying = none ∧
    ((s .exited 2).node 0 0 0).any (fun n => decide (n.doneCount + 1 ≠ n.instances)) = true := by decide +kernel

/-- A saved gang of one rank whose slot at 0x20000 is LIVE, keeps s4 and waited for nothing. -/
def parked : State :=
  let m := mapped (readied [] [{ gang0 .saved [] with slots := [(0, some 0)] }] false) [(0x20000, 0x20000)]
  { m with
    mem := [(0x20000, [0x50, 0x55]), (0x20008, [1]), (0x2000E, [1]), (0x20080, [0x10])].foldl (fun a e => mwrite a e.1 e.2) m.mem
    ctxs := [(0, { m.ctx 0 with slots := 2, used := [0] })] }

theorem witness_saved_rank :
    let g : Gang := { gang0 .saved [] with slots := [(0, some 0)] }
    (∃ l, parked.readSlots g g.slots = .ok l ∧ (match l with
      | [e] => decide (e.1 = 0 ∧ e.2.1 = 0 ∧ bytesAt e.2.2.head (0xC80 + 40) 8 = 0) && liveSmask e.2.2.desc 4
      | _ => false) = true) ∧
    parked.gang 1 = some g ∧ parked.parkedAt 0 0 = none ∧ [0].Nodup ∧ (∀ x ∈ [0], x < 256) ∧
    ((parked.pick 0).any (fun c => decide (c.1.kind = .saved 1) && decide (parked.fitAt c.1 0 = some [0]))) = true :=
  ⟨of_okAnd (by decide +kernel), by decide +kernel⟩

/-- A node of four successors, among four nodes: one that waits for it alone, one for another too, one for neither; two entries
name slots not fetched. It has succeeded, or failed, with a record or none, and the CQ on or off. -/
def finishing (status cr : Nat) (en : Bool) : State :=
  let node (q i rem : Nat) : TaskNode := { fn := 0, q := q, idx := i, launch := {}, remaining := rem, instances := 1 }
  let l : Launch := { nsucc := 4, succVa := 0x7000, crVa := cr, csem := some (6144, 0) }
  let n : TaskNode := { node 0 0 0 with launch := l, phase := .ready, status := status, capture := some [some 0x10000] }
  let s := mapped State.reset [(0x7000, 0x3000), (0x8000, 0x4000)]
  let s : State := { s with
    mem := mwrite s.mem 0x3000 ([1 * 32 + 1, 2 * 32 + 1, 1 * 32 + 2, 7 * 32 + 1].map (toBytes 4)).flatten
    nodes := [n, node 1 1 (if status = 0 then 1 else 2), node 1 2 2, node 3 3 5], gangs := [gang0 .running [0]]
    cores := [(0, { resident := true, gang := 1, strand := { status := .exited } })] }
  s.onQueue 0 2 (fun q => { q with en := en, base := 0x9000 })

/-- Bytes of the nodes' successors, the page of its record, and the rest. -/
theorem witness_completion : [(0, 0, true), (0, 0x8020, true), (5, 0x8020, false), (5, 0, true)].all (fun e =>
    let s := finishing e.1 e.2.1 e.2.2
    (match s.node 0 0 0, s.nodeBytes 0 0 3 0x7000 16 with
    | some n, .ok bs =>
      let named (m : TaskNode) : Nat :=
        (((upto 4).map (fun i => bytesAt bs (4 * i) 4)).filter (fun e => decide (e / 2 ^ 21 = 0 ∧ e % 32 = m.q ∧ e / 32 % 65536 = m.idx))).length
      decide (n.fid = none ∧ n.succs = none ∧ n.recorded = false ∧ n.signalled = false ∧ n.doneCount + 1 = n.instances ∧ n.status = e.1) &&
      s.nodes.all (fun m => decide (m.phase ≠ .completing) && decide (m.doomed = false ∧ m.launch.barren = false) &&
        decide (named m < m.remaining ∨ named m = 0 ∨ (named m = m.remaining ∧ n.status = 0))) && decide (named n = 0) &&
      (n.csemKey (n.capture.getD (s.captureOf 0)) == some 6144)
    | _, _ => false) && decide ((s.ctx 0).destroying = none) && decide ((s.fn 0).decs = [] ∧ (s.queue 0 2).held = [] ∧ (s.queue 0 2).full = false) &&
    okAnd (walk s 0 0 0x8020 .write) (fun tr => decide (s.lineFails tr.mtype (tr.at 0x8020) 32 true = none) && !s.cleanPage 0 tr)) = true := by
  decide +kernel

/-- A record at 0x8000 of one level of COUNT 0, with this record address and this completion semaphore. -/
def barren (cr csem : Nat) : State :=
  let s := mapped (launching 0 0) [(0x8000, 0x4000)]
  { s with hostMem := mwrite s.hostMem 0x8000 (toBytes 11 0 ++ toBytes 1 1 ++ toBytes 28 0 ++ toBytes 4 csem ++ toBytes 4 0 ++ toBytes 8 cr) }

theorem witness_BarrenNodesComplete : [(0, 0), (0x8020, 0x80001800)].all (fun e =>
    let s := barren e.1 e.2
    let l := launchOf (s.launchBytes 0 0).2
    let here := (s.launchBytes 0 0).1
    s.canFetch 0 0 && !recordBad (s.launchBytes 0 0).2 0 (s.captureOf 0) && decide (s.nodes.length = 0 ∧ s.gangs.length = 0 ∧ (s.fn 0).decs = []) &&
    decide (l.predcnt = 0 ∧ l.barren = true ∧ l.nsucc = 0 ∧ l.crVa = e.1 ∧ l.csem = (if e.2 = 0 then none else some (6144, 0))) &&
    decide (localDie (captured (some (here.captureOf l.ctx)) 0) = some 0) &&
    okAnd (walk here 0 0 0x8020 .write) (fun tr => decide (here.lineFails tr.mtype (tr.at 0x8020) 32 true = none) && !here.cleanPage 0 tr)) = true := by
  decide +kernel

/-- A core that may be reset, with two resets and with a word that cannot be replayed; at a boundary and not; resets in progress. -/
theorem witness_EngineAndDieResets :
    let s (g : Ring) := ringed 5 0 g
    let f : Flight := { seq := 0, overlap := true }
    let d : State := { State.reset with dieResets := [(3, none)], cores := [(255, { inReset := true })] }
    let hot : State := { d with power := [(3, { clamp := true, goal := 3, phase := .raising })] }
    (∀ y ∈ ((s {}).me.ring 5).young, (s {}).cycle < y.since + 2100) ∧ (s {}).me.strand.status ≠ .saved ∧ ((s {}).me.ring 5).replayable = true ∧
    ((s { begun := true, overlap := true }).me.ring 5).replayable = false ∧ d.settled 3 = true ∧ (d.pow 3).phase = .steady ∧
    hot.settled 3 = false ∧ (hot.pow 3).phase ≠ .steady ∧
    (s {}).me.resident = true ∧ (s {}).me.inReset = false ∧ ((s {}).me.ring 5).wait = .none ∧ (s {}).me.strand.status = .running ∧
    ((s {}).me.ring 5).empty = false ∧ ((s {}).me.ring 5).resets < 2 ∧ ((s { resets := 2 }).me.ring 5).resets = 2 ∧
    ((s { flight := [f], next := 1 }).me.ring 5).flight = [f] ∧ (s {}).me.boundary 5 = true ∧ (s { begun := true }).me.boundary 5 = false ∧
    ((s { wait := .reset }).me.ring 5).wait = .reset ∧ (d.core 255).inReset = true ∧ d.nodes = [] ∧ (d.pow 3).clamp = false ∧
    (∃ e ∈ d.dieResets, e.1 = 3) ∧ (∀ e ∈ d.dieResets, e.1 ≠ 0) ∧ (sget {} d.banks (16 * 3 + 13)).valid = false ∧
    (let a := d.onCore 255 (fun k => { k with aliases := [(4, 0x30005), (5, 0x10005)] })
     ssorted (a.core 255).aliases = true ∧ field (sget 0 (a.core 255).aliases 4) 16 2 = 3 ∧ field (sget 0 (a.core 255).aliases 5) 16 2 ≠ 3) := by
  decide +kernel

/-- A bank that is empty, holds a corrected record read and not, an uncorrectable one read and not; a full counter. -/
theorem witness_ErrorBanksRecord :
    let b (v u r : Bool) : Bank := sget {} (State.banks { State.reset with banks := [(63, { valid := v, ue := u, read := r, ce := 0xFFFFFFFF })] }) 63
    (b false false false).valid = false ∧ ((b true false true).ue = false ∧ (b true false true).read = true) ∧
    ((b true true false).valid = true ∧ (b true true false).ue = true ∧ (b true true false).read = false) ∧ (b true false false).read = false ∧
    (b true true true).ce = 0xFFFFFFFF ∧ ((0x1F : Byte).toNat < 0x20) ∧ (0x24 < (0x25 : Byte).toNat) ∧ (0x20 ≤ (0x22 : Byte).toNat) ∧ (at0 []).me.resident = true ∧
    ((at0 []).ctx 0).destroying = none := by decide +kernel

/-- Starts at each step, cold and warm, done, failed, and none; a warm start's step 2 without a digest and with the image's own. -/
theorem witness_StartsRunTheirSteps :
    let s (n : Nat) (w d f : Bool) (x : Option (BitVec 256)) : State :=
      { State.reset with start := { step := n, warm := w, done := d, fail := f }, config := { digest := x } }
    (s 2 true false false none).config.digest ≠ some (sha256 (Sys2Proof.Config.firmware 0)) ∧
    (s 2 true false false (some (sha256 (Sys2Proof.Config.firmware 0)))).config.digest = some (sha256 (Sys2Proof.Config.firmware 0)) ∧
    (∀ n ∈ [1, 2, 3, 4, 5, 6, 7], ∀ w ∈ [false, true],
      (s n w false false none).start.step ≠ 0 ∧ (s n w false false none).start.done = false ∧ (s n w false false none).start.fail = false) ∧
    (let hot : State := { s 7 true false false none with power := [(2, { cur := 2 })] }
     (hot.pow 2).cur ≠ 0 ∧ (hot.pow 2).phase = .steady ∧ ((s 7 true false false none).pow 2).cur = 0 ∧ ((s 7 true false false none).pow 2).clamp = false) ∧
    (s 7 false true false none).start.done = true ∧ (s 3 false false true none).start.fail = true ∧ (s 0 false false false none).start.step = 0 ∧
    StartOutcome.insufficient ≠ .scanFailure := ⟨nofun, rfl, by decide +kernel⟩

/-- Each phase, with and without the clamp, a request above and below a floor of 720 mV. -/
theorem witness_PowerStatesMoveInPhases :
    let s (p : DiePower) : State := { State.reset with power := [(3, p)], config := { floors := [(3, 720)] } }
    (∀ p ∈ [PowerPhase.steady, .raising, .switchingUp, .switchingDown, .lowering], ∀ c ∈ [false, true],
      ((s { phase := p, clamp := c, req := 1 }).pow 3).phase = p ∧ ((s { phase := p, clamp := c, req := 1 }).pow 3).clamp = c) ∧
    (s {}).floorMv 3 = 720 := by decide +kernel

/-- Report queues enabled with room, full, holding entries, disabled; launch and report queues for EN, DB and the status; bad fields; a
journal with a node of the function. -/
theorem witness_QueuesFollowTheirControl :
    let s (q : Nat) (b : Queue) : State := { (State.reset.onQueue 0 q (fun _ => b)) with ctxs := [(5, { live := true })] }
    let b := (s 2 { en := true, dev := 3 }).queue 0 2
    let f := (s 3 { en := true, host := 1 }).queue 0 3
    b.en = true ∧ (b.dev + 1) % 2 ^ (b.log2sz.toNat + 4) ≠ b.host % 2 ^ (b.log2sz.toNat + 4) ∧ b.held = [] ∧ b.base.getLsbD 63 = false ∧
    (f.dev + 1) % 2 ^ (f.log2sz.toNat + 4) = f.host % 2 ^ (f.log2sz.toNat + 4) ∧ f.episode = false ∧ ((s 1 {}).queue 0 1).en = false ∧
    ((s 2 { en := true, held := [[]] }).queue 0 2).held ≠ [] ∧
    (let v : BitVec 64 := 1 + 2 * 12 + 5 * 2 ^ 16
     (v.extractLsb' 1 4).toNat ≤ 12 ∧ ((s 4 {}).queue 0 4).base.toNat % 4096 = 0 ∧ ((s 4 {}).ctx (v.extractLsb' 16 12 : BitVec 12).toNat).live = true) ∧
    ¬(((1 + 2 * 13 : BitVec 64).extractLsb' 1 4).toNat ≤ 12) ∧ (State.reset.config.journal = []) ∧
    (b.dev + 16 - b.host) % 16 < ((4 : BitVec 32).toNat + 16 - b.host) % 16 ∧ ¬((b.dev + 16 - b.host) % 16 < ((3 : BitVec 32).toNat + 16 - b.host) % 16) ∧
    16 ≤ (16 : BitVec 32).toNat ∧
    (sget 0 (((s 2 {}).onFn 0 (fun f => { f with msixTab := [(3, 0x100000000)] })).fn 0).msixTab (2 * (2 - 1) + 1)).getLsbD 32 = true ∧
    (sget 0 ((s 2 {}).fn 0).msixTab (2 * (2 - 1) + 1)).getLsbD 32 = false := by decide +kernel

/-- A register write with each ACTION, EN 1 and 0, offsets at the ends of each field; a ring that is idle, LOG2N 3, 4, 14 and 15. -/
theorem witness_RegisterWritesReachTheirField :
    let n (v : BitVec 64) := v.toNat / 2 ^ 16 % 16
    let a (v : BitVec 64) := v.toNat / 2 ^ 16 % 4
    n 0x30000 = 3 ∧ n 0x40000 = 4 ∧ n 0xE0000 = 14 ∧ n 0xF0000 = 15 ∧ a 0xFFFF = 0 ∧ a 0x10000 = 1 ∧ a 0x20000 = 2 ∧
    ((at0 []).me.ring 5).rkeep = ((at0 []).me.ring 5).rtail ∧ ((at0 []).me.ring 5).flight = [] ∧ ((at0 []).me.ring 5).pendx = false ∧
    ((ringed 5 0 {}).me.ring 5).rkeep ≠ ((ringed 5 0 {}).me.ring 5).rtail ∧ (1 : BitVec 64).getLsbD 0 = true ∧ (2 : BitVec 64).getLsbD 0 = false ∧
    bmem (((at0 []).onFn 0 (fun f => { f with msixPend := 2 })).fn 0).msixPend ((0x7018 - 0x7000) / 16) = true ∧ 0x7018 % 16 = 8 ∧
    bmem ((at0 []).fn 0).msixPend ((0x7018 - 0x7000) / 16) = false ∧ (0x100000000 : BitVec 64).getLsbD 32 = true := by
  decide +kernel

/-- BAR2 accesses to a page of PF memory, within it and across the top; through the stage-2 root of a VF that maps nothing; a page
that may not be written, a poisoned line, a clean page with room in the log and with none; a window's frame. -/
theorem witness_HostAccessesReachDeviceMemory :
    let s := State.reset
    let t : Trans := { base := 0x3000, pa := 0x3000, gpa := 0x3000, wr := true, ex := true }
    let p : State := { s.writePa .dev 0x3FFF [1] with poison := [(0xFF, 0x100)] }
    -- stage 2 of function 1: GPA 0x3000 to a host page, GPA 0x4000 to its own device page, not written yet
    let leaves (wr : Nat) : Memory := [(0x10000, 0x11001), (0x11000, 0x12001), (0x12000, 0x13001), (0x13018, 0xFF0000000006045 + wr * 8),
      (0x13020, 0x10000000007005 + wr * 8)].foldl (fun m e => mwrite m e.1 (toBytes 8 e.2)) []
    let z (wr : Nat) (log : DirtyLog) : State := ({ s with mem := leaves wr } : State).onFn 1 (fun f => { f with s2root := some 0x10000, dlog := log, part := { f.part with pcg := 1 } })
    let l : DirtyLog := { en := true, log2n := 1 }
    walk2 s 0 0x3FFF .read = .ok t ∧ (∃ e, walk2 s 1 0x3000 .read = .error e) ∧
    (∃ t, walk2 (z 0 {}) 1 0x3000 .read = .ok t ∧ decide (t.wr = false ∧ t.mtype = .hostc) = true) ∧
    (∃ t, walk2 (z 1 {}) 1 0x3000 .read = .ok t ∧ decide (t.wr = true ∧ t.mtype = .hostc) = true) ∧
    (∃ t, walk2 (z 1 l) 1 0x4000 .write = .ok t ∧ ((z 1 l).cleanPage 1 t && decide (t.mtype = .dev ∧ t.wr = true) &&
      !(z 1 l).servedHome t (t.line 0x4000) && decide ((z 1 l).lineFails .dev (t.at 0x4000) 8 true = none)) = true) ∧
    (∃ e, walk2 (z 0 {}) 1 0x3000 .write = .error e ∧ decide (e.mac = none) = true) ∧
    (∃ e, walk2 { (z 1 {}).writePa .dev 0x10000 (toBytes 8 0x11001) with poison := [(0x10000 / 64, 0x10000 / 64 + 1)] } 1 0x3000 .read = .error e ∧ decide (e.mac = some (0x10000 / 64)) = true) ∧
    t.wr = true ∧ s.lineFails .dev (t.at 0x3FFF) 1 true = none ∧ 0x3FFF % 4096 + 1 ≤ 4096 ∧
    p.lineFails .dev (t.at 0x3FFF) 1 false = some 0xFF ∧ p.lineFails .dev (t.at 0x3FFF) 1 true = some 0xFF ∧ 2 ^ 44 < 2 ^ 44 - 4 + 8 ∧ ((z 1 l).fn 1).dlog.full = false ∧
    ((z 1 { l with tail := 1 }).fn 1).dlog.full = true ∧
    (State.windowOf { s with windows := [(0, { owner := 1, home := 0, readers := 0, frame0 := 7, count := 1, sem := 6144 })] } (frameOf 0xE00000)).isSome = true ∧
    secondTier 0xE00000 = false ∧ (s.windowOf 7).isSome = false ∧
    ((at0 []).onStrand (fun t => { t with status := .waitLine 0x40 })).strand.status = .waitLine (0x7F / 64 * 64) :=
  ⟨of_okIs (by decide +kernel), of_error (by decide +kernel), of_okAnd (by decide +kernel), of_okAnd (by decide +kernel),
    of_okAnd (by decide +kernel), of_errAnd (by decide +kernel), of_errAnd (by decide +kernel), by decide +kernel⟩

/-- A port that is on, retired, in expectation of SEQ 4095, after a loss; a transfer over it with no other port; links 0–1 and 0–3. -/
theorem witness_LinksCarryFlitsInOrder :
    let s (q : Port) : State := { State.reset with fabric := { ports := [(35, q)] } }
    let y : Transfer := { core := 0, ring := 5, seq := 0, fn := 0, peer := 5, xfer := 0, packets := [{ pkt := {}, port := 35, vc := 0, elems := 1 }] }
    let w : State := ({ State.reset with fabric := { routes := [(5, 2 ^ 35)], transfers := [y] } } : State).onFn 0 (fun f => { f with part := { f.part with ports := 2 ^ 35 } })
    ((s {}).port 35).retired = false ∧ (s {}).config.fabricOn = true ∧ ((s { retired := true }).port 35).retired = true ∧ ((s {}).port 35).txq = [] ∧
    ((s { rxSeq := 4095 }).port 35).rxSeq = 4095 ∧ (4095 + 4096 - 2047) % 4096 = 2048 ∧ 2048 < (4095 + 4096 - 2046) % 4096 ∧
    ((s { rxLost := true }).port 35).rxLost = true ∧ ((s {}).port 35).rxLost = false ∧ (s {}).fabric.transfers = [] ∧ ssorted w.fabric.routes = true ∧
    w.fabric.transfers = [y] ∧ (∀ j ∈ w.portsTo y.fn y.peer, j = 35) ∧ ((0 : Nat) ≠ 1 ∧ 0 + 1 ≠ 3) ∧ 0 + 3 = 3 ∧ (s {}).reroutedLinks = [] ∧ (s {}).movingLinks = [] ∧ (s {}).agents = [] ∧ (s {}).lines = [] ∧
    (let h : AgentHold := { core := 0, ring := 5, seq := 0, gen := 0, slot := none }
     let b : State := { s {} with agents := [(16, { holds := [h] })] }
     ∃ e ∈ b.agents, ∃ h ∈ e.2.holds, dieOf h.core = 0 ∧ e.1 / 16 = 1) := by decide +kernel

/-- An export entry with all rights over a mapped page, or an unmapped one; a packet in each of its classes, in order and past the end; a
SIGNAL that is due and one that is not; a packet of a transfer; a slot with two contributions. -/
def exporting (e : Export) : State :=
  (mapped State.reset [(0x7000, 0x3000)]).onFn 0 (fun f => { f with exports := [(9, e)] })

def export9 : Export :=
  { valid := true, write := true, reduce := true, signal := true, base := 0x7000, length := 0x1000, semBase := 6144, semCnt := 8, pairs := [(5, 3)] }

theorem witness_PacketsAreCheckedAndReduced :
    let s := exporting export9
    let p : Packet := { type := 1, srcPeer := 5, region := 9, offset := 0xFFE, len := 2, payload := [1, 2], xfer := 4 }
    let g : Packet := { p with type := 2, len := 0, payload := [], semid := 6151, count := 1, delta := 1 }
    let c : Packet := { p with type := 3, fmt := 1, slot := 255, count := 2 + 256 }
    let i : Incoming := { peer := 5, xfer := 4, fn := 0, landed := [0], signal := some { port := 0, vc := 1, vftag := 3, pkt := g } }
    let y : Transfer := { core := 0, ring := 5, seq := 0, fn := 0, peer := 5, xfer := 4, packets := [{ pkt := p, port := 0, vc := 0, elems := 1 }] }
    let a (x : Nat) : Contribution := { index := x, peer := 5, xfer := 4, parts := [{ offset := 0, bytes := [0, 0x3F], port := x, vftag := 3 }] }
    let r : RedSlot := { region := 9, slot := 255, die := 0, n := 2, fmt := 1, contribs := [a 0, a 1] }
    let z := s.onFn 0 (fun f => { f with redSlots := [r] })
    (∃ l, s.pagesFor 0 0 20 0x7FFE 2 = .ok l ∧ decide (l.map (fun e => (e.2.1, e.2.2)) = [(0x7FFE, 2)]) = true) ∧
    (∃ e, (exporting { export9 with base := 0x6000 }).pagesFor 0 0 20 0x6FFE 2 = .error e) ∧ (s.exportEntry 0 9).refusal 3 p = none ∧
    (s.exportEntry 0 9).refusal 3 g = none ∧ (s.exportEntry 0 9).refusal 3 c = none ∧ (s.exportEntry 0 9).refusal 3 { p with rsv := 1 } = some 3 ∧ (s.exportEntry 0 9).refusal 4 p = some 2 ∧
    ((exporting { export9 with write := false }).exportEntry 0 9).refusal 3 p = some 4 ∧ (s.exportEntry 0 9).refusal 3 { p with offset := 0xFFF } = some 3 ∧
    (s.exportEntry 0 9).refusal 3 { g with semid := 6152 } = some 3 ∧ g.count.toNat ≤ i.landed.length ∧ i.reduce = false ∧
    localDie (some ((s.fn 0).guest 0)) = some 0 ∧ ¬((2 : BitVec 32).toNat ≤ i.landed.length) ∧
    (State.incomingOf { s with fabric := { incoming := [i] } } 5 4) = some i ∧
    State.fabric { s with fabric := { transfers := [y] } } = { transfers := [y] } ∧ y.xfer = p.xfer.toNat ∧
    ((c.count.toNat % 256 = 2 ∧ c.count.toNat / 256 % 256 = 1) ∧ (reduceFmt 1).isSome = true ∧ reduceFmt 0 = none ∧ s.redSlot 0 9 255 = none) ∧
    256 ≤ (((s.onFn 0 (fun f => { f with redSlots := (upto 256).map (fun n => { r with slot := n }) })).fn 0).redSlots.filter (fun r => decide (r.die = 0) && !r.dead)).length ∧
    r.dead = false ∧ r.fid = none ∧ 5 ≠ z.fabric.peer ∧ z.incomingOf 5 4 = none ∧
    z.redSlot 0 9 255 = some r ∧ r.contribs.length = r.n ∧ (a 0).parts.length = 1 ∧ Fmt.bf16.bytes = 2 ∧
    reduceFmt r.fmt = some .bf16 :=
  ⟨of_okAnd (by decide +kernel), of_error (by decide +kernel), by decide +kernel⟩

/-- An admin command of a function with these operands, at their byte offsets. -/
def command (fn opc : Nat) (l : List (Nat × Nat)) : AdminCmd :=
  { fn := fn, opc := BitVec.ofNat 8 opc, cid := 7, ops := BitVec.ofNat 448 (l.foldl (fun n e => n + e.2 * 2 ^ (8 * (e.1 - 8))) 0) }

/-- Contexts 0 and 1 of function 1, which owns them; it exports region 9. -/
def owning : State :=
  ({ State.reset with ctxs := [(0, { live := true, fn := 1 }), (1, { live := true, fn := 1 })] } : State).onFn 1 (fun f => { f with
    exports := [(9, { export9 with ctx := 1 })], semRange := [(0, (6144, 8))] })

theorem witness_ContextCommandsActOnTheirContext :
    let s := owning
    let a (l : List (Nat × Nat)) := command 1 3 l
    let e := a [(8, 9), (9, 15), (10, 1), (13, 0), (16, 0x7000), (24, 0x1000), (32, 6144), (34, 8)]
    let full : State := { State.reset with ctxs := (upto 4096).map (fun n => (n, { live := true })) }
    (arg (a [(40, 4096)]) 40 2 = 4096 ∧ arg (a [(40, 4096), (8, 256)]) 8 2 = 256 ∧ arg (a [(8, 257)]) 8 2 = 257) ∧ (s.ctx 2).live = false ∧
    (s.ctx 1).live = true ∧ (s.ctx 1).fn = 1 ∧ (s.ctx 1).destroying = none ∧ full.ctxs.length = 4096 ∧
    (s.exportOf e).isSome = true ∧ arg e 9 1 % 2 = 1 ∧ arg (a [(8, 9)]) 9 55 = 0 ∧ arg (a [(9, 2)]) 9 55 ≠ 0 ∧ (s.fn 1).switching = none ∧ s.hyperBusy 1 = false ∧
    (16 ≤ arg (a [(9, 17)]) 9 1 ∧ arg (a [(9, 17)]) 9 1 % 2 = 1) ∧ (s.onCtx 1 (fun x => { x with destroying := some 7 })).exportOf e = none ∧
    s.gangs = [] ∧ s.hostsAtoms = [] ∧ (s.onFn 1 (fun f => { f with switching := some (0, 1, 7) })).hyperBusy 1 = false ∧ arg (a [(24, 1)]) 24 8 = 1 := by decide +kernel

/-- A descriptor of function 1 with cluster 0, group 0 and a way in die 0, in PF memory at 0x8000. -/
def describing (extra : Nat × Nat) : State :=
  let bs : List Byte := (upto 256).map (fun i => BitVec.ofNat 8 ([(0, 1), (8, 1), (16, 8), (80, 1), (88, 1), extra].foldl (fun n e => if e.1 = i then e.2 else n) 0))
  { State.reset with mem := (bs.zipIdx.filter (fun e => decide (e.1 ≠ 0))).map (fun e => (0x8000 + e.2, e.1)), keys := [(1, 5)] }

theorem witness_PartitionCommandsSetAndQuery :
    let cmd := command 0 0x40 [(8, 1), (16, 0x8000)]
    let ok (s : State) (f : List Byte → Bool) : Bool := (s.gpaRead 0 (arg cmd 16 8) 256).any f
    ok (describing (2, 0)) (fun b => !descReserved b && !(describing (2, 0)).partBad 1 (partOf b)) = true ∧
    ok (describing (16, 0)) (fun b => (partOf b).clusters.getLsbD 0 && decide (sget 0 (partOf b).tickets 0 = 0)) = true ∧
    ok (describing (80, 0)) (fun b => (partOf b).pcg.getLsbD 0 && decide ((partOf b).way 0 = 0)) = true ∧
    (State.reset.gpaRead 0 (2 ^ 48) 256).isNone = true ∧ (State.reset.gpaWrite 0 0x8000 256 (State.reset.descBytes 1)).isSome = true ∧
    arg (command 0 0x40 [(8, 64)]) 8 2 = 64 ∧ ((describing (2, 0)).fn 1).switching = none ∧
    (((describing (2, 0)).onFn 1 (fun f => { f with switching := some (0, 1, 7) })).fn 1).switching ≠ none ∧ (describing (2, 0)).pending = [] ∧
    (let q : Pending := { cmd := cmd, begun := true }
     q.begun = true ∧ q.cmd.opc = 0x40 ∧ arg q.cmd 8 2 = 1) := by decide +kernel

/-- Operands at the ends of their ranges for each table command; the dirty log armed, full and not; transfers outstanding. -/
theorem witness_TableCommandsSetTheirEntry :
    let a (l : List (Nat × Nat)) := command 0 0x49 l
    let d (x : DirtyLog) : State := State.reset.onFn 1 (fun f => { f with dlog := x })
    let y : Transfer := { core := 0, ring := 5, seq := 0, fn := 0, peer := 5, xfer := 4 }
    (arg (a [(8, 250), (12, 5)]) 8 4 = 250 ∧ arg (a [(8, 16000), (12, 1000)]) 12 4 = 1000 ∧ arg (a [(8, 249)]) 8 4 < 250) ∧
    (arg (a [(8, 1), (10, 63), (12, 0x1FFFF)]) 12 4 / 2 ^ 15 % 4 = 3 ∧ arg (a [(12, 0x17FFF)]) 12 4 / 2 ^ 15 % 4 ≠ 3) ∧
    ((65536 : Nat) - 8 + 8 ≤ 65536 ∧ ¬(6144 < (6144 : Nat))) ∧ ((arg (a [(16, 3)]) 16 8).testBit 1 = true ∧ ¬(4 ≤ (3 : Nat))) ∧
    (arg (a [(10, 8), (11, 1), (16, 0x8000)]) 10 1 = 8 ∧ arg (a [(10, 20)]) 10 1 = 20) ∧ State.reset.config.fabricOn = true ∧
    (State.reset.fn 0).s2root = none ∧ ((d {}).fn 1).dlog.armed = none ∧ ((d { armed := some 7 }).fn 1).dlog.armed = some 7 ∧
    (let l := ((d { en := true, log2n := 8, tail := 255, armed := some 7 }).fn 1).dlog
     l.en = true ∧ (l.tail + 1) % 2 ^ l.log2n = l.head % 2 ^ l.log2n ∧ (l.tail + 1) % 2 ^ l.log2n = (d {}).pfVal 8 4 % 2 ^ l.log2n) ∧
    ((d { en := true, log2n := 8, ring := 0x8000 }).pfVal 0x8008 4 = 0) ∧ y.done = false ∧
    (∃ z ∈ (exporting export9).fns, ∃ y ∈ z.2.exports, y.2.valid = true) ∧ State.reset.fns = [] ∧ State.reset.fabric.transfers = [] := by
  decide +kernel

/-- Keys, windows and second-tier frames at the ends of their ranges. -/
theorem witness_MemoryCommandsReinitialiseFrames :
    let a (l : List (Nat × Nat)) := command 0 0x45 l
    let s : State := ({ State.reset with config := { frames := [(3, 16)] } } : State).onFn 1 (fun f => { f with
      part := { f.part with valid := true, pcg := 1, ways := [(0, 1)] }, semRange := [(0, (6144, 8))] })
    let w : Window := { owner := 1, home := 0, readers := 0, frame0 := 0, count := 1, sem := 6151 }
    let make := a [(8, 63), (9, 1), (12, 0), (24, 1), (28, 6151)]
    arg (a [(8, 63), (9, 2)]) 9 1 = 2 ∧ (s.fn 63).part.valid = false ∧ (s.fn 1).part.valid = true ∧ arg (a [(8, 1), (32, 5)]) 32 32 = 5 ∧
    s.winBad make = false ∧ s.winBad (a [(8, 63), (9, 1), (24, 0), (28, 6151)]) = true ∧ s.window 63 = none ∧
    State.window { s with windows := [(63, w)] } 63 = some w ∧ (s.start.ports.getLsbD 3 = false ∧ ¬(sget 0 s.config.frames 3 < 15 + 1) ∧ sget 0 s.config.frames 3 < 16 + 1) ∧
    ((s.onQueue 0 0 (fun q => { q with en := true })).queue 0 0).en = true ∧ (s.queue 0 0).base.getLsbD 63 = false := by decide +kernel

/-- A die that is being reset and one that is not, owned and not; a package and a result in PF memory; a report; a test VF. -/
theorem witness_DieCommandsBeginOrReport :
    let s := State.reset
    let o := s.onFn 1 (fun f => { f with part := { f.part with valid := true, test := true, clusters := 2 ^ 31 } })
    (∃ e ∈ State.dieResets { s with dieResets := [(3, some 7)] }, e.1 = 3 ∧ e.2 ≠ none) ∧ s.dieResets = [] ∧ o.ownsCluster 1 31 = true ∧
    (s.gpaRead 0 0x8000 4096).isSome = true ∧ (s.gpaRead 0 (2 ^ 48 - 4095) 4096).isNone = true ∧ (o.fn 1).part.valid = true ∧ (o.fn 1).part.test = true ∧
    arg (command 0 0x62 [(8, 1), (10, 4)]) 10 2 = 4 ∧ s.fns = [] := by decide +kernel

/-- A strand's turn with its word fetched, an engine's turn with a word and with a confirmation that is due, an event that is due, inputs
accepted and not. -/
theorem witness_StepRunsTheDecodedInstruction :
    let s := State.reset.withFetchWord 32 0x04310500
    let u := s.advance
    let m : State := { s with tick := 1 }
    let e : State := { ringed 5 0 {} with tick := 1, actor := { core := 0, unit := 6 } }
    let f : State := { ringed 5 0 { flight := [{ seq := 0 }], next := 1 } with tick := 1, actor := { core := 0, unit := 6 } }
    let p : State := { State.reset with cores := [(0, { resident := true, strand := { status := .waitFault 0 } })], gangs := [gang0 .running [0]] }
    (m.inputs = [] ∧ m.advance.power = [] ∧ m.advance.me.saveBegun = false ∧ m.advance.tick % 2 = 0 ∧ m.advance.me.resident = true ∧ m.advance.me.inReset = false ∧ m.advance.actor.unit = 0 ∧
      m.advance.me.strand.issues = true ∧ (∃ t, m.advance.transOn 0 m.advance.me.strand.pc.toNat .fetch = .ok t ∧
        (okIs (m.advance.accessCheck 0 (some 0) t m.advance.me.strand.pc.toNat 4 false) () &&
          decodesTo (BitVec.ofNat 32 (ofBytes (m.advance.readVia t m.advance.me.strand.pc.toNat 4))) (.add 3 4 5)) = true)) ∧
    (e.advance.actor.unit = 6 ∧ (e.advance.me.ring 5).flight.length < 4 ∧ markDone (e.advance.mark 0 5 0) = false ∧ (e.advance.me.ring 5).confirmDue 5 0 = false ∧ (e.advance.me.ring 5).wait.moves = true ∧
      (e.advance.me.ring 5).next ≠ (e.advance.me.ring 5).rtail ∧ (e.advance.me.ring 5).pendx = false) ∧
    (let d : State := { ringed 5 (2 ^ 63) {} with tick := 1, actor := { core := 0, unit := 6 } }
     d.advance.me.strand.status ≠ .saved ∧ (d.advance.me.ring 5).next ≠ (d.advance.me.ring 5).rtail ∧ markDone (d.advance.mark 0 5 0) = true) ∧
    errorOrder (.pauseEnd 0) = none ∧ u.accepts (.uncorrectableError 0 5 { cause := 0x24, kind := 10, unit := 0, fn := 0, addr := 0 }) = true ∧
    (f.advance.me.ring 5).confirmDue 5 0 = true ∧ p.advance.tick % 2 ≠ 0 ∧
    u.accepts (.stallSample 0 0 0 0) = true ∧ u.accepts (.pauseEnd 0) = false := by
  refine ⟨⟨by decide +kernel, by decide +kernel, by decide +kernel, by decide +kernel, by decide +kernel, by decide +kernel, by decide +kernel,
    by decide +kernel, of_okAnd (by decide +kernel)⟩, by decide +kernel⟩

/-- An event that is due: a PAUSE whose cycle has come. -/
theorem witness_event_due :
    let s : State := { State.reset with cores := [(0, { resident := true, strand := { status := .paused, wakeAt := 0 } })] }
    (match s.due with | some (.instr i) => decide (i = .pauseEnd 0) | _ => false) = true := by decide +kernel

/-- Well-formed instructions with an encoding, and memories in canonical form. -/
theorem witness_encodings :
    (Instr.add 63 63 63).wf = true ∧ (encodeStrand (.add 63 63 63)).isSome = true ∧ (encodeEngine (.vadd {})).isSome = true ∧
    engineRing (.vadd {}) = some 0 ∧ engineRing (.ccopy {}) = some 2 ∧ Memory.wf State.reset.mem = true ∧ Memory.wf State.reset.hostMem = true := by
  decide +kernel

/-- Flits of each TYPE in order, behind, ahead of the SEQ expected; their bytes whole, with one byte to correct, and cut short. -/
theorem witness_FlitsAreReceivedInOrder :
    let f : Flit := { vc := 1, vftag := 3, seq := 4095, ackSeq := 7, crvc := 5, crcnt := 9, body := List.replicate 16 0 ++ 0xFF :: List.replicate 211 0 }
    let s (q : Port) : State := { State.reset with fabric := { ports := [(35, q)] } }
    let q : Port := { rxSeq := 4095, replay := [{ seq := 6 }, { seq := 7 }, { seq := 8 }] }
    readFlit f.bytes = some (f, false) ∧ readFlit (f.bytes.set 20 1) = some (f, true) ∧ readFlit (f.bytes.drop 1) = none ∧
    readFlit { f with type := 2 }.bytes = some ({ f with type := 2 }, false) ∧ readFlit { f with rsv := 1 }.bytes = none ∧
    ((s q).port 35).retired = false ∧ (s q).config.fabricOn = true ∧ ((s q).port 35).retraining = false ∧ ((s q).port 35).txq = [] ∧
    q.replay = [{ seq := 6 }] ++ ({ seq := 7 } : Flit) :: [{ seq := 8 }] ∧ (∀ z ∈ [({ seq := 6 } : Flit)], z.seq ≠ 7) ∧ q.replay.length < 1024 ∧
    ((s { q with retraining := true }).port 35).retraining = true ∧ (s q).fabric.transfers = [] ∧
    ¬((32 + ofBytes ((f.body.drop 16).take 2)) ≤ f.body.length) ∧
    32 + ofBytes (((List.replicate 228 (0 : Byte)).drop 16).take 2) ≤ (List.replicate 228 (0 : Byte)).length := by decide +kernel

/-- A transfer whose SIGNAL has been answered, a page with a poisoned line; an entry with and without a packet checked against it; an
AtomicOp outstanding inside a range and outside; a log's ring page that nothing has written; a die whose clock is being switched. -/
theorem witness_MoreOfTheHost :
    let s := exporting export9
    let i : Incoming := { peer := 5, xfer := 4, fn := 0, answered := some 3 }
    let p : Packet := { type := 1, srcPeer := 5, region := 9, len := 2, payload := [1, 2], xfer := 4 }
    let bad : State := { s.writePa .dev 0x3000 [1] with poison := [(0xC0, 0xC1)] }
    let held : State := { s with fabric := { held := [{ port := 0, vc := 1, vftag := 3, pkt := p, entry := some export9 }] } }
    let a : HostsAtom := { core := 0, addr := 0x3000, va := 0x7000, base := 0x6000, size := 0x2000, w := 8, op := 0, d := 1, v := 0, cmp := 0 }
    let z : State := { at0 [] with hostsAtoms := [a] }
    let o : State := { State.reset with power := [(0, { phase := .switchingUp })] }
    (∃ e, bad.pagesFor 0 0 20 0x7000 2 = .error e ∧ (match e with | .integrity d => decide (d / 64 = 0xC0) | _ => false) = true) ∧
    (State.incomingOf { s with fabric := { incoming := [i] } } 5 4).bind Incoming.answered = some 3 ∧
    (s.incomingOf 5 4).bind Incoming.answered = none ∧ held.oldChecks 0 9 0 = true ∧ s.oldChecks 0 9 0 = false ∧
    (∃ x ∈ z.hostsAtoms, (z.core x.core).fn = 0 ∧ (z.core x.core).ctx = 0 ∧ x.base < 0x7FF8 + 8 ∧ 0x7FF8 < x.base + x.size) ∧ s.hostsAtoms = [] ∧
    (State.reset.fn 0).s2root = none ∧ 0x8000 + 24 < 2 ^ 48 ∧ State.reset.keyOk 0 0 0x8000 .dev = true ∧ State.reset.lostGroup 0x8000 = false ∧
    State.reset.poisoned (0x8000 / 64) = false ∧ (State.reset.page (0x8000 / 4096)).minor 0 < 100 ∧ State.reset.counters = [] ∧
    o.switchingDie = some 0 ∧ State.reset.switchingDie = none :=
  ⟨of_errAnd (by decide +kernel), by decide +kernel⟩

end Sys2Proof.Tests
end

/-! ## Scalar integer instructions (R291 to R294)

Each instruction writes a function of its operands through `State.alu` or `State.alu1`, so a statement about it falls into
the fact that `exec` runs that function (`rfl`) and an equation between 64-bit values, proved below about words alone. -/

namespace Sys2Proof.Machine

section ScalarIntegers

variable {i : Instr} {s : State} {d a b : Reg} {v : Word}

/-- An instruction whose meaning is `State.alu` writes the value of its function at s[a] and s[b]. -/
theorem writesReg_alu {f : Word → Word → Word} (h : exec i s = s.alu d a b f) (e : f (s.get a) (s.get b) = v) :
    WritesReg i s d v := writesReg_result h e

/-- An instruction whose meaning is `State.alu1` writes the value of its function at s[a]. -/
theorem writesReg_alu1 {f : Word → Word} (h : exec i s = s.alu1 d a f) (e : f (s.get a) = v) :
    WritesReg i s d v := writesReg_result h e

end ScalarIntegers

/-! ### Values of Table 16-1 -/

/-- A condition as 1 or 0. -/
@[simp] theorem bit_decide (p : Prop) [Decidable p] : bit (decide p) = if p then 1 else 0 := by
  by_cases h : p <;> simp [bit, h]

theorem bit_slt (x y : Word) : bit (x.slt y) = if x.toInt < y.toInt then 1 else 0 := by
  rw [BitVec.slt_eq_decide, bit_decide]

theorem bit_ult (x y : Word) : bit (x.ult y) = if x.toNat < y.toNat then 1 else 0 := by
  rw [BitVec.ult_eq_decide, bit_decide]

theorem ite_slt (x y u v : Word) : (if x.slt y then u else v) = if x.toInt < y.toInt then u else v :=
  ite_congr (propext BitVec.slt_iff_toInt_lt) (fun _ => rfl) (fun _ => rfl)

theorem ite_ult (x y u v : Word) : (if x.ult y then u else v) = if x.toNat < y.toNat then u else v :=
  ite_congr (propext BitVec.ult_iff_lt) (fun _ => rfl) (fun _ => rfl)

theorem word_add_eq_ofNat (x y : Word) : x + y = BitVec.ofNat 64 (x.toNat + y.toNat) := by
  rw [BitVec.ofNat_add, BitVec.ofNat_toNat, BitVec.ofNat_toNat, BitVec.setWidth_eq, BitVec.setWidth_eq]

theorem word_sub_eq_ofInt (x y : Word) : x - y = BitVec.ofInt 64 ((x.toNat : Int) - y.toNat) := by
  apply BitVec.eq_of_toNat_eq
  rw [BitVec.toNat_sub, BitVec.toNat_ofInt]
  omega

theorem word_mul_eq_ofNat (x y : Word) : x * y = BitVec.ofNat 64 (x.toNat * y.toNat) := by
  rw [BitVec.ofNat_mul, BitVec.ofNat_toNat, BitVec.ofNat_toNat, BitVec.setWidth_eq, BitVec.setWidth_eq]

theorem word_shiftLeft_eq_ofNat (x : Word) (n : Nat) : x <<< n = BitVec.ofNat 64 (x.toNat * 2 ^ n) := by
  apply BitVec.eq_of_toNat_eq
  rw [BitVec.toNat_shiftLeft, BitVec.toNat_ofNat, Nat.shiftLeft_eq]

theorem word_ushiftRight_eq_ofNat (x : Word) (n : Nat) : x >>> n = BitVec.ofNat 64 (x.toNat / 2 ^ n) := by
  rw [← Nat.shiftRight_eq_div_pow, ← BitVec.toNat_ushiftRight, BitVec.ofNat_toNat, BitVec.setWidth_eq]

theorem word_sshiftRight_eq_ofInt (x : Word) (n : Nat) : x.sshiftRight n = BitVec.ofInt 64 (x.toInt / 2 ^ n) := by
  rw [← BitVec.ofInt_toInt (x := x.sshiftRight n), BitVec.toInt_sshiftRight, Int.shiftRight_eq_div_pow]
  exact congrArg (fun p => BitVec.ofInt 64 (x.toInt / p)) (Int.natCast_pow 2 n)

/-! ### Counting bits -/

theorem clz64_le (v : Nat) : clz64 v ≤ 64 := by
  unfold clz64
  split <;> omega

/-- The bits above the highest set one are zero. -/
theorem getLsbD_false_of_lt_clz64 (x : Word) (k : Nat) (h : k < clz64 x.toNat) : x.getLsbD (63 - k) = false := by
  rw [← BitVec.testBit_toNat]
  by_cases hx : x.toNat = 0
  · rw [hx, Nat.zero_testBit]
  · apply Nat.testBit_lt_two_pow
    rw [clz64, if_neg hx] at h
    exact (Nat.log2_lt hx).mp (by omega)

/-- After the leading zeros comes a set bit. -/
theorem getLsbD_clz64 (x : Word) (h : clz64 x.toNat < 64) : x.getLsbD (63 - clz64 x.toNat) = true := by
  have hx : x.toNat ≠ 0 := by
    intro e
    simp [clz64, e] at h
  have hl : x.toNat.log2 < 64 := (Nat.log2_lt hx).mpr x.isLt
  rw [clz64, if_neg hx, show 63 - (63 - x.toNat.log2) = x.toNat.log2 by omega, ← BitVec.testBit_toNat]
  exact Nat.testBit_log2 hx

theorem ctzLoop_le (n : Nat) : ∀ v, ctzLoop n v ≤ n := by
  induction n with
  | zero => exact fun _ => Nat.le_refl 0
  | succ n ih =>
    intro v
    have := ih (v / 2)
    unfold ctzLoop
    split <;> omega

/-- The bits below the first set one are zero. -/
theorem testBit_false_of_lt_ctzLoop (n : Nat) : ∀ v k, k < ctzLoop n v → v.testBit k = false := by
  induction n with
  | zero => exact fun v k h => absurd h (Nat.not_lt_zero k)
  | succ n ih =>
    intro v k h
    by_cases hv : v % 2 = 1
    · simp [ctzLoop, hv] at h
    · rw [ctzLoop, if_neg hv] at h
      cases k with
      | zero => simp [hv]
      | succ k => rw [Nat.testBit_add_one]; exact ih (v / 2) k (by omega)

/-- After the trailing zeros comes a set bit. -/
theorem testBit_ctzLoop (n : Nat) : ∀ v, ctzLoop n v < n → v.testBit (ctzLoop n v) = true := by
  induction n with
  | zero => exact fun v h => absurd h (Nat.not_lt_zero _)
  | succ n ih =>
    intro v h
    by_cases hv : v % 2 = 1
    · simp [ctzLoop, hv]
    · rw [ctzLoop, if_neg hv] at h ⊢
      rw [Nat.add_comm 1, Nat.testBit_add_one]
      exact ih (v / 2) (by omega)

/-- The population count is the number of set bits. -/
theorem popLoop_eq_length (n : Nat) : ∀ v : Nat, popLoop n v = ((List.range n).filter (fun k => v.testBit k)).length := by
  induction n with
  | zero => exact fun _ => rfl
  | succ n ih =>
    intro v
    have hs : (fun k => v.testBit k) ∘ Nat.succ = fun k => (v / 2).testBit k := funext fun k => Nat.testBit_add_one v k
    rw [popLoop, ih, List.range_succ_eq_map, List.filter_cons, List.filter_map, hs, Nat.testBit_zero]
    by_cases hv : v % 2 = 1
    · simp [hv, Nat.add_comm]
    · simp [Nat.mod_two_ne_one.mp hv]

/-! ### Extensions -/

/-- The signed value of the low bits of a word is that of the word cut to them. -/
theorem sint_eq_toInt_setWidth (n : Nat) (x : Word) : sint (n + 1) x.toNat = (x.setWidth (n + 1)).toInt := by
  have hp : 2 ^ (n + 1) = 2 * 2 ^ n := Nat.pow_succ'
  rw [sint, BitVec.toInt_eq_toNat_cond, BitVec.toNat_setWidth, Nat.add_sub_cancel]
  exact ite_congr (propext (by omega)) (fun _ => rfl) (fun _ => rfl)

theorem sextW_eq_signExtend (w : Nat) (x : Word) : sextW w x = (x.setWidth (8 * 2 ^ w)).signExtend 64 := by
  have hpos : 0 < 8 * 2 ^ w := Nat.mul_pos (by decide) (Nat.two_pow_pos w)
  obtain ⟨n, hn⟩ : ∃ n, 8 * 2 ^ w = n + 1 := Nat.exists_eq_succ_of_ne_zero (Nat.ne_of_gt hpos)
  rw [sextW, hn, sint_eq_toInt_setWidth]
  rfl

theorem zextW_eq_setWidth (w : Nat) (x : Word) : zextW w x = (x.setWidth (8 * 2 ^ w)).setWidth 64 := by
  rw [zextW, ← BitVec.toNat_setWidth, BitVec.ofNat_toNat]

/-! ### Division (Table 16-2) -/

/-- The one quotient that 64 bits do not hold wraps to the dividend. -/
theorem sdiv64_eq (x y : Word) : sdiv64 x y = if y = 0 then -1
    else if x = 0x8000000000000000 ∧ y = -1 then 0x8000000000000000 else BitVec.ofInt 64 (x.toInt.tdiv y.toInt) := by
  unfold sdiv64
  refine ite_congr rfl (fun _ => rfl) (fun _ => ?_)
  split
  next h => obtain ⟨rfl, rfl⟩ := h; decide
  next => rfl

theorem srem64_eq (x y : Word) : srem64 x y = if y = 0 then x
    else if x = 0x8000000000000000 ∧ y = -1 then 0 else BitVec.ofInt 64 (x.toInt.tmod y.toInt) := by
  unfold srem64
  refine ite_congr rfl (fun _ => rfl) (fun _ => ?_)
  split
  next h => obtain ⟨rfl, rfl⟩ := h; decide
  next => rfl

theorem udiv64_eq (x y : Word) : udiv64 x y = if y = 0 then -1 else BitVec.ofNat 64 (x.toNat / y.toNat) := by
  rw [udiv64, ← BitVec.toNat_udiv, BitVec.ofNat_toNat, BitVec.setWidth_eq]
  rfl

theorem urem64_eq (x y : Word) : urem64 x y = if y = 0 then x else BitVec.ofNat 64 (x.toNat % y.toNat) := by
  rw [urem64, ← BitVec.toNat_umod, BitVec.ofNat_toNat, BitVec.setWidth_eq]

/-! ### Immediates (Table 16-3) -/

theorem toInt_simm14 (imm : BitVec 14) : (simm14 imm).toInt = imm.toInt :=
  BitVec.toInt_signExtend_of_le (by decide)

theorem word_add_simm14 (x : Word) (imm : BitVec 14) : x + simm14 imm = BitVec.ofInt 64 (x.toNat + imm.toInt) := by
  rw [BitVec.ofInt_add, BitVec.ofInt_natCast, BitVec.ofNat_toNat, BitVec.setWidth_eq]
  rfl

/-- The low 44 bits above a 20-bit constant: the old bits [63:44] leave at the top (R294). -/
theorem extractLsb'_append_eq_ofNat (x : Word) (imm : BitVec 20) :
    x.extractLsb' 0 44 ++ imm = BitVec.ofNat 64 (x.toNat * 2 ^ 20 + imm.toNat) := by
  apply BitVec.eq_of_toNat_eq
  rw [BitVec.toNat_append, ← Nat.shiftLeft_add_eq_or_of_lt imm.isLt, BitVec.extractLsb'_toNat, BitVec.toNat_ofNat,
    Nat.shiftRight_zero, Nat.shiftLeft_eq]
  have := imm.isLt
  omega

/-! ### The statements -/

/-- Settles O1: each member writes a function of its operands (`State.alu`, `State.alu1`), whose value is the table's. -/
theorem integerOperationsWriteTableValue : Obligations.IntegerOperationsWriteTableValue := by
  unfold Obligations.IntegerOperationsWriteTableValue
  refine ⟨fun d a b s => ⟨?add, ?sub, ?and, ?or, ?xor, ?andn, ?sll, ?srl, ?sra, ?mul, ?mulhu, ?mulhs, ?min, ?max, ?minu, ?maxu,
    ?slt, ?sltu, ?seq⟩, fun d a s => ⟨?clz, ?ctz, ?popc⟩, fun d a s => ⟨?sextb, ?sexth, ?sextw, ?zextb, ?zexth, ?zextw⟩,
    fun d a b s => ⟨?div, ?rem, ?divu, ?remu⟩⟩
  case add => exact writesReg_alu (f := fun x y => x + y) rfl (word_add_eq_ofNat _ _)
  case sub => exact writesReg_alu (f := fun x y => x - y) rfl (word_sub_eq_ofInt _ _)
  case and => exact writesReg_alu (f := fun x y => x &&& y) rfl rfl
  case or => exact writesReg_alu (f := fun x y => x ||| y) rfl rfl
  case xor => exact writesReg_alu (f := fun x y => x ^^^ y) rfl rfl
  case andn => exact writesReg_alu (f := fun x y => x &&& ~~~y) rfl rfl
  case sll => exact writesReg_alu (f := fun x y => x <<< shAmt y) rfl (word_shiftLeft_eq_ofNat _ _)
  case srl => exact writesReg_alu (f := fun x y => x >>> shAmt y) rfl (word_ushiftRight_eq_ofNat _ _)
  case sra => exact writesReg_alu (f := fun x y => x.sshiftRight (shAmt y)) rfl (word_sshiftRight_eq_ofInt _ _)
  case mul => exact writesReg_alu (f := fun x y => x * y) rfl (word_mul_eq_ofNat _ _)
  case mulhu => exact writesReg_alu (f := mulhu64) rfl rfl
  case mulhs => exact writesReg_alu (f := mulhs64) rfl rfl
  case min => exact writesReg_alu (f := fun x y => if x.slt y then x else y) rfl (ite_slt _ _ _ _)
  case max => exact writesReg_alu (f := fun x y => if y.slt x then x else y) rfl (ite_slt _ _ _ _)
  case minu => exact writesReg_alu (f := fun x y => if x.ult y then x else y) rfl (ite_ult _ _ _ _)
  case maxu => exact writesReg_alu (f := fun x y => if y.ult x then x else y) rfl (ite_ult _ _ _ _)
  case slt => exact writesReg_alu (f := fun x y => bit (x.slt y)) rfl (bit_slt _ _)
  case sltu => exact writesReg_alu (f := fun x y => bit (x.ult y)) rfl (bit_ult _ _)
  case seq => exact writesReg_alu (f := fun x y => bit (decide (x = y))) rfl (bit_decide _)
  case clz =>
    exact ⟨clz64 (s.get a).toNat, writesReg_alu1 (f := fun x => BitVec.ofNat 64 (clz64 x.toNat)) rfl rfl, clz64_le _,
      getLsbD_false_of_lt_clz64 _, getLsbD_clz64 _⟩
  case ctz =>
    exact ⟨ctzLoop 64 (s.get a).toNat, writesReg_alu1 (f := fun x => BitVec.ofNat 64 (ctzLoop 64 x.toNat)) rfl rfl, ctzLoop_le 64 _,
      testBit_false_of_lt_ctzLoop 64 _, testBit_ctzLoop 64 _⟩
  case popc =>
    exact writesReg_alu1 (f := fun x => BitVec.ofNat 64 (popLoop 64 x.toNat)) rfl (congrArg _ (popLoop_eq_length 64 _))
  case sextb => exact writesReg_alu1 (f := sextW 0) rfl (sextW_eq_signExtend 0 _)
  case sexth => exact writesReg_alu1 (f := sextW 1) rfl (sextW_eq_signExtend 1 _)
  case sextw => exact writesReg_alu1 (f := sextW 2) rfl (sextW_eq_signExtend 2 _)
  case zextb => exact writesReg_alu1 (f := zextW 0) rfl (zextW_eq_setWidth 0 _)
  case zexth => exact writesReg_alu1 (f := zextW 1) rfl (zextW_eq_setWidth 1 _)
  case zextw => exact writesReg_alu1 (f := zextW 2) rfl (zextW_eq_setWidth 2 _)
  case div => exact writesReg_alu (f := sdiv64) rfl (sdiv64_eq _ _)
  case rem => exact writesReg_alu (f := srem64) rfl (srem64_eq _ _)
  case divu => exact writesReg_alu (f := udiv64) rfl (udiv64_eq _ _)
  case remu => exact writesReg_alu (f := urem64) rfl (urem64_eq _ _)

/-- Settles O2: each member writes a function of s[a] (`State.alu1`), or of s[d] for LIH, whose value is the table's. -/
theorem immediateFormsWriteTableValue : Obligations.ImmediateFormsWriteTableValue := by
  unfold Obligations.ImmediateFormsWriteTableValue
  refine fun d a imm sh long s => ⟨?addi, ?andi, ?ori, ?xori, ?slti, ?sltiu, ?slli, ?srli, ?srai, ?li, ?lih⟩
  case addi => exact writesReg_alu1 (f := fun x => x + simm14 imm) rfl (word_add_simm14 _ _)
  case andi => exact writesReg_alu1 (f := fun x => x &&& zimm14 imm) rfl rfl
  case ori => exact writesReg_alu1 (f := fun x => x ||| zimm14 imm) rfl rfl
  case xori => exact writesReg_alu1 (f := fun x => x ^^^ zimm14 imm) rfl rfl
  case slti => exact writesReg_alu1 (f := fun x => bit (x.slt (simm14 imm))) rfl (by rw [bit_slt, toInt_simm14])
  case sltiu => exact writesReg_alu1 (f := fun x => bit (x.ult (simm14 imm))) rfl (bit_ult _ _)
  case slli => exact writesReg_alu1 (f := fun x => x <<< sh.toNat) rfl (word_shiftLeft_eq_ofNat _ _)
  case srli => exact writesReg_alu1 (f := fun x => x >>> sh.toNat) rfl (word_ushiftRight_eq_ofNat _ _)
  case srai => exact writesReg_alu1 (f := fun x => x.sshiftRight sh.toNat) rfl (word_sshiftRight_eq_ofInt _ _)
  case li => exact writesReg_result (v := long.signExtend 64) rfl rfl
  case lih =>
    exact writesReg_result (v := (s.get d).extractLsb' 0 44 ++ long) rfl (extractLsb'_append_eq_ofNat _ _)

end Sys2Proof.Machine

/-! ## Branches and jumps (R298, R299) -/

namespace Sys2Proof.Machine

/-- An instruction whose meaning is `State.branch` jumps where its condition holds and retires where it does not (R298). -/
theorem branch_takes {i : Instr} {s : State} {a b : Reg} {off : BitVec 14} {c : Prop} (f : Word → Word → Bool)
    (h : exec i s = s.branch a b off f) (e : f (s.get a) (s.get b) = true ↔ c) :
    (c → Jumps i s (pcAdd s.strand.pc off.toInt)) ∧ (¬c → exec i s = .next s.retire) := by
  unfold State.branch at h
  constructor
  · intro hc
    rw [if_pos (e.mpr hc)] at h
    exact jumps_jump h
  · intro hc
    rwa [if_neg (mt e.mp hc)] at h

theorem linkOf_eq_ofNat (pc : Va) : linkOf pc = BitVec.ofNat 64 ((pc.toNat + 4) % 2 ^ 57) := by
  have hp : pcAdd pc 1 = BitVec.ofNat 57 (pc.toNat + 4) := BitVec.ofInt_natCast 57 (pc.toNat + 4)
  rw [linkOf, hp, ← BitVec.toNat_ofNat, BitVec.ofNat_toNat]

/-- A jump leaves the scalar registers alone. -/
@[simp] theorem State.get_jump (s : State) (p : Va) (r : Reg) : (s.jump p).get r = s.get r := by
  rw [State.get, State.jump, State.strand_onStrand]
  rfl

/-- An instruction that writes the link value and jumps links and jumps (R299). -/
theorem links_set_jump {i : Instr} {s : State} {d : Reg} {p : Va}
    (h : exec i s = .next ((s.set d (linkOf s.strand.pc)).jump p)) : Links i s d p := by
  obtain ⟨hset, hstrand, -⟩ := OnlyRegs.set s d (linkOf s.strand.pc)
  obtain ⟨hjump, hpc⟩ := (s.set d (linkOf s.strand.pc)).jump_spec p
  refine ⟨_, h, ?_, hset.trans hjump, ?_, fun r hr => ?_⟩
  · rw [State.get_jump, State.get_set_same, linkOf_eq_ofNat]
  · rw [hpc, hstrand]
  · rw [State.get_jump, State.get_set_other s d r _ hr]

theorem jalrTarget_eq_ofInt (base : Word) (imm : BitVec 14) :
    jalrTarget base imm = BitVec.ofInt 64 (base.toNat + 4 * imm.toInt) := by
  have h4 : BitVec.twoPow 64 2 = BitVec.ofInt 64 4 := by decide
  rw [jalrTarget, BitVec.shiftLeft_eq_mul_twoPow, h4, BitVec.mul_comm, BitVec.ofInt_add, BitVec.ofInt_mul,
    BitVec.ofInt_natCast, BitVec.ofNat_toNat, BitVec.setWidth_eq]
  rfl

/-- The target of a JALR as the integer of R299. -/
theorem toNat_jalrTarget (base : Word) (imm : BitVec 14) :
    ((jalrTarget base imm).toNat : Int) = (base.toNat + 4 * imm.toInt) % 2 ^ 64 := by
  rw [jalrTarget_eq_ofInt, BitVec.toNat_ofInt]
  omega

/-- JALR by its target, which it computes before it writes s[d]. -/
theorem exec_jalr (d a : Reg) (imm : BitVec 14) (s : State) : exec (.jalr d a imm) s =
    if (jalrTarget (s.get a) imm).toNat % 4 ≠ 0 then .next (s.trap 3 (jalrTarget (s.get a) imm).toNat)
    else .next ((s.set d (linkOf s.strand.pc)).jump ((jalrTarget (s.get a) imm).setWidth 57)) := rfl

/-- Settles O5: the branches by their conditions, JAL and JALR by the state that links and jumps. -/
theorem branchesAndJumpsSetPc : Obligations.BranchesAndJumpsSetPc := by
  unfold Obligations.BranchesAndJumpsSetPc
  refine ⟨fun a b off s => ⟨?beq, ?bne, ?blt, ?bge, ?bltu, ?bgeu⟩, fun d a off imm s => ⟨?jal, ?jalr, ?misaligned⟩⟩
  case beq => exact branch_takes (fun x y => decide (x = y)) rfl decide_eq_true_iff
  case bne => exact branch_takes (fun x y => decide (x ≠ y)) rfl decide_eq_true_iff
  case blt => exact branch_takes (fun x y => x.slt y) rfl BitVec.slt_iff_toInt_lt
  case bge => exact branch_takes (fun x y => !x.slt y) rfl (by simp [BitVec.slt_eq_decide])
  case bltu => exact branch_takes (fun x y => x.ult y) rfl BitVec.ult_iff_lt
  case bgeu => exact branch_takes (fun x y => !x.ult y) rfl (by simp [BitVec.ult_eq_decide])
  case jal => exact links_set_jump rfl
  case jalr =>
    intro h
    rw [← toNat_jalrTarget] at h ⊢
    rw [BitVec.ofInt_natCast, BitVec.ofNat_toNat]
    exact links_set_jump ((exec_jalr d a imm s).trans (if_neg (by omega)))
  case misaligned =>
    intro h
    rw [← toNat_jalrTarget] at h ⊢
    rw [Int.toNat_natCast]
    exact (exec_jalr d a imm s).trans (if_pos (by omega))

end Sys2Proof.Machine

/-! ## Rounded elements fit their format (R217)

A vector word writes what `roundVal` gives; that it reads back needs the code to have no more bits than the format. -/

namespace Sys2Proof.Machine

section EncodedWidth

variable {f : Fmt} {sp : FloatSpec} {n : Nat} {q : Int}

/-- A magnitude that is not above the largest finite one has its leading bit no higher. -/
theorem log2_add_lt_of_not_above (hn : n ≠ 0) (hmax : sp.maxN < 2 ^ sp.p)
    (h : ¬shl sp.maxN (sp.maxE - min sp.maxE q) < shl n (q - min sp.maxE q)) : (n.log2 : Int) + q < sp.p + sp.maxE := by
  have hle : n * 2 ^ (q - min sp.maxE q).toNat ≤ sp.maxN * 2 ^ (sp.maxE - min sp.maxE q).toNat := by
    unfold shl at h
    exact_mod_cast Int.not_lt.mp h
  have hpow : 2 ^ (n.log2 + (q - min sp.maxE q).toNat) < 2 ^ (sp.p + (sp.maxE - min sp.maxE q).toNat) := by
    calc 2 ^ (n.log2 + (q - min sp.maxE q).toNat) = 2 ^ n.log2 * 2 ^ (q - min sp.maxE q).toNat := Nat.pow_add ..
      _ ≤ n * 2 ^ (q - min sp.maxE q).toNat := Nat.mul_le_mul_right _ (Nat.log2_self_le hn)
      _ ≤ sp.maxN * 2 ^ (sp.maxE - min sp.maxE q).toNat := hle
      _ < 2 ^ sp.p * 2 ^ (sp.maxE - min sp.maxE q).toNat := Nat.mul_lt_mul_of_pos_right hmax (Nat.two_pow_pos _)
      _ = 2 ^ (sp.p + (sp.maxE - min sp.maxE q).toNat) := (Nat.pow_add ..).symm
  have := (Nat.pow_lt_pow_iff_right (by decide : 1 < 2)).mp hpow
  omega

/-- The exponent and significand fields of a normalised magnitude fit below the sign. -/
theorem floatBody_lt {k : Nat} (hn : n < 2 ^ (k + 1)) (hq : 2 ^ k ≤ n → q ≤ sp.maxE) (hmin : sp.qmin ≤ sp.maxE) :
    (if n < 2 ^ k then n else (q - sp.qmin + 1).toNat * 2 ^ k + (n - 2 ^ k)) < (sp.maxE - sp.qmin + 2).toNat * 2 ^ k := by
  obtain ⟨e, he⟩ : ∃ e, (sp.maxE - sp.qmin + 2).toNat = e + 1 := ⟨_, (Nat.succ_pred_eq_of_pos (by omega)).symm⟩
  rw [he, Nat.add_one_mul]
  split
  · exact Nat.lt_add_left _ ‹_›
  · have hexp : (q - sp.qmin + 1).toNat ≤ e := by have := hq (by omega); omega
    have := Nat.mul_le_mul_right (2 ^ k) hexp
    rw [Nat.pow_succ] at hn
    omega

/-- The code of a magnitude that is not above the largest finite one has the format's bits. -/
theorem encodeFloat_lt {k b : Nat} (neg : Bool) (hn : n ≠ 0) (hp : sp.p = k + 1) (hb : f.bits = b + 1) (hmax : sp.maxN < 2 ^ sp.p)
    (hmin : sp.qmin ≤ sp.maxE) (hfit : (sp.maxE - sp.qmin + 2).toNat * 2 ^ k ≤ 2 ^ b)
    (h : ¬shl sp.maxN (sp.maxE - min sp.maxE q) < shl n (q - min sp.maxE q)) : encodeFloat f sp neg n q < 2 ^ f.bits := by
  have hlead := log2_add_lt_of_not_above hn hmax h
  have hbody : ∀ m r, m < 2 ^ (k + 1) → (2 ^ k ≤ m → r ≤ sp.maxE) →
      (if m < 2 ^ k then m else (r - sp.qmin + 1).toNat * 2 ^ k + (m - 2 ^ k)) + (if neg then 2 ^ b else 0) < 2 ^ (b + 1) := by
    intro m r hm hr
    have := Nat.lt_of_lt_of_le (floatBody_lt hm hr hmin) hfit
    have hsign : (if neg then 2 ^ b else 0) ≤ 2 ^ b := by split <;> omega
    rw [Nat.pow_succ]
    omega
  unfold encodeFloat
  simp only [hp, hb, Nat.add_sub_cancel] at hlead ⊢
  by_cases hc : k + 1 < n.log2 + 1
  · simp only [hc, if_true]
    refine hbody _ _ ?_ (fun _ => by omega)
    rw [Nat.div_lt_iff_lt_mul (Nat.two_pow_pos _), ← Nat.pow_add, show k + 1 + (n.log2 + 1 - (k + 1)) = n.log2 + 1 by omega]
    exact Nat.lt_log2_self
  · simp only [hc, if_false]
    refine hbody _ _ (Nat.lt_of_lt_of_le Nat.lt_log2_self (Nat.pow_le_pow_right (by decide) (by omega))) (fun hk => ?_)
    have := (Nat.le_log2 hn).mpr hk
    omega

end EncodedWidth

/-- A choice between two numbers below a bound is below it. -/
theorem ite_lt {p : Prop} [Decidable p] {a b n : Nat} (ha : a < n) (hb : b < n) : (if p then a else b) < n := by
  split
  · exact ha
  · exact hb

theorem low_lt (n : Nat) (v : Int) : low n v < 2 ^ n := by
  have hpos : (0 : Int) < ((2 ^ n : Nat) : Int) := Int.natCast_pos.mpr (Nat.two_pow_pos n)
  have hlt := Int.emod_lt_of_pos v hpos
  have hge := Int.emod_nonneg v (Int.ne_of_gt hpos)
  unfold low
  omega

/-- The parameters of FP32 and of BF16 leave room for the sign. -/
theorem encodeFloat_lt_of_spec {f : Fmt} {sp : FloatSpec} (hf : f = .f32 ∨ f = .bf16) (hsp : f.float = some sp) (neg : Bool)
    {n : Nat} {q : Int} (hn : n ≠ 0) (h : ¬decide (shl sp.maxN (sp.maxE - min sp.maxE q) < shl n (q - min sp.maxE q)) = true) :
    encodeFloat f sp neg n q < 2 ^ f.bits := by
  rw [decide_eq_true_eq] at h
  obtain rfl | rfl := hf <;> obtain rfl := Option.some.inj hsp
  · exact encodeFloat_lt (k := 23) (b := 31) neg hn rfl rfl (by decide) (by decide) (by decide) h
  · exact encodeFloat_lt (k := 7) (b := 15) neg hn rfl rfl (by decide) (by decide) (by decide) h

/-- Rounding to FP32 or BF16 gives a code of the format's bits. -/
theorem roundVal_lt_float {f : Fmt} (hf : f = .f32 ∨ f = .bf16) (m : Mode) (sat : Bool) (r : Nat) (x : Val) :
    (roundVal f m sat r x).1 < 2 ^ f.bits := by
  have hnan : (nanCode f).1 < 2 ^ f.bits := by obtain rfl | rfl := hf <;> decide
  have hzero : ∀ neg, zeroCode f neg < 2 ^ f.bits := by obtain rfl | rfl := hf <;> decide
  have hend : ∀ neg, rangeEnd f neg < 2 ^ f.bits := by obtain rfl | rfl := hf <;> decide
  have hinf : ∀ neg, ∀ c ∈ infCode f neg, c < 2 ^ f.bits := by obtain rfl | rfl := hf <;> decide
  cases x with
  | nan => obtain rfl | rfl := hf <;> exact hnan
  | inf neg => obtain rfl | rfl := hf <;> exact hinf neg _ rfl
  | zero neg => obtain rfl | rfl := hf <;> exact hzero neg
  | fin num exp =>
    have henc := fun sp => @encodeFloat_lt_of_spec f sp hf
    obtain rfl | rfl := hf
    all_goals
      unfold roundVal
      simp only [Fmt.float, Bool.false_eq_true, if_false]
      generalize (if roundUp _ _ _ _ _ _ = true then (_ : Nat) else _) = a
      generalize (max _ _ : Int) = q
      split
      · exact hzero _
      · split
        · cases hc : infCode _ (decide (num < 0)) with
          | none => exact hend _
          | some c =>
            dsimp only
            split
            · exact hend _
            · dsimp only
              exact ite_lt (hinf _ c hc) (hend _)
        · exact henc _ rfl _ ‹_› ‹_›

/-- Rounding to I8 gives a byte. -/
theorem roundVal_lt_i8 (m : Mode) (sat : Bool) (r : Nat) (x : Val) : (roundVal .i8 m sat r x).1 < 2 ^ 8 := by
  have hend : ∀ neg, rangeEnd .i8 neg < 2 ^ 8 := by decide
  cases x with
  | nan => exact (by decide : (nanCode .i8).1 < 2 ^ 8)
  | inf neg => exact hend neg
  | zero neg => exact (by decide : ∀ neg, zeroCode .i8 neg < 2 ^ 8) neg
  | fin num exp =>
    unfold roundVal
    dsimp only
    generalize (if roundUp _ _ _ _ _ _ = true then (_ : Nat) else _) = a
    generalize (if decide (num < 0) = true then (_ : Nat) else _) = lim
    split
    · exact hend _
    · exact low_lt 8 _

end Sys2Proof.Machine

/-! ## Elements in a scratchpad (R346)

A vector word writes elements of one, two or four bytes at addresses that are multiples of their size, so none of them passes
the end of the scratchpad, and two at different addresses do not meet. -/

namespace Sys2Proof.Machine

section ScratchElements

variable {s t u : State} {c : Nat}

/-- `t` is `s` but for the scratchpad of core `c`. -/
structure ScratchOnly (s t : State) (c : Nat) : Prop where
  mem : t.mem = s.mem
  hostMem : t.hostMem = s.hostMem
  actor : t.actor = s.actor
  core : ∃ m, t.core c = { s.core c with scratch := m }

theorem ScratchOnly.refl (s : State) (c : Nat) : ScratchOnly s s c := ⟨rfl, rfl, rfl, _, rfl⟩

theorem ScratchOnly.trans (h : ScratchOnly s t c) (k : ScratchOnly t u c) : ScratchOnly s u c := by
  obtain ⟨m, hm⟩ := h.core
  obtain ⟨n, hn⟩ := k.core
  exact ⟨k.mem.trans h.mem, k.hostMem.trans h.hostMem, k.actor.trans h.actor, n, by rw [hn, hm]⟩

theorem ScratchOnly.swrite (s : State) (c a : Nat) (bs : List Byte) : ScratchOnly s (s.swrite c a bs) c := by
  refine ⟨rfl, rfl, rfl, ?_⟩
  unfold State.swrite
  rw [State.core_onCore_same]
  split
  · exact ⟨_, rfl⟩
  · exact ⟨_, rfl⟩

/-- Addresses of the scratchpad wrap at its end. -/
theorem State.sbyte_mod (s : State) (c a : Nat) : s.sbyte c (a % 0x200000) = s.sbyte c a := by
  unfold State.sbyte
  rw [Nat.mod_mod]

theorem State.swrite_mod (s : State) (c a : Nat) (bs : List Byte) : s.swrite c (a % 0x200000) bs = s.swrite c a bs := by
  unfold State.swrite
  rw [Nat.mod_mod]

theorem State.sval_mod (s : State) (c a n : Nat) : s.sval c (a % 0x200000) n = s.sval c a n := by
  unfold State.sval State.sread
  refine congrArg ofBytes (List.map_congr_left fun i _ => ?_)
  rw [← s.sbyte_mod c (a % 0x200000 + i), Nat.mod_add_mod, s.sbyte_mod]

/-- Numbers of scratch bytes agree where the bytes do. -/
theorem State.sval_congr {a n : Nat} (h : ∀ i, i < n → t.sbyte c (a + i) = s.sbyte c (a + i)) : t.sval c a n = s.sval c a n := by
  unfold State.sval State.sread upto
  exact congrArg ofBytes (List.map_congr_left fun i hi => h i (List.mem_range.mp hi))

/-- The elements `(address, value)` of `l`, `w` bytes each, written in order. -/
def State.storeElems (s : State) (c w : Nat) (l : List (Nat × Nat)) : State :=
  l.foldl (fun s e => s.swrite c e.1 (toBytes w e.2)) s

@[simp] theorem State.storeElems_cons (s : State) (c w : Nat) (e : Nat × Nat) (l : List (Nat × Nat)) :
    s.storeElems c w (e :: l) = (s.swrite c e.1 (toBytes w e.2)).storeElems c w l := rfl

theorem ScratchOnly.storeElems (c w : Nat) (l : List (Nat × Nat)) : ∀ s : State, ScratchOnly s (s.storeElems c w l) c := by
  induction l with
  | nil => exact fun s => .refl s c
  | cons e l ih => exact fun s => (ScratchOnly.swrite s c e.1 _).trans (ih _)

/-- An element at a multiple of its size does not pass the end of the scratchpad. -/
theorem aligned_end_le {a w : Nat} (hw : w ∣ 0x200000) (ha : w ∣ a) : a % 0x200000 + w ≤ 0x200000 := by
  obtain ⟨n, hn⟩ := hw
  obtain ⟨k, rfl⟩ := ha
  rw [hn, Nat.mul_mod_mul_left, ← Nat.mul_add_one]
  refine Nat.mul_le_mul_left w (Nat.mod_lt _ (Nat.pos_of_ne_zero fun h => ?_))
  simp [h] at hn

/-- Two elements at different multiples of their size do not meet. -/
theorem aligned_disjoint {a b w : Nat} (ha : w ∣ a) (hb : w ∣ b) (h : a ≠ b) : a + w ≤ b ∨ b + w ≤ a := by
  obtain ⟨i, rfl⟩ := ha
  obtain ⟨j, rfl⟩ := hb
  rw [← Nat.mul_add_one, ← Nat.mul_add_one]
  rcases Nat.lt_or_gt_of_ne (fun e : i = j => h (by rw [e])) with hij | hij
  · exact .inl (Nat.mul_le_mul_left w hij)
  · exact .inr (Nat.mul_le_mul_left w hij)

section Aligned

variable {w : Nat} (hw : w ∣ 0x200000)

include hw

/-- A byte outside an element that is written stays. -/
theorem State.sbyte_swrite_elem_outside (s : State) {a v p : Nat} (ha : w ∣ a) (hp : p < 0x200000)
    (h : p < a % 0x200000 ∨ a % 0x200000 + w ≤ p) : (s.swrite c a (toBytes w v)).sbyte c p = s.sbyte c p := by
  rw [← s.swrite_mod]
  exact State.sbyte_swrite_outside s c _ p _ (by rwa [toBytes_length]) hp (Nat.mod_lt _ (by decide))
    (by rw [toBytes_length]; exact aligned_end_le hw ha)

/-- An element reads back as what was written. -/
theorem State.sval_swrite_elem (s : State) {a v : Nat} (ha : w ∣ a) : (s.swrite c a (toBytes w v)).sval c a w = v % 256 ^ w := by
  have h := State.sread_swrite s c (a % 0x200000) (toBytes w v) (by rw [toBytes_length]; exact aligned_end_le hw ha)
  rw [toBytes_length, s.swrite_mod] at h
  rw [← State.sval_mod, State.sval, h, ofBytes_toBytes]

/-- Bytes outside the elements that are written stay. -/
theorem State.sbyte_storeElems {p : Nat} (hp : p < 0x200000) : ∀ (l : List (Nat × Nat)) (s : State), (∀ e ∈ l, w ∣ e.1) →
    (∀ e ∈ l, p < e.1 % 0x200000 ∨ e.1 % 0x200000 + w ≤ p) → (s.storeElems c w l).sbyte c p = s.sbyte c p := by
  intro l
  induction l with
  | nil => exact fun s _ _ => rfl
  | cons e l ih =>
    intro s ha h
    rw [List.forall_mem_cons] at ha h
    rw [State.storeElems_cons, ih _ ha.2 h.2, s.sbyte_swrite_elem_outside hw ha.1 hp h.1]

/-- An element at an address where none of those written lies stays. -/
theorem State.sval_storeElems_other {a : Nat} (ha : w ∣ a) (l : List (Nat × Nat)) (s : State) (hl : ∀ e ∈ l, w ∣ e.1)
    (h : ∀ e ∈ l, e.1 % 0x200000 ≠ a % 0x200000) : (s.storeElems c w l).sval c a w = s.sval c a w := by
  have hm : ∀ {x}, w ∣ x → w ∣ x % 0x200000 := fun hx => (Nat.dvd_mod_iff hw).mpr hx
  rw [← State.sval_mod, ← s.sval_mod]
  refine State.sval_congr fun i hi => ?_
  have hend := aligned_end_le hw ha
  refine State.sbyte_storeElems hw (by omega) l s hl fun e he => ?_
  have := aligned_disjoint (hm (hl e he)) (hm ha) (h e he)
  omega

/-- The last element written at an address reads back. -/
theorem State.sval_storeElems {f : Nat → Nat × Nat} {n e : Nat} (s : State) (he : e < n) (ha : ∀ i, i < n → w ∣ (f i).1)
    (h : ∀ i, e < i → i < n → (f i).1 % 0x200000 ≠ (f e).1 % 0x200000) :
    (s.storeElems c w ((upto n).map f)).sval c (f e).1 w = (f e).2 % 256 ^ w := by
  induction n with
  | zero => omega
  | succ n ih =>
    have hsplit : s.storeElems c w ((upto (n + 1)).map f) =
        (s.storeElems c w ((upto n).map f)).swrite c (f n).1 (toBytes w (f n).2) := by
      simp [State.storeElems, upto, List.range_succ]
    rw [hsplit]
    by_cases hen : e = n
    · rw [hen]
      exact State.sval_swrite_elem hw _ (ha n (by omega))
    · have := State.sval_storeElems_other (c := c) hw (ha e he) [f n] (s.storeElems c w ((upto n).map f))
        (by simpa using ha n (by omega)) (by simpa using h n (by omega) (by omega))
      rw [← ih (by omega) (fun i hi => ha i (by omega)) (fun i hi hi' => h i hi (by omega))]
      exact this

end Aligned

end ScratchElements

end Sys2Proof.Machine

/-! ## A vector word with nest slot 0 (R141, R152, R347)

The word begins, runs one iteration with zero strides, and joins the unconfirmed words. -/

namespace Sys2Proof.Machine

/-- A word that begins goes on in the state that its await leaves (R141, R144). -/
theorem beginWord_of_begins {s u : State} {c r : Nat} {check : Option Nat} {aw rs : BitVec 10} (h : Begins s u c r check aw rs) :
    s.beginWord c r check aw rs = .go u := by
  obtain ⟨hpend, hlen, hfailed, -, rfl, hsem, hawait⟩ := h
  have hgate : (((s.core c).ring r).stopped || decide (4 ≤ ((s.core c).ring r).flight.length)) = false := by
    unfold Ring.stopped
    rw [Bool.or_eq_false_iff, Bool.and_eq_false_iff]
    exact ⟨hpend.imp id (by simpa using ·), by simpa using hlen⟩
  have htaken : (markAwt (s.mark c r ((s.core c).ring r).next) || markDone (s.mark c r ((s.core c).ring r).next) ||
      decide (semCount aw = 0)) = true ∧ u = s ∨ ∃ k, semCount aw ≠ 0 ∧ (markAwt (s.mark c r ((s.core c).ring r).next) = false ∧
        markDone (s.mark c r ((s.core c).ring r).next) = false) ∧ s.slotSem c (semSlot aw) = some k ∧
        (!s.semQueued k && decide (semCount aw ≤ (s.sem k).toNat)) = true ∧
        u = (s.semWrite k (s.sem k - BitVec.ofNat 32 (semCount aw))).setMark c r ((s.core c).ring r).next
          (markProg (s.mark c r ((s.core c).ring r).next)) true false := by
    obtain ⟨h, rfl⟩ | ⟨hawt, hdone, k, hcount, hslot, hqueue, hval, rfl⟩ := hawait
    · exact .inl ⟨by simpa [or_assoc] using h, rfl⟩
    · exact .inr ⟨k, hcount, ⟨hawt, hdone⟩, hslot, by simp [hqueue, hval], rfl⟩
  unfold State.beginWord
  simp only [hgate, Bool.false_eq_true, if_false, fieldLeft, hsem]
  obtain ⟨h, rfl⟩ | ⟨k, hcount, ⟨hawt, hdone⟩, hslot, hgo, rfl⟩ := htaken
  · simp only [h, if_true]
  · simp only [hawt, hdone, hcount, hslot, hgo, decide_false, Bool.or_self, Bool.false_eq_true, if_false, if_true]

/-! ### Slot 0 -/

theorem levelCount_lntZero : levelCount lntZero 0 = 1 ∧ levelCount lntZero 5 = 1 := by decide +kernel

theorem vlOf_lntZero : vlOf lntZero = 0 := by decide +kernel

theorem lntBad_lntZero : lntBad 0 lntZero = false := by decide +kernel

theorem nestSize_lntZero : nestSize lntZero = 1 := by decide +kernel

/-- The streams of a vector word stay at their start in slot 0, also the one that a reduction writes. -/
theorem streamOff_lntZero {k : Nat} (hk : k < 4) : streamOff lntZero (countersOf lntZero 0) k = 0 ∧
    streamOff lntZero ((countersOf lntZero 0).take 5 ++ [0]) k = 0 :=
  (by decide +kernel : ∀ k, k < 4 → streamOff lntZero (countersOf lntZero 0) k = 0 ∧
    streamOff lntZero ((countersOf lntZero 0).take 5 ++ [0]) k = 0) k hk

theorem counter_lntZero : (countersOf lntZero 0).getD 5 0 = 0 := by decide +kernel

/-- Slot 0 holds no chain (R358). -/
theorem drainSteps_lntZero : drainSteps lntZero = [] := by decide +kernel

theorem chainMfmt_lntZero : chainMfmt lntZero = 0 := by decide +kernel

/-- The vector word `w` of the moving core as it runs with slot 0 and no pipe. -/
def State.slotZeroRun (s : State) (vop : Nat) (w : VWord) : VRun :=
  { c := s.actor.core, seq := (s.me.ring 0).next, seed := s.strand.engSeed, vop := vop, w := w, img := lntZero
    planned := (s.me.thunks.plannedWord 0 (s.me.ring 0).next).isSome }

/-- What the one iteration of the word leaves. -/
def State.slotZeroEnd (s : State) (vop : Nat) (w : VWord) : VSt := (s.slotZeroRun vop w).iterate { s := s } 0

theorem slotZeroRun_all (s u : State) (vop : Nat) (w : VWord) (f : Fmt) (hvop : vop ≠ 0x20) :
    (s.slotZeroRun vop w).all u f = (s.slotZeroRun vop w).iterate { s := u } 0 := by
  have hinner : (s.slotZeroRun vop w).inner = 1 := by
    change (upto 5).foldl (fun n l => n * levelCount lntZero (l + 1)) 1 = 1
    decide +kernel
  unfold VRun.all
  rw [if_neg (show (s.slotZeroRun vop w).vop ≠ 0x20 from hvop)]
  unfold VRun.outer
  rw [hinner, show (s.slotZeroRun vop w).img = lntZero from rfl, levelCount_lntZero.1, levelCount_lntZero.2]
  rfl

/-- A vector word with slot 0, an idle ring, a scratch destination and no pipe operand, that begins at once. -/
structure PlainWord (s : State) (w : VWord) : Prop where
  rsv : w.rsv = 0
  lnt : w.lnt = 0
  dst : w.dst.toNat < 65536
  flight : (s.me.ring 0).flight = []
  jobs : (s.me.ring 0).jobs = []
  begins : Begins s s s.actor.core 0 none w.await w.raise

/-- A word has executed with flags `fl` (R141): its ring goes on, no register and no memory byte changes, and the word is the
only unconfirmed one. -/
def WordEnds (s t : State) (w : VWord) (fl : NumFlags) : Prop :=
  (t.me.ring 0).next = (s.me.ring 0).next + 1 ∧ (∀ r, t.get r = s.get r) ∧ SameMem s t ∧
    ∃ g : Flight, (t.me.ring 0).flight = [g] ∧ g.seq = (s.me.ring 0).next ∧ g.raise = w.raise ∧ g.flags = fl

/-- A field below 2^16 is a scratch operand with its payload (R275). -/
theorem opKind_of_lt {o : BitVec 18} (h : o.toNat < 65536) : opKind o = 0 := by
  unfold opKind field nbits
  rw [Nat.shiftRight_eq_div_pow, Nat.div_eq_of_lt h, Nat.zero_mod]

theorem opPay_of_lt {o : BitVec 18} (h : o.toNat < 65536) : opPay o = o.toNat := by
  unfold opPay field nbits
  exact Nat.mod_eq_of_lt h

section Runs

variable {s : State} {w : VWord} {vop : Nat}

/-- A word without pipe operands finds no pipe. -/
theorem slotZeroRun_pipes (hd : opKind w.dst ≠ 1) (ha : opKind w.a ≠ 1) (hb : opKind w.b ≠ 1) :
    (s.slotZeroRun vop w).pipes s = (.slot 0, .slot 0, .slot 0) := by
  unfold VRun.pipes State.slotZeroRun
  simp [hd, ha, hb]

/-- With slot 0 and no pipe the V engine runs the whole word in one step. -/
theorem runVector_slotZero (hlnt : w.lnt = 0) (hvop : vop < 0x22) (hd : opKind w.dst ≠ 1) (ha : opKind w.a ≠ 1)
    (hb : opKind w.b ≠ 1) : ∃ f, s.runVector s.actor.core vop w = (s.slotZeroRun vop w).whole s f := by
  have himg : (s.core s.actor.core).lntImage 0 w.lnt.toNat = lntZero := by rw [hlnt]; rfl
  have hpipes := slotZeroRun_pipes (s := s) (vop := vop) hd ha hb
  unfold State.slotZeroRun State.strand State.me at hpipes
  refine ⟨(fmtOf (s.me.fmtAt w lntZero (countersOf lntZero 0))).getD .f32, ?_⟩
  unfold State.runVector
  dsimp only
  rw [if_neg (by omega), if_neg (by omega), himg, hpipes, if_neg (by simp)]
  exact if_pos (.inr (Nat.le_of_eq levelCount_lntZero.1))

/-- A word of slot 0 whose iteration ends without an XCODE executes with the iteration's flags. -/
theorem slotZeroRun_whole (hflight : (s.me.ring 0).flight = []) (hne : vop ≠ 0x20) (herr : (s.slotZeroEnd vop w).err = none)
    (f0 : Fmt) : ∃ f : Flight, f.seq = (s.me.ring 0).next ∧ f.raise = w.raise ∧ f.flags = (s.slotZeroEnd vop w).flags ∧
      (s.slotZeroRun vop w).whole s f0 = (s.slotZeroEnd vop w).s.launchWord s.actor.core 0 f := by
  have hfree : ∀ sp, ((s.core s.actor.core).ring 0).holds sp = false := fun sp => by
    unfold Ring.holds
    rw [show ((s.core s.actor.core).ring 0).flight = [] from hflight]
    simp [granules, spansMeet]
  have hstart : (s.slotZeroRun vop w).startFlags (s.slotZeroEnd vop w).s = 0 := by
    unfold VRun.startFlags
    rw [show (s.slotZeroRun vop w).img = lntZero from rfl, nestSize_lntZero]
    simp
  unfold VRun.whole
  rw [slotZeroRun_all s s vop w f0 hne]
  change ∃ f : Flight, _ ∧ _ ∧ _ ∧ (if ((s.core s.actor.core).ring 0).holds _ = true then s else
    match (s.slotZeroEnd vop w).err with
    | some e => _
    | none => _) = _
  rw [hfree, herr]
  refine ⟨_, rfl, rfl, ?_, rfl⟩
  change 0 ||| (s.slotZeroEnd vop w).flags ||| (s.slotZeroRun vop w).startFlags (s.slotZeroEnd vop w).s = _
  simp [hstart]

/-- A word that executes on an idle ring after a change of its scratchpad ends as `WordEnds` says. -/
theorem wordEnds_launchWord {t : State} {f : Flight} (h : PlainWord s w) (ht : ScratchOnly s t s.actor.core)
    (hseq : f.seq = (s.me.ring 0).next) (hraise : f.raise = w.raise) : WordEnds s (t.launchWord s.actor.core 0 f) w f.flags := by
  obtain ⟨m, hm⟩ := ht.core
  have hring : (t.core s.actor.core).ring 0 = s.me.ring 0 := by rw [hm]; rfl
  have hme : (t.launchWord s.actor.core 0 f).me.ring 0 = { (s.me.ring 0).moveOn with
      flight := (s.me.ring 0).flight ++ [{ f with since := t.cycle }], done := 0, facc := 0, rows := [], uses := []
      overlap := false, hold := none } := by
    unfold State.me State.launchWord
    rw [State.onRing_actor, ht.actor, State.onRing, State.core_onCore_same, Core.ring_setRing_same, hring]
    rfl
  have hmove : (s.me.ring 0).moveOn.next = (s.me.ring 0).next + 1 := by
    unfold Ring.moveOn
    rw [h.jobs]
    rfl
  refine ⟨by rw [hme, ← hmove], fun r => ?_, ⟨fun a => ?_, fun a => ?_⟩, { f with since := t.cycle }, ?_, hseq, hraise, rfl⟩
  · unfold State.get State.strand State.me State.launchWord
    rw [State.onRing_actor, ht.actor, State.onRing, State.core_onCore_same, hm]
    rfl
  · exact congrArg (mbyte · a) ht.mem
  · exact congrArg (mbyte · a) ht.hostMem
  · rw [hme, h.flight]
    rfl

/-- A word of slot 0 whose checks find nothing, and whose iteration ends without an XCODE and changes its scratchpad only,
executes (R141): the scratchpads are as the iteration leaves them. -/
theorem vector_slotZero (h : PlainWord s w) (hvop : vop < 0x22) (hne : vop ≠ 0x20) (hcheck : vecCheck vop w s.me = none)
    (ha : opKind w.a ≠ 1) (hb : opKind w.b ≠ 1) (herr : (s.slotZeroEnd vop w).err = none)
    (hs : ScratchOnly s (s.slotZeroEnd vop w).s s.actor.core) :
    ∃ t : State, s.vector vop w = .next t ∧ (∀ c p, t.sbyte c p = (s.slotZeroEnd vop w).s.sbyte c p) ∧
      WordEnds s t w (s.slotZeroEnd vop w).flags := by
  have hd : opKind w.dst ≠ 1 := by rw [opKind_of_lt h.dst]; decide
  obtain ⟨f0, hrun⟩ := runVector_slotZero (s := s) (vop := vop) h.lnt hvop hd ha hb
  obtain ⟨f, hseq, hraise, hflags, hwhole⟩ := slotZeroRun_whole h.flight hne herr f0
  refine ⟨(s.slotZeroEnd vop w).s.launchWord s.actor.core 0 f, ?_, fun c p => State.sbyte_onRing .., ?_⟩
  · unfold State.vector
    dsimp only
    rw [show vecCheck vop w (s.core s.actor.core) = none from hcheck, beginWord_of_begins h.begins]
    exact congrArg Host.Outcome.next (hrun.trans hwhole)
  · rw [← hflags]
    exact wordEnds_launchWord h hs hseq hraise

end Runs

end Sys2Proof.Machine

/-! ## The checks and the operands of a word with slot 0 (R279, R348, R282) -/

namespace Sys2Proof.Machine

/-- An operand field that its VOP admits (Table 19-2), and that is no pipe. -/
def FieldFits (kinds : List Nat) (mayZero : Bool) (o : BitVec 18) : Prop :=
  (kinds = [] ∨ mayZero = true) ∧ o = 0 ∨ opKind o ∈ kinds ∧ opKind o ≠ 1 ∧ (opKind o = 2 → opPay o < 512)

section FieldFits

variable {kinds : List Nat} {mayZero : Bool} {o : BitVec 18}

theorem FieldFits.noPipe (h : FieldFits kinds mayZero o) : opKind o ≠ 1 := by
  obtain ⟨-, rfl⟩ | ⟨-, h, -⟩ := h
  · decide
  · exact h

/-- A scratch operand fits where its VOP admits one. -/
theorem FieldFits.scratch (h : o.toNat < 65536) (hk : 0 ∈ kinds) : FieldFits kinds mayZero o := by
  have := opKind_of_lt h
  exact .inr (by simp [this, hk])

/-- A field that fits is zero where it must be, has a payload in range and a kind that its VOP admits. -/
theorem FieldFits.checks (h : FieldFits kinds mayZero o) : (kinds.isEmpty && decide (o ≠ 0)) = false ∧
    (fieldUsed kinds mayZero o && (decide (opKind o = 1 ∧ 32 ≤ opPay o) || decide (opKind o = 2 ∧ 512 ≤ opPay o))) = false ∧
    (fieldUsed kinds mayZero o && !kinds.contains (opKind o)) = false := by
  obtain ⟨hz, rfl⟩ | ⟨hmem, hpipe, hpay⟩ := h
  · have hunused : fieldUsed kinds mayZero 0 = false := by
      unfold fieldUsed
      obtain rfl | rfl := hz <;> simp
    exact ⟨by simp, by rw [hunused]; rfl, by rw [hunused]; rfl⟩
  · have hne : kinds.isEmpty = false := by
      rw [List.isEmpty_eq_false_iff]
      exact List.ne_nil_of_mem hmem
    have hrange : ¬(opKind o = 2 ∧ 512 ≤ opPay o) := fun h => absurd (hpay h.1) (Nat.not_lt.mpr h.2)
    simp [hne, hpipe, hrange, hmem]

end FieldFits

/-- A vector word of format `f` whose fields pass the checks of R348 with slot 0, and whose vector has 128 lanes. -/
structure WordFits (vop : Nat) (w : VWord) (f : Fmt) : Prop where
  vop_lt : vop < 0x22
  vop_ne : vop ≠ 0x20
  fmt : fmtOf w.fmt = some f
  fmt_ne : w.fmt ≠ 0x3F
  format : vopFmt vop f = true
  mod : vopMod vop w.mod.toNat = true
  dst : FieldFits (vopForm vop).dst false w.dst
  a : FieldFits (vopForm vop).a false w.a
  b : FieldFits (vopForm vop).b (vopForm vop).bZero w.b
  convert : vop = 0x18 ∨ vop = 0x19 → w.b = 0x30000 ∧ w.mod = 0
  drain : vop = 0x21 → w.b = 0 ∧ w.fmt = 0
  lanes : lanesFor vop f (srcFmt vop w) w = 128

section Checks

variable {s : State} {w : VWord} {vop : Nat} {f : Fmt} {k : Core}

/-- The format of a word that takes none from the format table is its own (R153). -/
theorem fmtAt_eq (h : w.fmt ≠ 0x3F) (img : BitVec 2176) (cs : List Nat) : k.fmtAt w img cs = w.fmt := if_neg h

theorem vecReserved_of_fits (h : WordFits vop w f) (hrsv : w.rsv = 0) : vecReserved vop w lntZero = false := by
  obtain ⟨hd, hdpay, -⟩ := h.dst.checks
  obtain ⟨ha, hapay, -⟩ := h.a.checks
  obtain ⟨hb, hbpay, -⟩ := h.b.checks
  have hcvt : ¬((vop = 0x18 ∨ vop = 0x19) ∧ opKind w.b = 3 ∧ 128 ≤ opPay w.b) := fun ⟨hv, _, hpay⟩ => by
    rw [(h.convert hv).1] at hpay
    exact absurd hpay (by decide)
  have hdrn : (decide (vop = 0x21) && decide (w.b ≠ 0)) = false := by
    by_cases hv : vop = 0x21
    · simp [(h.drain hv).1]
    · simp [hv]
  have hvop := h.vop_lt
  unfold vecReserved
  simp only [hrsv, hd, ha, hb, hdpay, hapay, hbpay, hcvt, hdrn, Nat.not_le.mpr hvop]
  simp

theorem vecRange_of_fits (h : WordFits vop w f) : vecRange vop w k lntZero = false := by
  obtain ⟨-, -, hd⟩ := h.dst.checks
  obtain ⟨-, -, ha⟩ := h.a.checks
  obtain ⟨-, -, hb⟩ := h.b.checks
  have hchain : (decide (vop = 0x21) && chainBad lntZero w.fmt.toNat) = false := by
    by_cases hv : vop = 0x21
    · rw [(h.drain hv).2]
      exact (by decide +kernel : (true && chainBad lntZero 0) = false) ▸ by rw [decide_eq_true hv]; rfl
    · simp [hv]
  unfold vecRange
  simp only [hd, ha, hb, fmtAt_eq h.fmt_ne, h.fmt, h.mod, vlOf_lntZero, lntBad_lntZero, hchain]
  simp

/-- The checks of a word that fits find nothing (R279). -/
theorem vecCheck_of_fits (h : WordFits vop w f) (hrsv : w.rsv = 0) (hlnt : w.lnt = 0) : vecCheck vop w k = none := by
  have himg : k.lntImage 0 w.lnt.toNat = lntZero := by rw [hlnt]; rfl
  unfold vecCheck
  simp only [himg, vecReserved_of_fits h hrsv, vecRange_of_fits h, fmtAt_eq h.fmt_ne, h.fmt, h.format, chainMfmt_lntZero,
    drainSteps_lntZero]
  by_cases hc : vop = 0x18 ∨ vop = 0x19
  · obtain ⟨hb, hm⟩ := h.convert hc
    have hcode : codeFmt (opPay w.b % 64) = some .f32 := by rw [hb]; decide
    have hpay : opPay w.b % 64 = 0 := by rw [hb]; decide
    have hsrc : srcFmt vop w = some .f32 := by unfold srcFmt; rw [if_pos hc, hcode]
    have hfmt : codeFmt 0 = some .f32 := by decide
    simp [hpay, hsrc, hm, hfmt]
  · obtain ⟨h18, h19⟩ := not_or.mp hc
    have hfmt : codeFmt 0 = some .f32 := by decide
    simp [h18, h19, hfmt]

end Checks

section Operands

variable {s : State} {w : VWord} {vop : Nat} {f : Fmt} {x : VRun} {o : BitVec 18} {k n : Nat}

/-- The element at a whole byte of the scratchpad is the number in its bytes. -/
theorem elemAt_eq_sval {b : Nat} (hf : f.bits = 8 * b) (c a e : Nat) :
    s.elemAt c f (2 * a + e * f.nibs) = s.sval c (a + b * e) b := by
  have hpos : (2 * a + e * (8 * b / 4)) / 2 = a + b * e := by
    rw [show 8 * b / 4 = 2 * b by omega, Nat.mul_left_comm, ← Nat.mul_add, Nat.mul_div_cancel_left _ (by decide), Nat.mul_comm e]
  unfold State.elemAt Fmt.nibs
  rw [hf, if_neg (by omega), hpos, Nat.mul_div_cancel_left _ (by decide)]

/-- The results of `n` elements with their numbers. -/
theorem zipIdx_upto {α : Type} (n : Nat) (g : Nat → α) : ((upto n).map g).zipIdx = (upto n).map fun e => (g e, e) :=
  List.ext_getElem (by simp [upto]) fun i hi hj => by simp [upto]

/-- A list of elements written at a whole byte of the scratchpad. -/
theorem put_eq_storeElems {b : Nat} (hf : f.bits = 8 * b) (t : VSt) (c a n : Nat) (g : Nat → Nat) :
    (t.put c f (2 * a) ((upto n).map g)).s = t.s.storeElems c b ((upto n).map fun e => (a + b * e, g e)) := by
  have hpos : ∀ e, (2 * a + e * (8 * b / 4)) / 2 = a + b * e := fun e => by
    rw [show 8 * b / 4 = 2 * b by omega, Nat.mul_left_comm, ← Nat.mul_add, Nat.mul_div_cancel_left _ (by decide), Nat.mul_comm e]
  unfold VSt.put State.storeElems
  dsimp only
  rw [zipIdx_upto, List.foldl_map, List.foldl_map]
  congr 1
  funext s e
  unfold State.putElem Fmt.nibs
  rw [hf, if_neg (by omega), hpos, Nat.mul_div_cancel_left _ (by decide)]

theorem addr_slotZero (hx : x.img = lntZero) (ho : o.toNat < 65536) (hk : k < 4) :
    x.addr (countersOf lntZero 0) o k = .ok (32 * o.toNat) ∧ x.addr ((countersOf lntZero 0).take 5 ++ [0]) o k = .ok (32 * o.toNat) := by
  obtain ⟨h0, h1⟩ := streamOff_lntZero hk
  have hlow : low 21 ((32 * o.toNat : Nat) : Int) = 32 * o.toNat := by
    unfold low
    omega
  unfold VRun.addr
  rw [hx, h0, h1, opPay_of_lt ho, Int.add_zero, if_neg (by omega), hlow]
  exact ⟨rfl, rfl⟩

theorem place_slotZero (hx : x.img = lntZero) (ho : o.toNat < 65536) (hk : k < 4) (pipe vl : Nat) :
    x.place n (countersOf lntZero 0) o k pipe vl f = .ok (2 * (32 * o.toNat)) := by
  unfold VRun.place
  rw [if_neg (by rw [opKind_of_lt ho]; decide), (addr_slotZero hx ho hk).1]

/-- A scratch operand's elements. -/
theorem operand_slotZero {b : Nat} (hf : f.bits = 8 * b) (hx : x.img = lntZero) (ho : o.toNat < 65536) (hk : k < 4)
    (pipe vl : Nat) : ∃ r, x.operand s n (countersOf lntZero 0) o k pipe vl f =
      .ok (f, (upto vl).map (fun e => s.sval x.c (32 * o.toNat + b * e) b), r, 0) := by
  have hkind := opKind_of_lt ho
  unfold VRun.operand
  rw [if_neg (by rw [hkind]; decide), if_neg (by rw [hkind]; decide), place_slotZero hx ho hk]
  simp only [elemAt_eq_sval hf]
  exact ⟨_, rfl⟩

theorem side_slotZero (hx : x.img = lntZero) : x.side (countersOf lntZero 0) 3 = .ok 0 := by
  unfold VRun.side
  rw [hx, (streamOff_lntZero (by decide)).1]
  rfl

/-- The elements of stream 3, which slot 0 puts at scratch address 0. -/
theorem sideElems_slotZero {b : Nat} (hf : f.bits = 8 * b) (hx : x.img = lntZero) (vl : Nat) :
    ∃ r, x.sideElems s (countersOf lntZero 0) 3 vl f = .ok ((upto vl).map (fun e => s.sval x.c (b * e) b), r) := by
  unfold VRun.sideElems
  rw [side_slotZero hx]
  simp only [elemAt_eq_sval hf, Nat.zero_add]
  exact ⟨_, rfl⟩

/-- The iteration of a word that fits, by its VOP. -/
theorem slotZeroEnd_of_fits (h : WordFits vop w f) : s.slotZeroEnd vop w =
    (if vop = 0x19 then (s.slotZeroRun vop w).quant { s := s } 0 (countersOf lntZero 0) f 128
    else if vop = 0x1A ∨ vop = 0x1B then (s.slotZeroRun vop w).reduce { s := s } 0 (countersOf lntZero 0) f 128
    else if vop = 0x1C then (s.slotZeroRun vop w).scan { s := s } 0 (countersOf lntZero 0) f 128
    else if vop = 0x1D ∨ vop = 0x1E then (s.slotZeroRun vop w).gather { s := s } 0 (countersOf lntZero 0) f 128
    else if vop = 0x1F then (s.slotZeroRun vop w).insert { s := s } 0 (countersOf lntZero 0) f 128
    else if vop = 0x21 then (s.slotZeroRun vop w).drain { s := s } 0 (countersOf lntZero 0) f 128
    else (s.slotZeroRun vop w).elementwise { s := s } 0 (countersOf lntZero 0) f 128) := by
  have hvl : (s.slotZeroRun vop w).vl f = .ok 128 := by
    unfold VRun.vl State.slotZeroRun
    simp only [h.lanes, vlOf_lntZero]
    rfl
  unfold State.slotZeroEnd VRun.iterate
  rw [show (s.slotZeroRun vop w).img = lntZero from rfl, show (s.slotZeroRun vop w).w = w from rfl,
    show (s.slotZeroRun vop w).vop = vop from rfl]
  simp only [fmtAt_eq h.fmt_ne, h.fmt, h.format, hvl, Bool.not_true, Bool.false_eq_true, if_false]

end Operands

end Sys2Proof.Machine

/-! ## The elementwise words (R349 to R352) -/

namespace Sys2Proof.Machine

/-- The word `i` executes with flags `fl`, the `n` elements of `width` bytes from DST on are `f`, and no other scratch byte of
its core changes. -/
def WordPuts (i : Instr) (s : State) (w : VWord) (n width : Nat) (f : Nat → Nat) (fl : NumFlags) : Prop :=
  ∃ t : State, exec i s = .next t ∧
    (∀ e, e < n → t.sval s.actor.core (32 * w.dst.toNat + width * e) width = f e) ∧
    (∀ p, p < 0x200000 → (∀ m, m < width * n → p ≠ (32 * w.dst.toNat + m) % 0x200000) →
      t.sbyte s.actor.core p = s.sbyte s.actor.core p) ∧ WordEnds s t w fl

/-- The iteration `t` ends without an XCODE and with flags `fl`, and has written the elements `f` from DST on. -/
structure IterWrites (t : VSt) (s : State) (w : VWord) (n width : Nat) (f : Nat → Nat) (fl : NumFlags) : Prop where
  err : t.err = none
  flags : t.flags = fl
  s_eq : t.s = s.storeElems s.actor.core width ((upto n).map fun e => (32 * w.dst.toNat + width * e, f e))

section ElementWords

@[simp] theorem slotZeroRun_c (s : State) (vop : Nat) (w : VWord) : (s.slotZeroRun vop w).c = s.actor.core := rfl
@[simp] theorem slotZeroRun_vop (s : State) (vop : Nat) (w : VWord) : (s.slotZeroRun vop w).vop = vop := rfl
@[simp] theorem slotZeroRun_w (s : State) (vop : Nat) (w : VWord) : (s.slotZeroRun vop w).w = w := rfl
@[simp] theorem slotZeroRun_dstPipe (s : State) (vop : Nat) (w : VWord) : (s.slotZeroRun vop w).dstPipe = 0 := rfl
@[simp] theorem slotZeroRun_aPipe (s : State) (vop : Nat) (w : VWord) : (s.slotZeroRun vop w).aPipe = 0 := rfl
@[simp] theorem slotZeroRun_bPipe (s : State) (vop : Nat) (w : VWord) : (s.slotZeroRun vop w).bPipe = 0 := rfl
@[simp] theorem slotZeroRun_img (s : State) (vop : Nat) (w : VWord) : (s.slotZeroRun vop w).img = lntZero := rfl

variable {s : State} {w : VWord} {vop n m width : Nat} {i : Instr} {f : Fmt} {g : Nat → Nat} {fl : NumFlags}

/-- A word whose iteration stores elements at multiples of their size: the last element at an address stays, and no byte
outside them changes. -/
theorem vector_stores {a : Nat → Nat} (h : PlainWord s w) (hfits : WordFits vop w f) (hw : width ∣ 0x200000)
    (ha : ∀ e, width ∣ a e) (herr : (s.slotZeroEnd vop w).err = none)
    (hs : (s.slotZeroEnd vop w).s = s.storeElems s.actor.core width ((upto n).map fun e => (a e, g e))) :
    ∃ t : State, s.vector vop w = .next t ∧
      (∀ e, e < n → g e < 256 ^ width → (∀ m, e < m → m < n → a m % 0x200000 ≠ a e % 0x200000) →
        t.sval s.actor.core (a e) width = g e) ∧
      (∀ p, p < 0x200000 → (∀ e, e < n → p < a e % 0x200000 ∨ a e % 0x200000 + width ≤ p) →
        t.sbyte s.actor.core p = s.sbyte s.actor.core p) ∧ WordEnds s t w (s.slotZeroEnd vop w).flags := by
  obtain ⟨t, hrun, hbytes, hends⟩ := vector_slotZero h hfits.vop_lt hfits.vop_ne (vecCheck_of_fits hfits h.rsv h.lnt)
    hfits.a.noPipe hfits.b.noPipe herr (hs ▸ .storeElems _ _ _ s)
  refine ⟨t, hrun, fun e he hg hlast => ?_, fun p hp hout => ?_, hends⟩
  · rw [State.sval_congr fun p _ => hbytes _ _, hs]
    have hread := State.sval_storeElems (c := s.actor.core) hw s he (fun m _ => ha m) hlast (f := fun e => (a e, g e))
    exact hread.trans (Nat.mod_eq_of_lt hg)
  · rw [hbytes, hs]
    refine State.sbyte_storeElems hw hp _ s (fun x hx => ?_) (fun x hx => ?_)
    · obtain ⟨e, -, rfl⟩ := List.mem_map.mp hx
      exact ha e
    · obtain ⟨e, he, rfl⟩ := List.mem_map.mp hx
      exact hout e (List.mem_range.mp he)

/-- A word puts what its iteration writes. -/
theorem wordPuts_of_iterWrites (h : PlainWord s w) (hfits : WordFits vop w f) (hexec : exec i s = s.vector vop w)
    (hwidth : width ∣ 32) (hn : width * n ≤ 0x200000) (hg : ∀ e, e < n → g e < 256 ^ width)
    (ht : IterWrites (s.slotZeroEnd vop w) s w n width g fl) : WordPuts i s w n width g fl := by
  have hw : width ∣ 0x200000 := Nat.dvd_trans hwidth (by decide)
  have hpos : 0 < width := Nat.pos_of_dvd_of_pos hwidth (by decide)
  have haddr : ∀ e, width ∣ 32 * w.dst.toNat + width * e := fun e => Nat.dvd_add (Nat.dvd_mul_right_of_dvd hwidth _) (Nat.dvd_mul_right width e)
  obtain ⟨t, hrun, hread, hframe, hends⟩ := vector_stores h hfits hw haddr ht.err ht.s_eq
  refine ⟨t, hexec.trans hrun, fun e he => hread e he (hg e he) fun m hem hmn heq => ?_, fun p hp hout => ?_, ht.flags ▸ hends⟩
  · have hm : width * e + width ≤ width * m := Nat.mul_le_mul_left width hem
    have hn' : width * m + width ≤ width * n := Nat.mul_le_mul_left width hmn
    omega
  · refine hframe p hp fun e he => ?_
    have hend := aligned_end_le hw (haddr e)
    have hn' : width * e + width ≤ width * n := Nat.mul_le_mul_left width he
    refine Decidable.byContradiction fun hin => ?_
    refine hout (width * e + (p - (32 * w.dst.toNat + width * e) % 0x200000)) (by omega) ?_
    omega

/-! ### What an elementwise word reads and combines -/

/-- The words of two operands (Table 19-2). -/
def twoOperands (vop : Nat) : Bool := decide ((2 ≤ vop ∧ vop ≤ 8) ∨ (0x11 ≤ vop ∧ vop ≤ 0x17))

/-- Element `e` of A, in a format of 32 bits. -/
def State.rawA (s : State) (w : VWord) (e : Nat) : Nat := s.sval s.actor.core (32 * w.a.toNat + 4 * e) 4

/-- Element `e` of B, in a format of 32 bits. -/
def State.rawB (s : State) (w : VWord) (e : Nat) : Nat := s.sval s.actor.core (32 * w.b.toNat + 4 * e) 4

/-- Element `e` of B for a word that reads it. -/
def State.elemB (s : State) (vop : Nat) (w : VWord) (e : Nat) : Nat := if twoOperands vop then s.rawB w e else 0

/-- Element `e` of stream 3, in a format of 32 bits. -/
def State.rawSide (s : State) (e : Nat) : Nat := s.sval s.actor.core (4 * e) 4

/-- Element `e` of stream 3 for a word that reads it: VFMA's addend or VSEL's selector. -/
def State.elemSide (s : State) (vop e : Nat) : Nat :=
  if vop = 5 then s.rawSide e else if vop = 0x12 then s.sval s.actor.core (1 * e) 1 else 0

/-- A result rounded to FP32 with the word's SAT option. -/
def roundSat (w : VWord) (v : Val × NumFlags) : Nat × NumFlags := finish .f32 .rne (decide (w.mod = 1)) 0 v

/-- Results combined element by element. -/
theorem zip_upto (n : Nat) (x y z : Nat → Nat) :
    ((upto n).map x).zip (((upto n).map y).zip ((upto n).map z)) = (upto n).map fun e => (x e, y e, z e) := by
  rw [List.zip_map', List.zip_map']

/-- The union of the flags of `n` elements. -/
def flagsUnion (n : Nat) (f : Nat → NumFlags) : NumFlags := (List.range n).foldl (fun a e => a ||| f e) 0

/-- Rounding a vector rounds its elements. -/
theorem roundAll_upto (f : Fmt) (m : Mode) (sat : Bool) (draw : Nat → Nat) (n : Nat) (v : Nat → Val × NumFlags) :
    roundAll f m sat draw ((upto n).map v) =
      ((upto n).map fun e => (finish f m sat (draw e) (v e)).1, flagsUnion n fun e => (finish f m sat (draw e) (v e)).2) := by
  unfold roundAll flagsUnion
  dsimp only
  rw [zipIdx_upto, List.map_map, List.map_map, List.foldl_map, List.foldl_map]
  rfl

/-- A body that has answered goes on with its answer. -/
theorem ok_bind {ε α β : Type} (a : α) (k : α → Except ε β) : (Except.ok a >>= k) = k a := rfl

/-- An iteration that writes its results at DST as its last act. -/
theorem iterWrites_put {b : Nat} {t : VSt} {vs : List Nat} (hf : f.bits = 8 * b) (hs : t.s = s) (herr : t.err = none)
    (hfl : t.flags = fl) (hvs : vs = (upto n).map g) :
    IterWrites (t.put s.actor.core f (2 * (32 * w.dst.toNat)) vs) s w n b g fl :=
  ⟨herr, hfl, by rw [hvs, put_eq_storeElems hf, hs]⟩

/-- Bit 0 of a MOD that is 0 or 1. -/
theorem getLsbD_zero_of_le_one (hmod : w.mod.toNat ≤ 1) : w.mod.getLsbD 0 = decide (w.mod = 1) :=
  (by decide : ∀ m : BitVec 3, m.toNat ≤ 1 → m.getLsbD 0 = decide (m = 1)) w.mod hmod

/-- A number of `n` bytes is below 2^(8n). -/
theorem ofBytes_lt (bs : List Byte) : ofBytes bs < 256 ^ bs.length := by
  induction bs with
  | nil => decide
  | cons b bs ih =>
    have := b.isLt
    rw [ofBytes, List.length_cons, Nat.pow_succ]
    omega

theorem sval_lt (s : State) (c a n : Nat) : s.sval c a n < 256 ^ n := by
  have := ofBytes_lt (s.sread c a n)
  rwa [State.sread, List.length_map, upto, List.length_range] at this

theorem roundSat_lt (w : VWord) (v : Val × NumFlags) : (roundSat w v).1 < 256 ^ 4 := roundVal_lt_float (.inl rfl) ..

/-- A vector whose widest format has 32 bits has 128 lanes (R346). -/
theorem lanesFor_eq {src : Option Fmt} (h : src = none ∧ f.bits = 32 ∨ src = some .f32 ∧ f.bits ≤ 32) : lanesFor vop f src w = 128 := by
  obtain ⟨rfl, hf⟩ | ⟨rfl, hf⟩ := h
  · unfold lanesFor
    rw [hf]
    dsimp only
    split <;> rfl
  · have hwidest : max f.bits Fmt.f32.bits = 32 := Nat.max_eq_right hf
    unfold lanesFor
    dsimp only
    rw [hwidest]
    split <;> rfl

/-- A word of a 32-bit format with scratch operands, or without B, fits where its VOP takes the format and MOD. -/
theorem fits_scratch (hfmt : fmtOf w.fmt = some f) (hne : w.fmt ≠ 0x3F) (hbits : f.bits = 32) (hd : w.dst.toNat < 65536)
    (ha : w.a.toNat < 65536) (hvop : vop < 0x20 ∧ vop ≠ 0x18 ∧ vop ≠ 0x19) (hform : vopFmt vop f = true)
    (hmod : vopMod vop w.mod.toNat = true) (hkd : 0 ∈ (vopForm vop).dst) (hka : 0 ∈ (vopForm vop).a)
    (hb : w.b.toNat < 65536 ∧ 0 ∈ (vopForm vop).b ∨ (vopForm vop).b = [] ∧ w.b = 0) : WordFits vop w f where
  vop_lt := by omega
  vop_ne := by omega
  fmt := hfmt
  fmt_ne := hne
  format := hform
  mod := hmod
  dst := .scratch hd hkd
  a := .scratch ha hka
  b := hb.elim (fun h => .scratch h.1 h.2) fun h => .inl ⟨.inl h.1, h.2⟩
  convert h := absurd h (by omega)
  drain h := by omega
  lanes := by
    have hsrc : srcFmt vop w = none := if_neg (by omega)
    rw [hsrc]
    exact lanesFor_eq (.inl ⟨rfl, hbits⟩)

/-- What the words with the SAT option admit (Table 19-2). -/
theorem vopSat_mod (hsat : vopSat vop = true) (hmod : w.mod.toNat ≤ 1) : vopMod vop w.mod.toNat = true := by
  unfold vopMod
  rw [if_pos hsat, decide_eq_true hmod]

/-- What an elementwise word makes of the elements that it has read: their format, the results and their flags (R349 to
R352). -/
def VRun.combine (x : VRun) (base : Nat) (f ga gb : Fmt) (as bs cs : List Nat) : Fmt × List Nat × NumFlags :=
  let zip := (as.zip (bs.zip cs))
  let bitImm (o : BitVec 18) (v : Nat) : Nat := if opKind o = 3 then opPay o % 2 ^ f.bits else v
  let pick (v : Nat × Nat × Nat) : Nat × NumFlags :=
    if v.2.2 ≠ 0 then (if opKind x.w.a = 2 then roundRne f (ga.val v.1) else (v.1, 0))
    else (if opKind x.w.b = 2 then roundRne f (gb.val v.2.1) else (v.2.1, 0))
  let cvt := roundAll f ((modeOf x.w.mod.toNat).getD .rne) (nbit (opPay x.w.b) 6) (x.draw base) (as.map (fun v => (ga.val v, 0)))
  let arith := roundAll f .rne x.sat (fun _ => 0) (zip.map (fun v => vecFn x.vop (ga.val v.1) (gb.val v.2.1) (f.val v.2.2)))
  if x.vop = 0x11 then (.i8, zip.map (fun v => if vecPred x.w.mod.toNat (ga.val v.1) (gb.val v.2.1) then 1 else 0), 0)
  else if x.vop = 0x12 then (f, zip.map (fun v => (pick v).1), zip.foldl (fun a v => a ||| (pick v).2) 0)
  else if 0x13 ≤ x.vop ∧ x.vop ≤ 0x15 then (f, zip.map (fun v => vecBits x.vop (bitImm x.w.a v.1) (bitImm x.w.b v.2.1)), 0)
  else if x.vop = 0x16 ∨ x.vop = 0x17 then (f, zip.map (fun v => vecShift x.vop (x.w.mod.getLsbD 0) f.bits v.1 v.2.1), 0)
  else if x.vop = 0x18 then (f, cvt.1, cvt.2)
  else (f, arith.1, arith.2)

/-- An elementwise word reads its operands, combines them and writes the results at DST. -/
theorem elementwise_eq {x : VRun} {t : VSt} {cts : List Nat} {ga gb : Fmt} {as bs cs : List Nat} {ra rb rc : List (Nat × Nat)}
    {p vl : Nat} (hA : x.operand t.s n cts x.w.a 1 x.aPipe vl ((srcFmt x.vop x.w).getD f) = .ok (ga, as, ra, 0))
    (hB : (if twoOperands x.vop then x.operand t.s n cts x.w.b 2 x.bPipe vl f else .ok (f, List.replicate vl 0, [], 0)) =
      .ok (gb, bs, rb, 0))
    (hC : (if x.vop = 5 then x.sideElems t.s cts 3 vl f else if x.vop = 0x12 then x.sideElems t.s cts 3 vl .i8
      else .ok (List.replicate vl 0, [])) = .ok (cs, rc))
    (hP : ∀ g, x.place n cts x.w.dst 0 x.dstPipe vl g = .ok p) :
    x.elementwise t n cts f vl = ({ t with
      flags := t.flags ||| (x.combine t.elems f ga gb as bs cs).2.2 ||| (if x.noFlags then 0 else 0 ||| 0)
      reads := t.reads ++ ra ++ rb ++ rc, elems := t.elems + vl }).put x.c (x.combine t.elems f ga gb as bs cs).1 p
        (x.combine t.elems f ga gb as bs cs).2.1 := by
  have hside : x.vop = 5 ∨ ¬x.vop = 5 ∧ x.vop = 0x12 ∨ ¬x.vop = 5 ∧ ¬x.vop = 0x12 := by omega
  unfold VRun.elementwise VRun.combine
  dsimp only
  rcases hsrc : srcFmt x.vop x.w with - | g
  all_goals
    rw [hsrc] at hA
    simp only [Option.getD_none, Option.getD_some] at hA
    by_cases h2 : twoOperands x.vop = true
    · rw [if_pos h2] at hB
      unfold twoOperands at h2
      obtain h5 | ⟨h5, h12⟩ | ⟨h5, h12⟩ := hside
      · rw [if_pos h5] at hC
        simp only [hA, if_pos h2, if_pos h5, hB, hC, hP, ok_bind]
      · rw [if_neg h5, if_pos h12] at hC
        simp only [hA, if_pos h2, if_neg h5, if_pos h12, hB, hC, hP, ok_bind]
      · rw [if_neg h5, if_neg h12] at hC
        simp only [hA, if_pos h2, if_neg h5, if_neg h12, hB, hC, hP, ok_bind]
    · rw [if_neg h2] at hB
      unfold twoOperands at h2
      obtain h5 | ⟨h5, h12⟩ | ⟨h5, h12⟩ := hside
      · exact absurd h5 (by simp at h2; omega)
      · exact absurd h12 (by simp at h2; omega)
      · rw [if_neg h5, if_neg h12] at hC
        cases hB
        cases hC
        simp only [hA, if_neg h2, if_neg h5, if_neg h12, hP, ok_bind]

/-- The result of an elementwise word in format `f` at the elements `x` of A, `y` of B and `z` of stream 3, with its flags
(R349 to R352); a conversion is from FP32. -/
def elemResult (vop : Nat) (w : VWord) (f : Fmt) (x y z : Nat) : Nat × NumFlags :=
  if vop = 0x11 then (if vecPred w.mod.toNat (f.val x) (f.val y) then 1 else 0, 0)
  else if vop = 0x12 then (if z ≠ 0 then x else y, 0)
  else if 0x13 ≤ vop ∧ vop ≤ 0x15 then (vecBits vop x y, 0)
  else if vop = 0x16 ∨ vop = 0x17 then (vecShift vop (w.mod.getLsbD 0) f.bits x y, 0)
  else if vop = 0x18 then roundRne f (Fmt.f32.val x)
  else finish f .rne (vopSat vop && w.mod.getLsbD 0) 0 (vecFn vop (f.val x) (f.val y) (f.val z))

/-- Rounding to the nearest takes no draw (R219). -/
theorem roundVal_rne_draw (hf : f = .bf16) (sat : Bool) (r : Nat) (x : Val) : roundVal f .rne sat r x = roundVal f .rne sat 0 x := by
  subst hf
  cases x <;> rfl

theorem flagsUnion_zero (n : Nat) : flagsUnion n (fun _ => 0) = 0 := by
  unfold flagsUnion
  induction n with
  | zero => rfl
  | succ n ih => rw [List.range_succ, List.foldl_append, ih, List.foldl_cons, List.foldl_nil, BitVec.or_self]

/-- Combining the elements gives each result and the union of the flags. -/
theorem combine_upto (hconv : vop = 0x18 → w.b = 0x30000 ∧ w.mod = 0 ∧ f = .bf16) (ha : opKind w.a = 0) (hb : twoOperands vop = true → opKind w.b = 0)
    (x y z : Nat → Nat) : (s.slotZeroRun vop w).combine 0 f (if vop = 0x18 then .f32 else f) f ((upto n).map x) ((upto n).map y) ((upto n).map z) =
      (if vop = 0x11 then .i8 else f, (upto n).map (fun e => (elemResult vop w f (x e) (y e) (z e)).1),
        flagsUnion n fun e => (elemResult vop w f (x e) (y e) (z e)).2) := by
  unfold VRun.combine elemResult
  simp only [slotZeroRun_vop, slotZeroRun_w, zip_upto, List.map_map, Function.comp_def, ha]
  have hne2 : ¬(0 : Nat) = 2 := by decide
  have hne3 : ¬(0 : Nat) = 3 := by decide
  by_cases h11 : vop = 0x11
  · simp only [if_pos h11, if_neg (show ¬vop = 0x18 by omega), flagsUnion_zero]
  by_cases h12 : vop = 0x12
  · have hkb := hb (by unfold twoOperands; rw [h12]; decide)
    simp only [if_neg h11, if_pos h12, hkb, flagsUnion_zero, List.foldl_map, hne2, if_false, apply_ite Prod.fst, apply_ite Prod.snd, ite_self]
    exact congrArg (fun fl => (f, _, fl)) (flagsUnion_zero n)
  by_cases hbits : 0x13 ≤ vop ∧ vop ≤ 0x15
  · have hkb := hb (decide_eq_true (by omega))
    simp only [if_neg h11, if_neg h12, if_pos hbits, hkb, flagsUnion_zero, hne3, if_false]
  by_cases hshift : vop = 0x16 ∨ vop = 0x17
  · simp only [if_neg h11, if_neg h12, if_neg hbits, if_pos hshift, flagsUnion_zero]
  by_cases h18 : vop = 0x18
  · obtain ⟨hb, hm, hf⟩ := hconv h18
    have hmode : (modeOf (0 : BitVec 3).toNat).getD .rne = .rne := rfl
    have hsat : nbit (opPay 0x30000) 6 = false := by decide
    have hfinish : ∀ r v, finish f .rne false r (v, 0) = roundRne f v := fun r v => by
      unfold finish roundRne
      rw [roundVal_rne_draw hf false r]
      simp
    simp only [if_neg h11, if_neg h12, if_neg hbits, if_neg hshift, if_pos h18, roundAll_upto, hm, hb, hmode, hsat, hfinish]
  · simp only [if_neg h11, if_neg h12, if_neg hbits, if_neg hshift, if_neg h18, roundAll_upto]
    rfl

/-- The iteration of an elementwise word writes the result of each element, with the union of their flags. -/
theorem elementwise_writes {b : Nat} (h : PlainWord s w) (hfits : WordFits vop w f) (hvop : 1 ≤ vop ∧ vop ≤ 0x18)
    (hbits : (if vop = 0x18 then Fmt.f32 else f).bits = 32) (hdst : (if vop = 0x11 then Fmt.i8 else f).bits = 8 * b)
    (hconv : vop = 0x18 → f = .bf16)
    (ha : w.a.toNat < 65536) (hb : twoOperands vop = true → w.b.toNat < 65536) :
    IterWrites (s.slotZeroEnd vop w) s w 128 b
      (fun e => (elemResult vop w f (s.rawA w e) (s.elemB vop w e) (s.elemSide vop e)).1)
      (flagsUnion 128 fun e => (elemResult vop w f (s.rawA w e) (s.elemB vop w e) (s.elemSide vop e)).2) := by
  have hread : (srcFmt vop w).getD f = if vop = 0x18 then Fmt.f32 else f := by
    unfold srcFmt
    split
    · rw [(hfits.convert ‹_›).1, if_pos (by omega)]
      rfl
    · rw [if_neg (by omega)]
      rfl
  obtain ⟨ra, hA⟩ := operand_slotZero (s := s) (n := 0) (x := s.slotZeroRun vop w) (b := 4) hbits rfl ha (k := 1) (by decide) 0 128
  have hB : ∃ r, (if twoOperands vop then (s.slotZeroRun vop w).operand s 0 (countersOf lntZero 0) w.b 2 0 128 f
      else .ok (f, List.replicate 128 0, [], 0)) = .ok (f, (upto 128).map (s.elemB vop w), r, 0) := by
    unfold State.elemB
    split
    · rename_i h2
      have := of_decide_eq_true h2
      rw [if_neg (by omega)] at hbits
      exact operand_slotZero (b := 4) hbits rfl (hb h2) (by decide) 0 128
    · exact ⟨[], rfl⟩
  have hC : ∃ r, (if vop = 5 then (s.slotZeroRun vop w).sideElems s (countersOf lntZero 0) 3 128 f
      else if vop = 0x12 then (s.slotZeroRun vop w).sideElems s (countersOf lntZero 0) 3 128 .i8
      else .ok (List.replicate 128 0, [])) = .ok ((upto 128).map (s.elemSide vop), r) := by
    unfold State.elemSide
    split
    · rw [if_neg (by omega)] at hbits
      exact sideElems_slotZero (b := 4) hbits rfl 128
    · split
      · exact sideElems_slotZero (b := 1) rfl rfl 128
      · exact ⟨[], rfl⟩
  obtain ⟨rb, hB⟩ := hB
  obtain ⟨rc, hC⟩ := hC
  have hread' : (srcFmt (s.slotZeroRun vop w).vop (s.slotZeroRun vop w).w).getD f = if vop = 0x18 then Fmt.f32 else f := hread
  have hcombine := combine_upto (s := s) (vop := vop) (f := f) (n := 128)
    (fun h18 => ⟨(hfits.convert (.inl h18)).1, (hfits.convert (.inl h18)).2, hconv h18⟩)
    (opKind_of_lt ha) (fun h2 => opKind_of_lt (hb h2)) (s.rawA w) (s.elemB vop w) (s.elemSide vop)
  have heq := elementwise_eq (x := s.slotZeroRun vop w) (t := { s := s }) (n := 0) (cts := countersOf lntZero 0) (f := f) (vl := 128)
    (as := (upto 128).map (s.rawA w)) (by rw [hread']; exact hA) hB hC fun g => place_slotZero rfl h.dst (by decide) 0 128
  rw [slotZeroEnd_of_fits hfits, if_neg (by omega), if_neg (by omega), if_neg (by omega), if_neg (by omega), if_neg (by omega),
    if_neg (by omega), heq]
  simp only [hcombine, slotZeroRun_c]
  exact iterWrites_put hdst rfl rfl (by simp) rfl

/-- A word of a 32-bit format on elements of 32 bits puts each result. -/
theorem elementwise_puts (h : PlainWord s w) (hexec : exec i s = s.vector vop w) (hfits : WordFits vop w f)
    (hvop : 1 ≤ vop ∧ vop ≤ 0x17) (hbits : f.bits = 32) (hcmp : vop ≠ 0x11) (ha : w.a.toNat < 65536)
    (hb : twoOperands vop = true → w.b.toNat < 65536) (r : Nat → Nat × NumFlags) (hlt : ∀ e, (r e).1 < 2 ^ 32)
    (hr : ∀ e, elemResult vop w f (s.rawA w e) (s.elemB vop w e) (s.elemSide vop e) = r e) :
    WordPuts i s w 128 4 (fun e => (r e).1) (flagsUnion 128 fun e => (r e).2) := by
  have ht := elementwise_writes (b := 4) h hfits (by omega) (by rw [if_neg (by omega), hbits]) (by rw [if_neg hcmp, hbits])
    (by omega) ha hb
  simp only [hr] at ht
  exact wordPuts_of_iterWrites h hfits hexec (by decide) (by decide) (fun e _ => hlt e) ht

/-- VMOV to VSILU: each FP32 result is rounded in RNE (R349, R350). -/
theorem arith_puts (h : PlainWord s w) (hexec : exec i s = s.vector vop w) (hvop : 1 ≤ vop ∧ vop ≤ 0x10)
    (ha : w.a.toNat < 65536) (hb : if twoOperands vop then w.b.toNat < 65536 else w.b = 0) (hfmt : w.fmt = 0)
    (hmod : w.mod.toNat ≤ 1) (v : Nat → Val × NumFlags) (hv : ∀ e, vecFn vop (Fmt.f32.val (s.rawA w e))
      (Fmt.f32.val (s.elemB vop w e)) (Fmt.f32.val (s.elemSide vop e)) = v e) :
    WordPuts i s w 128 4 (fun e => (roundSat w (v e)).1) (flagsUnion 128 fun e => (roundSat w (v e)).2) := by
  have hforms : ∀ k, k < 0x11 → 1 ≤ k → vopFmt k .f32 = true ∧ vopSat k = true ∧ 0 ∈ (vopForm k).dst ∧ 0 ∈ (vopForm k).a ∧
      (vopForm k).b = if twoOperands k then [0, 1, 2, 3] else [] := by decide
  obtain ⟨hform, hsat, hkd, hka, hkb⟩ := hforms vop (by omega) hvop.1
  have hb' : w.b.toNat < 65536 ∧ 0 ∈ (vopForm vop).b ∨ (vopForm vop).b = [] ∧ w.b = 0 := by
    rw [hkb]
    split at hb
    · exact .inl ⟨hb, by simp [*]⟩
    · exact .inr ⟨by simp [*], hb⟩
  have hfits : WordFits vop w .f32 := fits_scratch (by rw [hfmt]; rfl) (by rw [hfmt]; decide) rfl h.dst ha (by omega) hform
    (vopSat_mod hsat hmod) hkd hka hb'
  refine elementwise_puts h hexec hfits (by omega) rfl (by omega) ha (fun h2 => by rwa [if_pos h2] at hb)
    (fun e => roundSat w (v e)) (fun e => roundSat_lt w _) fun e => ?_
  unfold elemResult roundSat
  rw [if_neg (by omega), if_neg (by omega), if_neg (by omega), if_neg (by omega), if_neg (by omega), hv, hsat, Bool.true_and,
    getLsbD_zero_of_le_one hmod]

/-- VSEL to VXOR on FP32: the results are bits of the operands, and no element sets a flag (R351). -/
theorem bits_puts (h : PlainWord s w) (hexec : exec i s = s.vector vop w) (hvop : 0x12 ≤ vop ∧ vop ≤ 0x15)
    (ha : w.a.toNat < 65536) (hb : w.b.toNat < 65536) (hfmt : w.fmt = 0) (hmod : w.mod = 0) (r : Nat → Nat)
    (hlt : ∀ e, r e < 2 ^ 32) (hr : ∀ e, elemResult vop w .f32 (s.rawA w e) (s.rawB w e) (s.elemSide vop e) = (r e, 0)) :
    WordPuts i s w 128 4 r (flagsUnion 128 fun _ => 0) := by
  have hforms : ∀ k, k < 0x16 → 0x12 ≤ k → vopFmt k .f32 = true ∧ vopMod k 0 = true ∧ 0 ∈ (vopForm k).dst ∧ 0 ∈ (vopForm k).a ∧
      0 ∈ (vopForm k).b ∧ twoOperands k = true := by decide
  obtain ⟨hform, hkm, hkd, hka, hkb, htwo⟩ := hforms vop (by omega) hvop.1
  have hfits : WordFits vop w .f32 := fits_scratch (by rw [hfmt]; rfl) (by rw [hfmt]; decide) rfl h.dst ha (by omega) hform
    (by rw [hmod]; exact hkm) hkd hka (.inl ⟨hb, hkb⟩)
  exact elementwise_puts h hexec hfits (by omega) rfl (by omega) ha (fun _ => hb) (fun e => (r e, 0)) hlt fun e => by
    unfold State.elemB
    rw [if_pos htwo, hr]

/-- VSHL and VSHR on I32 (R351). -/
theorem shift_puts (h : PlainWord s w) (hexec : exec i s = s.vector vop w) (hvop : vop = 0x16 ∧ w.mod = 0 ∨ vop = 0x17)
    (ha : w.a.toNat < 65536) (hb : w.b.toNat < 65536) (hfmt : w.fmt = 4) (hmod : w.mod.toNat ≤ 1) :
    WordPuts i s w 128 4 (fun e => vecShift vop (decide (w.mod = 1)) 32 (s.rawA w e) (s.rawB w e))
      (flagsUnion 128 fun _ => 0) := by
  have hforms : vopMod vop w.mod.toNat = true ∧ vopFmt vop .i32 = true ∧ 0 ∈ (vopForm vop).dst ∧ 0 ∈ (vopForm vop).a ∧
      0 ∈ (vopForm vop).b ∧ twoOperands vop = true := by
    obtain ⟨rfl, hm⟩ | rfl := hvop
    · rw [hm]
      decide
    · exact ⟨decide_eq_true hmod, by decide⟩
  obtain ⟨hkm, hform, hkd, hka, hkb, htwo⟩ := hforms
  have hfits : WordFits vop w .i32 := fits_scratch (by rw [hfmt]; rfl) (by rw [hfmt]; decide) rfl h.dst ha (by omega) hform
    hkm hkd hka (.inl ⟨hb, hkb⟩)
  have hlt : ∀ arith x y, x < 2 ^ 32 → vecShift vop arith 32 x y < 2 ^ 32 := fun arith x y hx => by
    unfold vecShift
    dsimp only
    split
    · exact Nat.mod_lt _ (Nat.two_pow_pos 32)
    · split
      · exact low_lt 32 _
      · exact Nat.lt_of_le_of_lt (Nat.div_le_self _ _) hx
  exact elementwise_puts h hexec hfits (by omega) rfl (by omega) ha (fun _ => hb)
    (fun e => (vecShift vop (decide (w.mod = 1)) 32 (s.rawA w e) (s.rawB w e), 0))
    (fun e => hlt _ _ _ (sval_lt s _ _ 4)) fun e => by
      unfold elemResult State.elemB
      rw [if_neg (by omega), if_neg (by omega), if_neg (by omega), if_pos (by omega), if_pos htwo,
        getLsbD_zero_of_le_one hmod]
      rfl

/-- VCMP on FP32 writes a byte an element (R351). -/
theorem vcmp_puts (h : PlainWord s w) (ha : w.a.toNat < 65536) (hb : w.b.toNat < 65536) (hfmt : w.fmt = 0) :
    WordPuts (.vcmp w) s w 128 1
      (fun e => if vecPred w.mod.toNat (Fmt.f32.val (s.rawA w e)) (Fmt.f32.val (s.rawB w e)) then 1 else 0) 0 := by
  have hfits : WordFits 0x11 w .f32 := fits_scratch (by rw [hfmt]; rfl) (by rw [hfmt]; decide) rfl h.dst ha (by decide) (by decide)
    rfl (by decide) (by decide) (.inl ⟨hb, by decide⟩)
  have ht := elementwise_writes (b := 1) h hfits (by decide) rfl rfl (by decide) ha fun _ => hb
  rw [show (flagsUnion 128 fun e => (elemResult 0x11 w .f32 (s.rawA w e) (s.elemB 0x11 w e) (s.elemSide 0x11 e)).2) = 0 from
    flagsUnion_zero 128] at ht
  exact wordPuts_of_iterWrites h hfits rfl (by decide) (by decide) (fun e _ => by split <;> decide) ht

/-- VCVT from FP32 to BF16 rounds in RNE (R352). -/
theorem vcvt_puts (h : PlainWord s w) (ha : w.a.toNat < 65536) (hb : w.b = 0x30000) (hfmt : w.fmt = 1) (hmod : w.mod = 0) :
    WordPuts (.vcvt w) s w 128 2 (fun e => (roundRne .bf16 (Fmt.f32.val (s.rawA w e))).1)
      (flagsUnion 128 fun e => (roundRne .bf16 (Fmt.f32.val (s.rawA w e))).2) := by
  have hfits : WordFits 0x18 w .bf16 := {
    vop_lt := by decide
    vop_ne := by decide
    fmt := by rw [hfmt]; rfl
    fmt_ne := by rw [hfmt]; decide
    format := rfl
    mod := rfl
    dst := .scratch h.dst (by decide)
    a := .scratch ha (by decide)
    b := by rw [hb]; exact .inr (by decide)
    convert := fun _ => ⟨hb, hmod⟩
    drain := fun h => absurd h (by decide)
    lanes := by
      have hsrc : srcFmt 0x18 w = some .f32 := by unfold srcFmt; rw [hb]; decide
      rw [hsrc]
      exact lanesFor_eq (.inr ⟨rfl, by decide⟩) }
  exact wordPuts_of_iterWrites h hfits rfl (by decide) (by decide) (fun e _ => roundVal_lt_float (.inr rfl) ..)
    (elementwise_writes (b := 2) h hfits (by decide) rfl rfl (fun _ => rfl) ha fun h2 => absurd h2 (by decide))

end ElementWords

end Sys2Proof.Machine

/-! ## Reductions and scans (R354) -/

namespace Sys2Proof.Machine

section Reductions

variable {s : State} {w : VWord} {vop : Nat} {i : Instr}

/-- The value of element `e` of A in FP32. -/
def State.valA (s : State) (w : VWord) (e : Nat) : Val := Fmt.f32.val (s.rawA w e)

/-- A reduction or scan of a scratch operand in FP32 passes its checks. -/
theorem fits_reduction (h : PlainWord s w) (hvop : 0x1A ≤ vop ∧ vop ≤ 0x1C) (ha : w.a.toNat < 65536) (hb : w.b = 0) (hfmt : w.fmt = 0)
    (hmod : w.mod.toNat ≤ 1) : WordFits vop w .f32 ∧ vopSat vop = true := by
  have hforms : ∀ k, k < 0x1D → 0x1A ≤ k → vopFmt k .f32 = true ∧ vopSat k = true ∧ 0 ∈ (vopForm k).dst ∧ 0 ∈ (vopForm k).a ∧
      (vopForm k).b = [] := by decide
  obtain ⟨hform, hsat, hkd, hka, hkb⟩ := hforms vop (by omega) hvop.1
  exact ⟨fits_scratch (by rw [hfmt]; rfl) (by rw [hfmt]; decide) rfl h.dst ha (by omega) hform (vopSat_mod hsat hmod) hkd hka
    (.inr ⟨hkb, hb⟩), hsat⟩

/-- Operand A of a word in a format of 32 bits. -/
theorem operandA_slotZero {f : Fmt} (hf : f.bits = 32) (ha : w.a.toNat < 65536) : ∃ r,
    (s.slotZeroRun vop w).operand s 0 (countersOf lntZero 0) w.a 1 0 128 f = .ok (f, (upto 128).map (s.rawA w), r, 0) :=
  operand_slotZero (b := 4) hf rfl ha (by decide) 0 128

theorem sat_slotZeroRun (hmod : w.mod.toNat ≤ 1) (hsat : vopSat vop = true) : (s.slotZeroRun vop w).sat = decide (w.mod = 1) := by
  unfold VRun.sat
  rw [slotZeroRun_vop, slotZeroRun_w, hsat, getLsbD_zero_of_le_one hmod, Bool.true_and]

/-- VRSUM and VRMAX round the result of the pairwise tree and write one element (R228, R354). -/
theorem reduce_puts (h : PlainWord s w) (hexec : exec i s = s.vector vop w) (hvop : vop = 0x1A ∨ vop = 0x1B)
    (ha : w.a.toNat < 65536) (hb : w.b = 0) (hfmt : w.fmt = 0) (hmod : w.mod.toNat ≤ 1) :
    WordPuts i s w 1 4 (fun _ => (roundSat w (treeOf (reduceFn vop) 10 ((upto 128).map (s.valA w)))).1)
      (roundSat w (treeOf (reduceFn vop) 10 ((upto 128).map (s.valA w)))).2 := by
  obtain ⟨hfits, hsat⟩ := fits_reduction (vop := vop) h (by omega) ha hb hfmt hmod
  refine wordPuts_of_iterWrites h hfits hexec (by decide) (by decide) (fun e _ => roundSat_lt w _) ?_
  obtain ⟨ra, hA⟩ := operandA_slotZero (s := s) (vop := vop) (f := .f32) rfl ha
  have hlast : ¬(countersOf lntZero 0).getD 5 0 + 1 < levelCount lntZero 5 := by rw [counter_lntZero, levelCount_lntZero.2]; decide
  have hP := (addr_slotZero (x := s.slotZeroRun vop w) rfl h.dst (k := 0) (by decide)).2
  have hd : ¬opKind w.dst = 1 := by rw [opKind_of_lt h.dst]; decide
  have hvals : ((upto 128).map (s.rawA w)).map Fmt.f32.val = (upto 128).map (s.valA w) := List.map_map
  rw [slotZeroEnd_of_fits hfits, if_neg (by omega), if_pos hvop]
  unfold VRun.reduce
  simp only [slotZeroRun_vop, slotZeroRun_w, slotZeroRun_c, slotZeroRun_img, slotZeroRun_aPipe, hA, ok_bind, hvals,
    if_neg hlast, if_neg hd, hP, sat_slotZeroRun hmod hsat]
  exact iterWrites_put (b := 4) rfl rfl rfl (by simp [roundSat, finish]) (by simp [upto, roundSat, finish])

/-- A list by its elements. -/
theorem map_eq_upto {α β : Type} {l : List α} {n : Nat} (hl : l.length = n) (d : α) (g : α → β) :
    l.map g = (upto n).map fun e => g (l.getD e d) := by
  subst hl
  refine List.ext_getElem (by simp [upto]) fun e he _ => ?_
  rw [List.length_map] at he
  simp [upto, he]

theorem prefixes_length (f : Val → Val → Val × NumFlags) (l : List Val) : ∀ p, (prefixes f p l).1.length = l.length := by
  induction l with
  | nil => exact fun _ => rfl
  | cons v vs ih => exact fun p => congrArg (· + 1) (ih _)

/-- VSCAN rounds every prefix (R354). -/
theorem vscan_puts (h : PlainWord s w) (ha : w.a.toNat < 65536) (hb : w.b = 0) (hfmt : w.fmt = 0) (hmod : w.mod.toNat ≤ 1) :
    WordPuts (.vscan w) s w 128 4
      (fun e => (roundSat w ((prefixes (reduceFn 0x1C) none ((upto 128).map (s.valA w))).1.getD e .nan, 0)).1)
      ((prefixes (reduceFn 0x1C) none ((upto 128).map (s.valA w))).2 |||
        flagsUnion 128 fun e => (roundSat w ((prefixes (reduceFn 0x1C) none ((upto 128).map (s.valA w))).1.getD e .nan, 0)).2) := by
  obtain ⟨hfits, hsat⟩ := fits_reduction (vop := 0x1C) h (by decide) ha hb hfmt hmod
  refine wordPuts_of_iterWrites h hfits rfl (by decide) (by decide) (fun e _ => roundSat_lt w _) ?_
  obtain ⟨ra, hA⟩ := operandA_slotZero (s := s) (vop := 0x1C) (f := .f32) rfl ha
  have hP := place_slotZero (x := s.slotZeroRun 0x1C w) (n := 0) (f := .f32) rfl h.dst (k := 0) (by decide) 0 128
  have hvals : ((upto 128).map (s.rawA w)).map Fmt.f32.val = (upto 128).map (s.valA w) := List.map_map
  have hlen : (prefixes (reduceFn 0x1C) none ((upto 128).map (s.valA w))).1.length = 128 := by
    rw [prefixes_length, List.length_map, upto, List.length_range]
  have hpairs := map_eq_upto hlen Val.nan fun v => (v, (0 : NumFlags))
  rw [slotZeroEnd_of_fits hfits, if_neg (by decide), if_neg (by decide), if_pos rfl]
  unfold VRun.scan
  simp only [slotZeroRun_w, slotZeroRun_c, slotZeroRun_aPipe, slotZeroRun_dstPipe, hA, hP, ok_bind, hvals, counter_lntZero, if_true,
    sat_slotZeroRun hmod hsat, hpairs, roundAll_upto]
  exact iterWrites_put (b := 4) rfl rfl rfl (by simp [roundSat, finish]) rfl

end Reductions

end Sys2Proof.Machine

/-! ## Tables: VGATH, VSCAT and VHINS (R355, R356) -/

namespace Sys2Proof.Machine

section Tables

variable {s : State} {w : VWord} {vop c : Nat} {f : Fmt}

/-- The address of element `idx` of a table of 32-bit elements at `base`. -/
def tableAddr (base idx : Nat) : Nat := (base + 4 * idx) % 0x200000

theorem tablePos_eq (hf : f.bits = 32) (base idx : Nat) : tablePos f base idx = 2 * tableAddr base idx := by
  unfold tablePos tableAddr scratchNibs Fmt.nibs
  rw [hf]
  omega

theorem elemAt_tablePos (hf : f.bits = 32) (c base idx : Nat) : s.elemAt c f (tablePos f base idx) = s.sval c (base + 4 * idx) 4 := by
  have := elemAt_eq_sval (s := s) (f := f) (b := 4) hf c (tableAddr base idx) 0
  rw [Nat.zero_mul, Nat.add_zero, Nat.mul_zero, Nat.add_zero] at this
  rw [tablePos_eq hf, this, tableAddr, State.sval_mod]

theorem dvd_tableAddr {base : Nat} (h : 4 ∣ base) (idx : Nat) : 4 ∣ tableAddr base idx := by
  unfold tableAddr
  omega

/-- VGATH and VSCAT on FP32 elements with scratch operands pass their checks. -/
theorem fits_gather (h : PlainWord s w) (hvop : vop = 0x1D ∨ vop = 0x1E) (ha : w.a.toNat < 65536) (hb : w.b = 0) (hfmt : w.fmt = 0)
    (hmod : w.mod = 0) : WordFits vop w .f32 := by
  have hforms : vopFmt vop .f32 = true ∧ vopMod vop 0 = true ∧ 0 ∈ (vopForm vop).dst ∧ 0 ∈ (vopForm vop).a ∧ (vopForm vop).b = [] := by
    obtain rfl | rfl := hvop <;> decide
  obtain ⟨hform, hkm, hkd, hka, hkb⟩ := hforms
  exact fits_scratch (by rw [hfmt]; rfl) (by rw [hfmt]; decide) rfl h.dst ha (by omega) hform (by rw [hmod]; exact hkm) hkd hka
    (.inr ⟨hkb, hb⟩)

/-- The indices of stream 3. -/
theorem indices_slotZero : ∃ r, (s.slotZeroRun vop w).sideElems s (countersOf lntZero 0) 3 128 .i32 =
    .ok ((upto 128).map s.rawSide, r) := sideElems_slotZero (b := 4) rfl rfl 128

/-- VGATH writes the table's element at each index (R355). -/
theorem vgath_puts (h : PlainWord s w) (ha : w.a.toNat < 65536) (hb : w.b = 0) (hfmt : w.fmt = 0) (hmod : w.mod = 0) :
    WordPuts (.vgath w) s w 128 4 (fun e => s.sval s.actor.core (32 * w.a.toNat + 4 * s.rawSide e) 4) 0 := by
  have hfits := fits_gather (vop := 0x1D) h (.inl rfl) ha hb hfmt hmod
  refine wordPuts_of_iterWrites h hfits rfl (by decide) (by decide) (fun e _ => sval_lt s _ _ 4) ?_
  obtain ⟨r, hI⟩ := indices_slotZero (s := s) (w := w) (vop := 0x1D)
  have hA := (addr_slotZero (x := s.slotZeroRun 0x1D w) rfl ha (k := 1) (by decide)).1
  have hP := place_slotZero (x := s.slotZeroRun 0x1D w) (n := 0) (f := .f32) rfl h.dst (k := 0) (by decide) 0 128
  rw [slotZeroEnd_of_fits hfits, if_neg (by decide), if_neg (by decide), if_neg (by decide), if_pos (.inl rfl)]
  unfold VRun.gather
  simp only [slotZeroRun_vop, slotZeroRun_w, slotZeroRun_c, slotZeroRun_dstPipe, hA, hI, hP, ok_bind, if_true, List.map_map,
    elemAt_tablePos (f := .f32) rfl]
  exact iterWrites_put (b := 4) rfl rfl rfl rfl rfl

/-- Elements put one at a time are elements stored in order. -/
theorem foldl_put_eq {c base : Nat} (hf : f.bits = 32) (l : List (Nat × Nat)) : ∀ t : VSt, ∃ u : VSt,
    l.foldl (fun t v => t.put c f (tablePos f base v.1) [v.2]) t = u ∧ u.err = t.err ∧ u.flags = t.flags ∧
      u.s = t.s.storeElems c 4 (l.map fun v => (tableAddr base v.1, v.2)) := by
  induction l with
  | nil => exact fun t => ⟨t, rfl, rfl, rfl, rfl⟩
  | cons v l ih =>
    intro t
    obtain ⟨u, hu, herr, hflags, hs⟩ := ih (t.put c f (tablePos f base v.1) [v.2])
    refine ⟨u, hu, herr, hflags, ?_⟩
    have hput := put_eq_storeElems (f := f) (b := 4) hf t c (tableAddr base v.1) 1 fun _ => v.2
    rw [hs, List.map_cons, State.storeElems_cons, tablePos_eq hf]
    exact congrArg (State.storeElems · c 4 _) hput

/-- VSCAT writes each element at its index in order, so that the last at an index stays (R355). -/
theorem vscat_writes (h : PlainWord s w) (ha : w.a.toNat < 65536) (hb : w.b = 0) (hfmt : w.fmt = 0) (hmod : w.mod = 0) :
    ∃ t : State, exec (.vscat w) s = .next t ∧
      (∀ e, e < 128 → (∀ m, e < m → m < 128 → tableAddr (32 * w.dst.toNat) (s.rawSide m) ≠ tableAddr (32 * w.dst.toNat) (s.rawSide e)) →
        t.sval s.actor.core (tableAddr (32 * w.dst.toNat) (s.rawSide e)) 4 = s.rawA w e) ∧
      (∀ p, p < 0x200000 → (∀ e n, e < 128 → n < 4 → p ≠ tableAddr (32 * w.dst.toNat) (s.rawSide e) + n) →
        t.sbyte s.actor.core p = s.sbyte s.actor.core p) ∧ WordEnds s t w 0 := by
  have hfits := fits_gather (vop := 0x1E) h (.inr rfl) ha hb hfmt hmod
  obtain ⟨r, hI⟩ := indices_slotZero (s := s) (w := w) (vop := 0x1E)
  obtain ⟨ra, hA⟩ := operandA_slotZero (s := s) (vop := 0x1E) (f := .f32) rfl ha
  have hD := (addr_slotZero (x := s.slotZeroRun 0x1E w) rfl h.dst (k := 0) (by decide)).1
  have hzip : ((upto 128).map s.rawSide).zip ((upto 128).map (s.rawA w)) = (upto 128).map fun e => (s.rawSide e, s.rawA w e) :=
    List.zip_map' ..
  obtain ⟨herr, hflags, hs⟩ : (s.slotZeroEnd 0x1E w).err = none ∧ (s.slotZeroEnd 0x1E w).flags = 0 ∧ (s.slotZeroEnd 0x1E w).s =
      s.storeElems s.actor.core 4 ((upto 128).map fun e => (tableAddr (32 * w.dst.toNat) (s.rawSide e), s.rawA w e)) := by
    rw [slotZeroEnd_of_fits hfits, if_neg (by decide), if_neg (by decide), if_neg (by decide), if_pos (.inr rfl)]
    unfold VRun.gather
    simp only [slotZeroRun_vop, slotZeroRun_w, slotZeroRun_c, slotZeroRun_aPipe, hA, hI, hD, hzip, ok_bind,
      show ¬(0x1E = 0x1D) by decide, if_false]
    obtain ⟨u, hu, herr, hflags, hs⟩ := foldl_put_eq (c := s.actor.core) (f := .f32) (base := 32 * w.dst.toNat) rfl
      ((upto 128).map fun e => (s.rawSide e, s.rawA w e)) { s := s, reads := [] ++ r ++ ra, elems := 0 + 128 }
    rw [hu, List.map_map] at *
    exact ⟨herr, hflags, hs⟩
  have haddr : ∀ e, 4 ∣ tableAddr (32 * w.dst.toNat) (s.rawSide e) := fun e => dvd_tableAddr (by omega) _
  have hmod' : ∀ e, tableAddr (32 * w.dst.toNat) (s.rawSide e) % 0x200000 = tableAddr (32 * w.dst.toNat) (s.rawSide e) :=
    fun e => Nat.mod_mod _ _
  obtain ⟨t, hrun, hread, hframe, hends⟩ := vector_stores h hfits (by decide) haddr herr hs
  refine ⟨t, hrun, fun e he hlast => ?_, fun p hp hout => hframe p hp fun e he => ?_, hflags ▸ hends⟩
  · exact hread e he (sval_lt s _ _ 4) fun m hem hm => by rw [hmod', hmod']; exact hlast m hem hm
  · rw [hmod']
    refine Decidable.byContradiction fun hin => ?_
    exact hout e (p - tableAddr (32 * w.dst.toNat) (s.rawSide e)) he (by omega) (by omega)

/-! ### VHINS -/

/-- The slot that VHINS looks at first for a key (R356). -/
def homeSlot (w : VWord) (key : Nat) : Nat :=
  (32 * w.dst.toNat + 8 * ((key ^^^ key / 2 ^ 13) % 2 ^ (6 + w.mod.toNat))) % 0x200000

theorem dvd_homeSlot (w : VWord) (key : Nat) : 8 ∣ homeSlot w key := by
  unfold homeSlot
  omega

/-- A step that changes nothing. -/
theorem foldl_upto_skip {σ α : Type} {F : σ → α → σ} {x : Nat → α} (n : Nat) (t : σ) (hF : ∀ m, m < n → ∀ t, F t (x m) = t) :
    ((upto n).map x).foldl F t = t := by
  induction n with
  | zero => rfl
  | succ n ih =>
    unfold upto at ih ⊢
    rw [List.range_succ, List.map_append, List.foldl_append, ih fun m hm => hF m (by omega)]
    exact hF n (by omega) t

/-- A step that changes nothing but at one element. -/
theorem foldl_upto_single {σ α : Type} {F : σ → α → σ} {x : Nat → α} {e : Nat} (n : Nat) (he : e < n) (t : σ)
    (hF : ∀ m, m < n → m ≠ e → ∀ t, F t (x m) = t) : ((upto n).map x).foldl F t = F t (x e) := by
  induction n with
  | zero => omega
  | succ n ih =>
    have hsplit : ((upto (n + 1)).map x).foldl F t = F (((upto n).map x).foldl F t) (x n) := by
      unfold upto
      rw [List.range_succ, List.map_append, List.foldl_append]
      rfl
    rw [hsplit]
    by_cases hen : e = n
    · rw [foldl_upto_skip n t fun m hm => hF m (by omega) (by omega), hen]
    · rw [ih (by omega) fun m hm => hF m (by omega), hF n (by omega) (Ne.symm hen)]

/-- VHINS with scratch operands passes its checks. -/
theorem fits_insert (h : PlainWord s w) (ha : w.a.toNat < 65536) (hb : w.b.toNat < 65536) (hfmt : w.fmt = 0) : WordFits 0x1F w .f32 :=
  fits_scratch (by rw [hfmt]; rfl) (by rw [hfmt]; decide) rfl h.dst ha (by decide) rfl rfl (by decide) (by decide)
    (.inl ⟨hb, by decide⟩)

/-- What VHINS makes of one pair. -/
def insertPair (s : State) (w : VWord) (t : VSt) (v : Nat × Nat) : VSt :=
  if t.err.isSome || decide (v.1 = 0xFFFFFFFF) then t
  else hashProbe s.actor.core (32 * w.dst.toNat) (2 ^ (6 + w.mod.toNat)) .f32 v.1 v.2
    ((v.1 ^^^ v.1 / 2 ^ 13) % 2 ^ (6 + w.mod.toNat)) 8 0 t

/-- The iteration of VHINS inserts its pairs in order. -/
theorem insert_eq (h : PlainWord s w) (ha : w.a.toNat < 65536) (hb : w.b.toNat < 65536) (hfmt : w.fmt = 0) :
    ∃ r, s.slotZeroEnd 0x1F w = ((upto 128).map fun e => (s.rawA w e, s.rawB w e)).foldl (insertPair s w)
      { s := s, reads := r, elems := 128 } := by
  have hfits := fits_insert h ha hb hfmt
  obtain ⟨ra, hA⟩ := operandA_slotZero (s := s) (vop := 0x1F) (f := .i32) rfl ha
  obtain ⟨rb, hB⟩ := operand_slotZero (s := s) (n := 0) (x := s.slotZeroRun 0x1F w) (f := .f32) (b := 4) rfl rfl hb (k := 2)
    (by decide) 0 128
  have hD := (addr_slotZero (x := s.slotZeroRun 0x1F w) rfl h.dst (k := 0) (by decide)).1
  rw [slotZeroEnd_of_fits hfits, if_neg (by decide), if_neg (by decide), if_neg (by decide), if_neg (by decide), if_pos rfl]
  unfold VRun.insert
  simp only [slotZeroRun_w, slotZeroRun_c, slotZeroRun_aPipe, slotZeroRun_bPipe, hA, hB, hD, ok_bind, List.zip_map']
  exact ⟨_, rfl⟩

/-- A word of nothing but padding inserts nothing. -/
theorem vhins_padding (h : PlainWord s w) (ha : w.a.toNat < 65536) (hb : w.b.toNat < 65536) (hfmt : w.fmt = 0)
    (hpad : ∀ e, e < 128 → s.rawA w e = 0xFFFFFFFF) :
    ∃ t : State, exec (.vhins w) s = .next t ∧ SameBytes s t ∧ WordEnds s t w 0 := by
  have hfits := fits_insert h ha hb hfmt
  obtain ⟨r, hend⟩ := insert_eq h ha hb hfmt
  have hskip : ∀ e, e < 128 → ∀ t, insertPair s w t (s.rawA w e, s.rawB w e) = t := fun e he t => by
    unfold insertPair
    rw [if_pos (by simp [hpad e he])]
  rw [foldl_upto_skip 128 _ hskip] at hend
  obtain ⟨t, hrun, hbytes, hends⟩ := vector_slotZero h hfits.vop_lt hfits.vop_ne (vecCheck_of_fits hfits h.rsv h.lnt)
    hfits.a.noPipe hfits.b.noPipe (by rw [hend]) (by rw [hend]; exact .refl s _)
  rw [hend] at hbytes hends
  exact ⟨t, hrun, ⟨hends.2.2.1, hbytes⟩, hends⟩

/-- The iteration with one key only inserts it at its home slot, or goes on from there. -/
theorem insert_single (h : PlainWord s w) (ha : w.a.toNat < 65536) (hb : w.b.toNat < 65536) (hfmt : w.fmt = 0) {e : Nat}
    (he : e < 128) (hkey : s.rawA w e ≠ 0xFFFFFFFF) (hpad : ∀ m, m < 128 → m ≠ e → s.rawA w m = 0xFFFFFFFF) :
    ∃ r, s.slotZeroEnd 0x1F w = hashProbe s.actor.core (32 * w.dst.toNat) (2 ^ (6 + w.mod.toNat)) .f32 (s.rawA w e) (s.rawB w e)
      ((s.rawA w e ^^^ s.rawA w e / 2 ^ 13) % 2 ^ (6 + w.mod.toNat)) 8 0 { s := s, reads := r, elems := 128 } := by
  obtain ⟨r, hend⟩ := insert_eq h ha hb hfmt
  refine ⟨r, ?_⟩
  rw [hend, foldl_upto_single 128 he]
  · unfold insertPair
    rw [if_neg (by simpa using hkey)]
  · intro m hm hme t
    unfold insertPair
    rw [if_pos (by simp [hpad m hm hme])]

/-- The first probe looks at the home slot. -/
theorem hashProbe_home (w : VWord) (f : Fmt) (key val k : Nat) (t : VSt) :
    hashProbe c (32 * w.dst.toNat) (2 ^ (6 + w.mod.toNat)) f key val ((key ^^^ key / 2 ^ 13) % 2 ^ (6 + w.mod.toNat)) (k + 1) 0 t =
      if t.s.sval c (homeSlot w key) 4 = key then
        { t.put c .f32 (2 * (homeSlot w key + 4)) [(finish .f32 .rne false 0
            (vadd (Fmt.f32.val (t.s.sval c (homeSlot w key + 4) 4)) (f.val val))).1] with
          flags := t.flags ||| (finish .f32 .rne false 0 (vadd (Fmt.f32.val (t.s.sval c (homeSlot w key + 4) 4)) (f.val val))).2 }
      else if t.s.sval c (homeSlot w key) 4 = 0xFFFFFFFF then
        (t.put c .i32 (2 * homeSlot w key) [key]).put c .f32 (2 * (homeSlot w key + 4)) [(roundRne .f32 (f.val val)).1]
      else hashProbe c (32 * w.dst.toNat) (2 ^ (6 + w.mod.toNat)) f key val ((key ^^^ key / 2 ^ 13) % 2 ^ (6 + w.mod.toNat)) k 1 t := by
  rw [hashProbe, Nat.add_zero, Nat.mod_mod]
  rfl

/-- VHINS leaves the key and the value `v` in the key's home slot, changes no other byte and sets the flags `fl`. -/
def SlotBecomes (s : State) (w : VWord) (key v : Nat) (fl : NumFlags) : Prop :=
  ∃ t : State, exec (.vhins w) s = .next t ∧ t.sval s.actor.core (homeSlot w key) 4 = key ∧
    t.sval s.actor.core (homeSlot w key + 4) 4 = v ∧
    (∀ p, p < 0x200000 → p < homeSlot w key ∨ homeSlot w key + 8 ≤ p → t.sbyte s.actor.core p = s.sbyte s.actor.core p) ∧
    WordEnds s t w fl

section OneKey

variable {e : Nat} (h : PlainWord s w) (ha : w.a.toNat < 65536) (hb : w.b.toNat < 65536) (hfmt : w.fmt = 0) (he : e < 128)
  (hkey : s.rawA w e ≠ 0xFFFFFFFF) (hpad : ∀ m, m < 128 → m ≠ e → s.rawA w m = 0xFFFFFFFF)

include h ha hb hfmt he hkey hpad

/-- A key found in its home slot: the value is added to the slot's (R356). -/
theorem vhins_hit (hslot : s.sval s.actor.core (homeSlot w (s.rawA w e)) 4 = s.rawA w e) :
    SlotBecomes s w (s.rawA w e)
      (finish .f32 .rne false 0 (vadd (Fmt.f32.val (s.sval s.actor.core (homeSlot w (s.rawA w e) + 4) 4)) (Fmt.f32.val (s.rawB w e)))).1
      (finish .f32 .rne false 0 (vadd (Fmt.f32.val (s.sval s.actor.core (homeSlot w (s.rawA w e) + 4) 4)) (Fmt.f32.val (s.rawB w e)))).2 := by
  obtain ⟨r, hend⟩ := insert_single h ha hb hfmt he hkey hpad
  rw [hashProbe_home, if_pos hslot] at hend
  have hdvd := dvd_homeSlot w (s.rawA w e)
  have hlt : homeSlot w (s.rawA w e) < 0x200000 := Nat.mod_lt _ (by decide)
  have hstore := put_eq_storeElems (f := .f32) (b := 4) rfl { s := s, reads := r, elems := 128 } s.actor.core
    (homeSlot w (s.rawA w e) + 4) 1 fun _ => (finish .f32 .rne false 0
      (vadd (Fmt.f32.val (s.sval s.actor.core (homeSlot w (s.rawA w e) + 4) 4)) (Fmt.f32.val (s.rawB w e)))).1
  obtain ⟨t, hrun, hread, hframe, hends⟩ := vector_stores (n := 1) (width := 4) (a := fun e' => homeSlot w (s.rawA w e) + 4 + 4 * e')
    h (fits_insert h ha hb hfmt) (by decide) (fun _ => by omega) (by rw [hend]; rfl) (by rw [hend]; exact hstore)
  have hout : ∀ p, p < 0x200000 → p < homeSlot w (s.rawA w e) + 4 ∨ homeSlot w (s.rawA w e) + 8 ≤ p →
      t.sbyte s.actor.core p = s.sbyte s.actor.core p := fun p hp hp' => hframe p hp fun m _ => by omega
  refine ⟨t, hrun, ?_, hread 0 (by decide) (roundVal_lt_float (.inl rfl) ..) fun m _ _ => by omega,
    fun p hp hp' => hout p hp (by omega), ?_⟩
  · rw [State.sval_congr fun i hi => hout _ (by omega) (by omega), hslot]
  · rw [hend] at hends
    simpa using hends

/-- A key whose home slot is empty takes it (R356). -/
theorem vhins_empty (hslot : s.sval s.actor.core (homeSlot w (s.rawA w e)) 4 = 0xFFFFFFFF) :
    SlotBecomes s w (s.rawA w e) (roundRne .f32 (Fmt.f32.val (s.rawB w e))).1 0 := by
  obtain ⟨r, hend⟩ := insert_single h ha hb hfmt he hkey hpad
  have hother : ¬s.sval s.actor.core (homeSlot w (s.rawA w e)) 4 = s.rawA w e := fun heq => hkey (heq.symm.trans hslot)
  rw [hashProbe_home, if_neg hother, if_pos hslot] at hend
  have hdvd := dvd_homeSlot w (s.rawA w e)
  have hlt : homeSlot w (s.rawA w e) < 0x200000 := Nat.mod_lt _ (by decide)
  have hstore : (s.slotZeroEnd 0x1F w).s = s.storeElems s.actor.core 4 ((upto 2).map fun e' =>
      (homeSlot w (s.rawA w e) + 4 * e', if e' = 0 then s.rawA w e else (roundRne .f32 (Fmt.f32.val (s.rawB w e))).1)) := by
    have hk := put_eq_storeElems (f := .i32) (b := 4) rfl { s := s, reads := r, elems := 128 } s.actor.core
      (homeSlot w (s.rawA w e)) 1 fun _ => s.rawA w e
    have hv := put_eq_storeElems (f := .f32) (b := 4) rfl (VSt.put { s := s, reads := r, elems := 128 } s.actor.core .i32
      (2 * homeSlot w (s.rawA w e)) [s.rawA w e]) s.actor.core (homeSlot w (s.rawA w e) + 4) 1
      fun _ => (roundRne .f32 (Fmt.f32.val (s.rawB w e))).1
    rw [hend]
    refine hv.trans ?_
    exact congrArg (State.storeElems · s.actor.core 4 _) hk
  obtain ⟨t, hrun, hread, hframe, hends⟩ := vector_stores h (fits_insert h ha hb hfmt) (by decide) (fun _ => by omega)
    (by rw [hend]; rfl) hstore
  refine ⟨t, hrun, hread 0 (by decide) (sval_lt s _ _ 4) fun m _ _ => by omega,
    hread 1 (by decide) (roundVal_lt_float (.inl rfl) ..) fun m _ _ => by omega, fun p hp hp' => hframe p hp fun m _ => by omega, ?_⟩
  rw [hend] at hends
  exact hends

end OneKey

end Tables

end Sys2Proof.Machine

/-! ## VQNT and VDRN (R353, R359) -/

namespace Sys2Proof.Machine

section QuantDrain

variable {s : State} {w : VWord}

/-! ### VQNT -/

/-- A block of VQNT has a byte for each value, and its scale is a byte. -/
theorem quantBlock_i8 (x : VRun) (n : Nat) (vs : List Val) : (x.quantBlock .i8 n vs).1 < 256 ∧
    (x.quantBlock .i8 n vs).2.1.length = vs.length ∧ ∀ v ∈ (x.quantBlock .i8 n vs).2.1, v < 256 := by
  unfold VRun.quantBlock
  split
  · exact ⟨(by decide : 0xFF < 256), by simp, by simp⟩
  · dsimp only
    refine ⟨?_, ?_, fun v hv => ?_⟩
    · split <;> omega
    · simp [roundAll]
    · unfold roundAll at hv
      obtain ⟨r, hr, rfl⟩ := List.mem_map.mp hv
      obtain ⟨p, -, rfl⟩ := List.mem_map.mp hr
      exact roundVal_lt_i8 ..

/-- VQNT's block `j` of the FP32 operand A. -/
def State.quantOf (s : State) (w : VWord) (j : Nat) : Nat × List Nat × NumFlags :=
  (s.slotZeroRun 0x19 w).quantBlock .i8 (32 * j) ((upto 32).map fun i => s.valA w (32 * j + i))

/-- Element `e` of the blocks in a row. -/
theorem flatMap_blocks {n : Nat} (b : Nat → List Nat) (hb : ∀ j, (b j).length = 32) :
    (upto n).flatMap b = (upto (32 * n)).map fun e => (b (e / 32)).getD (e % 32) 0 := by
  unfold upto
  induction n with
  | zero => rfl
  | succ n ih =>
    rw [List.range_succ, List.flatMap_append, ih, Nat.mul_add_one, List.range_add, List.map_append, List.map_map]
    congr 1
    refine List.ext_getElem (by simp [hb]) fun e he _ => ?_
    have he' : e < 32 := by simpa [hb] using he
    simp [Nat.mul_add_div, Nat.div_eq_of_lt he', Nat.mod_eq_of_lt he', hb, he']

/-- VQNT from FP32 to I8 with scratch operands passes its checks. -/
theorem fits_quant (h : PlainWord s w) (ha : w.a.toNat < 65536) (hb : w.b = 0x30000) (hfmt : w.fmt = 3) (hmod : w.mod = 0) :
    WordFits 0x19 w .i8 where
  vop_lt := by decide
  vop_ne := by decide
  fmt := by rw [hfmt]; rfl
  fmt_ne := by rw [hfmt]; decide
  format := rfl
  mod := rfl
  dst := .scratch h.dst (by decide)
  a := .scratch ha (by decide)
  b := by rw [hb]; exact .inr (by decide)
  convert _ := ⟨hb, hmod⟩
  drain h := absurd h (by decide)
  lanes := by
    have hsrc : srcFmt 0x19 w = some .f32 := by unfold srcFmt; rw [hb]; decide
    rw [hsrc]
    exact lanesFor_eq (.inr ⟨rfl, by decide⟩)

/-- The iteration of VQNT writes its elements at DST and then its scales at stream 3. -/
theorem quant_eq (h : PlainWord s w) (ha : w.a.toNat < 65536) (hb : w.b = 0x30000) (hfmt : w.fmt = 3) (hmod : w.mod = 0) :
    (s.slotZeroEnd 0x19 w).err = none ∧ (s.slotZeroEnd 0x19 w).flags = flagsUnion 4 (fun j => (s.quantOf w j).2.2) ∧
    (s.slotZeroEnd 0x19 w).s = (s.storeElems s.actor.core 1 ((upto 128).map fun e =>
      (32 * w.dst.toNat + 1 * e, (s.quantOf w (e / 32)).2.1.getD (e % 32) 0))).storeElems s.actor.core 1
        ((upto 4).map fun j => (0 + 1 * j, (s.quantOf w j).1)) := by
  have hfits := fits_quant h ha hb hfmt hmod
  have hsrc : (srcFmt 0x19 w).getD .f32 = .f32 := by unfold srcFmt; rw [hb]; decide
  obtain ⟨ra, hA⟩ := operandA_slotZero (s := s) (vop := 0x19) (f := .f32) rfl ha
  have hP := place_slotZero (x := s.slotZeroRun 0x19 w) (n := 0) (f := .i8) rfl h.dst (k := 0) (by decide) 0 128
  have hS := side_slotZero (x := s.slotZeroRun 0x19 w) rfl
  have hvals : ((upto 128).map (s.rawA w)).map Fmt.f32.val = (upto 128).map (s.valA w) := List.map_map
  have hblocks : ((upto (128 / 32)).map fun j => (s.slotZeroRun 0x19 w).quantBlock .i8 (0 + 32 * j)
      ((((upto 128).map (s.valA w)).drop (32 * j)).take 32)) = (upto 4).map (s.quantOf w) := by
    refine List.map_congr_left fun j hj => ?_
    have hj' : j < 4 := List.mem_range.mp hj
    unfold State.quantOf
    rw [Nat.zero_add]
    congr 1
    refine List.ext_getElem (by simp [upto]; omega) fun i hi _ => ?_
    simp [upto]
  have hlen : ∀ j, (s.quantOf w j).2.1.length = 32 := fun j => by
    rw [State.quantOf, (quantBlock_i8 _ _ _).2.1, List.length_map, upto, List.length_range]
  rw [slotZeroEnd_of_fits hfits, if_pos rfl]
  unfold VRun.quant
  simp only [slotZeroRun_vop, slotZeroRun_w, slotZeroRun_c, slotZeroRun_aPipe, slotZeroRun_dstPipe, hsrc, hA, hP, hS, ok_bind,
    hvals, hblocks]
  have helems : ((upto 4).map (s.quantOf w)).flatMap (fun b => b.2.1) =
      (upto 128).map fun e => (s.quantOf w (e / 32)).2.1.getD (e % 32) 0 := by
    rw [List.flatMap_map]
    exact flatMap_blocks _ hlen
  refine ⟨rfl, ?_, ?_⟩
  · change ((upto 4).map (s.quantOf w)).foldl (fun a b => a ||| b.2.2) 0 = _
    rw [List.foldl_map]
    rfl
  · rw [helems, List.map_map]
    refine (put_eq_storeElems (f := .e8s) (b := 1) rfl _ _ 0 4 fun j => (s.quantOf w j).1).trans ?_
    exact congrArg (State.storeElems · _ 1 _) (put_eq_storeElems (f := .i8) (b := 1) rfl ..)

/-- A byte is the number that it holds. -/
theorem sval_one (s : State) (c a : Nat) : s.sval c a 1 = (s.sbyte c a).toNat := Nat.add_zero _

/-- VQNT writes its elements at DST and its scales at stream 3 (R353). -/
theorem vqnt_writes (h : PlainWord s w) (ha : w.a.toNat < 65536) (hb : w.b = 0x30000) (hfmt : w.fmt = 3) (hmod : w.mod = 0)
    (hpos : 0 < w.dst.toNat) (hend : 32 * w.dst.toNat + 128 ≤ 0x200000) :
    ∃ t : State, exec (.vqnt w) s = .next t ∧
      (∀ e, e < 128 → (t.sbyte s.actor.core (32 * w.dst.toNat + e)).toNat = (s.quantOf w (e / 32)).2.1.getD (e % 32) 0) ∧
      (∀ j, j < 4 → (t.sbyte s.actor.core j).toNat = (s.quantOf w j).1) ∧
      (∀ p, 4 ≤ p → p < 0x200000 → p < 32 * w.dst.toNat ∨ 32 * w.dst.toNat + 128 ≤ p →
        t.sbyte s.actor.core p = s.sbyte s.actor.core p) ∧ WordEnds s t w (flagsUnion 4 fun j => (s.quantOf w j).2.2) := by
  have hfits := fits_quant h ha hb hfmt hmod
  obtain ⟨herr, hflags, hs⟩ := quant_eq h ha hb hfmt hmod
  obtain ⟨t, hrun, hbytes, hends⟩ := vector_slotZero h hfits.vop_lt hfits.vop_ne (vecCheck_of_fits hfits h.rsv h.lnt)
    hfits.a.noPipe hfits.b.noPipe herr (hs ▸ (ScratchOnly.storeElems _ _ _ s).trans (.storeElems _ _ _ _))
  rw [hflags] at hends
  rw [hs] at hbytes
  have hmem : ∀ {n : Nat} {a g : Nat → Nat} {x : Nat × Nat}, x ∈ (upto n).map (fun e => (a e, g e)) → ∃ e, e < n ∧ x.1 = a e :=
    fun hx => by
      obtain ⟨e, he, rfl⟩ := List.mem_map.mp hx
      exact ⟨e, List.mem_range.mp he, rfl⟩
  -- no byte from 4 on is a scale
  have hscales : ∀ (u : State) p, 4 ≤ p → p < 0x200000 → (u.storeElems s.actor.core 1 ((upto 4).map fun j =>
      (0 + 1 * j, (s.quantOf w j).1))).sbyte s.actor.core p = u.sbyte s.actor.core p := fun u p h4 hp =>
    State.sbyte_storeElems (by decide) hp _ u (fun _ _ => Nat.one_dvd _) fun x hx => by
      obtain ⟨j, hj, hx⟩ := hmem hx
      omega
  refine ⟨t, hrun, fun e he => ?_, fun j hj => ?_, fun p h4 hp hout => ?_, hends⟩
  · have hlt : (s.quantOf w (e / 32)).2.1.getD (e % 32) 0 < 256 := by
      obtain ⟨-, hlen, hall⟩ := quantBlock_i8 (s.slotZeroRun 0x19 w) (32 * (e / 32))
        ((upto 32).map fun i => s.valA w (32 * (e / 32) + i))
      rw [List.getD_eq_getElem?_getD]
      cases hget : (s.quantOf w (e / 32)).2.1[e % 32]? with
      | none => decide
      | some v => exact hall v (List.mem_of_getElem? hget)
    have hread := State.sval_storeElems (c := s.actor.core) (w := 1) (by decide) s he (fun _ _ => Nat.one_dvd _)
      (f := fun e => (32 * w.dst.toNat + 1 * e, (s.quantOf w (e / 32)).2.1.getD (e % 32) 0)) fun m hem hm => by
        dsimp only
        omega
    rw [hbytes, hscales _ _ (by omega) (by omega), ← sval_one, ← Nat.one_mul e]
    exact (hread.trans (Nat.mod_eq_of_lt hlt)).trans (by rw [Nat.one_mul])
  · have hread := State.sval_storeElems (c := s.actor.core) (w := 1) (by decide) (s.storeElems s.actor.core 1 ((upto 128).map
      fun e => (32 * w.dst.toNat + 1 * e, (s.quantOf w (e / 32)).2.1.getD (e % 32) 0))) hj (fun _ _ => Nat.one_dvd _)
      (f := fun j => (0 + 1 * j, (s.quantOf w j).1)) fun m hem hm => by
        dsimp only
        omega
    rw [hbytes, ← sval_one]
    have hj' : 0 + 1 * j = j := by omega
    dsimp only at hread
    rw [hj'] at hread
    exact hread.trans (Nat.mod_eq_of_lt (quantBlock_i8 ..).1)
  · rw [hbytes, hscales _ _ h4 hp]
    refine State.sbyte_storeElems (by decide) hp _ s (fun _ _ => Nat.one_dvd _) fun x hx => ?_
    obtain ⟨e, he, hx⟩ := hmem hx
    omega

/-! ### VDRN -/

/-- VDRN of an accumulator row with an empty chain passes its checks. -/
theorem fits_drain {bank row : Nat} (h : PlainWord s w) (hbank : bank < 4) (hrow : row < 128)
    (ha : w.a.toNat = 0x20000 + 128 * bank + row) (hb : w.b = 0) (hfmt : w.fmt = 0) (hmod : w.mod.toNat ≤ 1) :
    WordFits 0x21 w .f32 ∧ opKind w.a = 2 ∧ opPay w.a = 128 * bank + row := by
  have hkind : opKind w.a = 2 := by
    unfold opKind field nbits
    rw [ha, Nat.shiftRight_eq_div_pow]
    omega
  have hpay : opPay w.a = 128 * bank + row := by
    unfold opPay field nbits
    rw [ha, Nat.shiftRight_zero]
    omega
  exact ⟨{
    vop_lt := by decide
    vop_ne := by decide
    fmt := by rw [hfmt]; rfl
    fmt_ne := by rw [hfmt]; decide
    format := rfl
    mod := vopSat_mod rfl hmod
    dst := .scratch h.dst (by decide)
    a := .inr ⟨by rw [hkind]; decide, by rw [hkind]; decide, fun _ => by omega⟩
    b := .inl ⟨.inr rfl, hb⟩
    convert := fun hv => absurd hv (by decide)
    drain := fun _ => ⟨hb, hfmt⟩
    lanes := lanesFor_eq (.inl ⟨rfl, rfl⟩) }, hkind, hpay⟩

/-- VDRN with an empty chain rounds each element of the row, twice (R359). -/
theorem vdrn_puts {bank row : Nat} (h : PlainWord s w) (hbank : bank < 4) (hrow : row < 128)
    (ha : w.a.toNat = 0x20000 + 128 * bank + row) (hb : w.b = 0) (hfmt : w.fmt = 0) (hmod : w.mod.toNat ≤ 1)
    (hown : s.me.thunks.plannedWord 0 (s.me.ring 0).next = none) (r : Nat → Nat × NumFlags)
    (hr : ∀ e, r e = roundSat w (Fmt.f32.val (roundSat w (Fmt.f32.val (s.ownAcc s.actor.core bank (512 * row + e)).toNat, 0)).1,
      (roundSat w (Fmt.f32.val (s.ownAcc s.actor.core bank (512 * row + e)).toNat, 0)).2)) :
    WordPuts (.vdrn w) s w 128 4 (fun e => (r e).1) (flagsUnion 128 fun e => (r e).2) := by
  obtain ⟨hfits, hkind, hpay⟩ := fits_drain h hbank hrow ha hb hfmt hmod
  refine wordPuts_of_iterWrites h hfits rfl (by decide) (by decide) (fun e _ => by rw [hr]; exact roundSat_lt w _) ?_
  have hA : (s.slotZeroRun 0x21 w).operand s 0 (countersOf lntZero 0) w.a 1 0 128 .f32 =
      .ok (.f32, (upto 128).map fun e => (s.ownAcc s.actor.core bank (512 * row + e)).toNat, [], 0) := by
    have hplanned : (s.slotZeroRun 0x21 w).planned = false := by
      change (s.me.thunks.plannedWord 0 (s.me.ring 0).next).isSome = false
      rw [hown]
      rfl
    have helem : ∀ e ∈ upto 128, (s.ownAcc s.actor.core (opPay w.a / 128) ((2048 * (opPay w.a % 128) +
        (streamOff lntZero (countersOf lntZero 0) 1 % 262144).toNat + 4 * e) % 262144 / 4)).toNat =
          (s.ownAcc s.actor.core bank (512 * row + e)).toNat := fun e he => by
      have he' : e < 128 := List.mem_range.mp he
      rw [hpay, (streamOff_lntZero (by decide)).1, show (128 * bank + row) / 128 = bank by omega,
        show (2048 * ((128 * bank + row) % 128) + ((0 : Int) % 262144).toNat + 4 * e) % 262144 / 4 = 512 * row + e by omega]
    unfold VRun.operand
    simp only [hkind, hplanned, if_true, slotZeroRun_img, slotZeroRun_c, Bool.false_eq_true, if_false]
    rw [List.map_congr_left helem]
  have hP := place_slotZero (x := s.slotZeroRun 0x21 w) (n := 0) (f := .f32) rfl h.dst (k := 0) (by decide) 0 128
  have hzero : List.replicate 128 0 = (upto 128).map fun _ => 0 := rfl
  have hmf : (codeFmt 0).getD .f32 = .f32 := by decide
  rw [slotZeroEnd_of_fits hfits, if_neg (by decide), if_neg (by decide), if_neg (by decide), if_neg (by decide), if_neg (by decide),
    if_pos rfl]
  unfold VRun.drain
  simp only [slotZeroRun_w, slotZeroRun_c, slotZeroRun_img, slotZeroRun_dstPipe, drainSteps_lntZero, chainMfmt_lntZero, hmf, hA, hP,
    List.any_nil, Bool.false_eq_true, if_false, ok_bind, hzero, List.zip_map', zipIdx_upto, List.map_map, List.foldl_nil,
    sat_slotZeroRun (vop := 0x21) hmod rfl]
  have hzero_or : ∀ fl : NumFlags, 0 ||| fl = fl := fun fl => BitVec.zero_or
  refine iterWrites_put (b := 4) rfl rfl rfl ?_ ?_
  · unfold flagsUnion
    simp only [List.foldl_map, hr, roundSat, finish, hzero_or]
    rfl
  · simp only [hr, roundSat]
    rfl

end QuantDrain

end Sys2Proof.Machine

/-! ## The statement -/

namespace Sys2Proof.Machine

section Statement

variable {s : State} {w : VWord}

/-- VSEL takes A's element where the selector's byte is not zero (R351). -/
theorem vsel_result (e : Nat) : elemResult 0x12 w .f32 (s.rawA w e) (s.rawB w e) (s.elemSide 0x12 e) =
    (if s.sbyte s.actor.core e = 0 then s.rawB w e else s.rawA w e, 0) := by
  have hside : s.elemSide 0x12 e = (s.sbyte s.actor.core e).toNat := by
    change s.sval s.actor.core (1 * e) 1 = _
    rw [Nat.one_mul, sval_one]
  have hzero : (s.sbyte s.actor.core e).toNat = 0 ↔ s.sbyte s.actor.core e = 0 := BitVec.toNat_inj (y := 0)
  change (if s.elemSide 0x12 e ≠ 0 then s.rawA w e else s.rawB w e, 0) = _
  rw [hside]
  simp only [ne_eq, hzero, ite_not]

/-- An arithmetic shift of VSHR as the integer of R351. -/
theorem vecShift_right (arith : Bool) (x y : Nat) : vecShift 0x17 arith 32 x y =
    if arith then ((sint 32 x / 2 ^ (y % 32)) % 2 ^ 32).toNat else x / 2 ^ (y % 32) := by
  have hpow : ∀ k : Nat, ((2 ^ k : Nat) : Int) = 2 ^ k := Int.natCast_pow 2
  unfold vecShift low
  rw [← hpow (y % 32), ← hpow 32]
  rfl

end Statement

/-- Settles O27: a word of nest slot 0 runs one iteration (`vector_slotZero`), and each word's lemma says what that iteration
writes and raises. -/
theorem vectorElementsTakeTheirValue : Obligations.VectorElementsTakeTheirValue := by
  unfold Obligations.VectorElementsTakeTheirValue
  intro w s
  dsimp only
  intro hrsv hlnt hdst hflight hjobs hbegins
  have h : PlainWord s w := ⟨hrsv, hlnt, hdst, hflight, hjobs, hbegins⟩
  have hA : ∀ e, s.rawA w e < 2 ^ 32 := fun e => sval_lt s _ _ 4
  have hB : ∀ e, s.rawB w e < 2 ^ 32 := fun e => sval_lt s _ _ 4
  refine ⟨fun ha hb hf hm => ⟨?mov, ?abs, ?neg, ?exp, ?log, ?rcp, ?rsq, ?tanh, ?silu, ?rsum, ?rmax, ?scan⟩,
    fun ha hb hf hm => ⟨?add, ?sub, ?mul, ?fma, ?div, ?min, ?max⟩, fun ha hb hf hm => ⟨?and, ?or, ?xor, ?sel⟩,
    fun ha hb hf hm => ⟨fun hm0 => ?shl, ?shr⟩, fun ha hb hf => ?cmp, fun ha hb hf hm => ?cvt, fun ha hb hf hm hpos hend => ?qnt,
    fun ha hb hf hm => ⟨?gath, ?scat⟩, fun ha hb hf => ⟨fun hpad => ?padding, fun e he hkey hpad => ⟨?hit, ?empty⟩⟩,
    fun bank row hbank hrow ha hb hf hm hown => ?drn⟩
  case mov => exact arith_puts (vop := 1) h rfl (by decide) ha hb hf hm _ fun _ => rfl
  case abs => exact arith_puts (vop := 9) h rfl (by decide) ha hb hf hm _ fun _ => rfl
  case neg => exact arith_puts (vop := 0x0A) h rfl (by decide) ha hb hf hm _ fun _ => rfl
  case exp => exact arith_puts (vop := 0x0B) h rfl (by decide) ha hb hf hm _ fun _ => rfl
  case log => exact arith_puts (vop := 0x0C) h rfl (by decide) ha hb hf hm _ fun _ => rfl
  case rcp => exact arith_puts (vop := 0x0D) h rfl (by decide) ha hb hf hm _ fun _ => rfl
  case rsq => exact arith_puts (vop := 0x0E) h rfl (by decide) ha hb hf hm _ fun _ => rfl
  case tanh => exact arith_puts (vop := 0x0F) h rfl (by decide) ha hb hf hm _ fun _ => rfl
  case silu => exact arith_puts (vop := 0x10) h rfl (by decide) ha hb hf hm _ fun _ => rfl
  case rsum => exact reduce_puts (vop := 0x1A) h rfl (.inl rfl) ha hb hf hm
  case rmax => exact reduce_puts (vop := 0x1B) h rfl (.inr rfl) ha hb hf hm
  case scan => exact vscan_puts h ha hb hf hm
  case add => exact arith_puts (vop := 2) h rfl (by decide) ha hb hf hm _ fun _ => rfl
  case sub => exact arith_puts (vop := 3) h rfl (by decide) ha hb hf hm _ fun _ => rfl
  case mul => exact arith_puts (vop := 4) h rfl (by decide) ha hb hf hm _ fun _ => rfl
  case fma => exact arith_puts (vop := 5) h rfl (by decide) ha hb hf hm _ fun _ => rfl
  case div => exact arith_puts (vop := 6) h rfl (by decide) ha hb hf hm _ fun _ => rfl
  case min => exact arith_puts (vop := 7) h rfl (by decide) ha hb hf hm _ fun _ => rfl
  case max => exact arith_puts (vop := 8) h rfl (by decide) ha hb hf hm _ fun _ => rfl
  case and => exact bits_puts (vop := 0x13) h rfl (by decide) ha hb hf hm _ (fun e => Nat.and_lt_two_pow _ (hB e)) fun _ => rfl
  case or => exact bits_puts (vop := 0x14) h rfl (by decide) ha hb hf hm _ (fun e => Nat.or_lt_two_pow (hA e) (hB e)) fun _ => rfl
  case xor => exact bits_puts (vop := 0x15) h rfl (by decide) ha hb hf hm _ (fun e => Nat.xor_lt_two_pow (hA e) (hB e)) fun _ => rfl
  case sel =>
    exact bits_puts (vop := 0x12) h rfl (by decide) ha hb hf hm _ (fun e => ite_lt (hB e) (hA e)) vsel_result
  case shl => exact shift_puts (vop := 0x16) h rfl (.inl ⟨rfl, hm0⟩) ha hb hf hm
  case shr =>
    have := shift_puts (vop := 0x17) (i := .vshr w) h rfl (.inr rfl) ha hb hf hm
    simp only [vecShift_right, decide_eq_true_eq] at this
    exact this
  case cmp => exact vcmp_puts h ha hb hf
  case cvt => exact vcvt_puts h ha hb hf hm
  case qnt => exact vqnt_writes h ha hb hf hm hpos hend
  case gath => exact vgath_puts h ha hb hf hm
  case scat => exact vscat_writes h ha hb hf hm
  case padding => exact vhins_padding h ha hb hf hpad
  case hit => exact vhins_hit h ha hb hf he hkey hpad
  case empty => exact vhins_empty h ha hb hf he hkey hpad
  case drn => exact vdrn_puts h hbank hrow ha hb hf hm hown _ fun _ => rfl

end Sys2Proof.Machine

/-! ## Precise events and ERET (R253, R382, R383)

An instruction that takes a precise event (`Traps`) enters the handler, which is a change of its strand alone, or fails its
node and ends its strand. The first part says what failing a node leaves alone and what the node then reads as. -/

namespace Sys2Proof.Machine

section FailedNodes

/-- A node whose change keeps its function, queue and index reads as changed. -/
theorem State.node_onNode_same (s : State) (fn q idx : Nat) (f : TaskNode → TaskNode)
    (hf : ∀ n, (f n).fn = n.fn ∧ (f n).q = n.q ∧ (f n).idx = n.idx) :
    (s.onNode fn q idx f).node fn q idx = (s.node fn q idx).map f := by
  have hkey : (fun n : TaskNode => decide (n.fn = fn ∧ n.q = q ∧ n.idx = idx)) ∘
      (fun n => if n.fn = fn ∧ n.q = q ∧ n.idx = idx then f n else n) =
      fun n => decide (n.fn = fn ∧ n.q = q ∧ n.idx = idx) := by
    funext n
    obtain ⟨hfn, hq, hidx⟩ := hf n
    dsimp only [Function.comp_apply]
    split
    · rw [hfn, hq, hidx]
    · rfl
  unfold State.node State.onNode
  rw [List.find?_map, hkey]
  refine Option.map_congr fun n hn => if_pos ?_
  have hfound := List.find?_some hn
  exact of_decide_eq_true hfound

/-- A failure leaves a node's function, queue and index alone. -/
theorem TaskNode.fail_key (n : TaskNode) (status : Nat) (info : Word) :
    (n.fail status info).fn = n.fn ∧ (n.fail status info).q = n.q ∧ (n.fail status info).idx = n.idx := by
  unfold TaskNode.fail
  split <;> exact ⟨rfl, rfl, rfl⟩

variable (s : State) (c status : Nat) (info : Word)

/-- Failing the node of a core changes the list of nodes and nothing else. -/
theorem State.failNodeOf_eq : s.failNodeOf c status info = { s with nodes := (s.failNodeOf c status info).nodes } := by
  unfold State.failNodeOf
  split <;> rfl

@[simp] theorem State.failNodeOf_actor : (s.failNodeOf c status info).actor = s.actor := by
  rw [State.failNodeOf_eq]

@[simp] theorem State.strand_failNodeOf : (s.failNodeOf c status info).strand = s.strand := by
  rw [State.failNodeOf_eq]
  rfl

theorem SameBytes.failNodeOf : SameBytes s (s.failNodeOf c status info) := by
  rw [State.failNodeOf_eq]
  exact ⟨⟨fun _ => rfl, fun _ => rfl⟩, fun _ _ => rfl⟩

/-- The node of the core's gang reads as failed, its first failure kept (Table 8-6). -/
theorem State.node_failNodeOf {g : Gang} (h : s.gang (s.core c).gang = some g) :
    (s.failNodeOf c status info).node g.fn g.q g.idx = (s.node g.fn g.q g.idx).map (fun x => x.fail status info) := by
  unfold State.failNodeOf
  rw [h]
  exact s.node_onNode_same g.fn g.q g.idx _ fun x => x.fail_key status info

end FailedNodes

/-- FAILINFO of a code of eight bits (Table 8-6). -/
theorem failInfo_of_lt {code : Nat} (h : code < 256) (pc : Va) : failInfo code pc = BitVec.ofNat 64 (code + pc.toNat / 4 * 256) := by
  rw [failInfo, Nat.mod_eq_of_lt h]

/-- `State.trap_ends` as a change of the moving strand: failing its node does not change which strand moves. -/
theorem State.trap_ends_onStrand (s : State) (code info : Nat) (h : s.strand.trapVecValid = false ∨ s.strand.inHandler = true) :
    s.trap code info = (s.failNodeOf s.actor.core 5 (failInfo code s.strand.pc)).onStrand Strand.finish := by
  rw [s.trap_ends code info h, State.onStrand, State.onMe, State.failNodeOf_actor]
  rfl

section Events

variable {i : Instr} {s : State} {code info : Nat}

/-- With a valid handler that is not entered, an instruction that takes an event enters it (R253). -/
theorem Traps.enters (h : Traps i s code info) (hv : s.strand.trapVecValid = true) (hn : s.strand.inHandler = false) :
    ∃ u : State, exec i s = .next u ∧ OnlyStrand s u ∧ u.strand = s.strand.enter code info := by
  rw [Traps, s.trap_enters code info hv hn] at h
  exact ⟨_, h, OnlyStrand.onStrand s _, s.strand_onStrand _⟩

/-- With no valid handler, or in one, an instruction that takes an event ends its strand and fails its node (R253). -/
theorem Traps.ends (h : Traps i s code info) (hcode : code < 256)
    (hc : s.strand.trapVecValid = false ∨ s.strand.inHandler = true) :
    ∃ u : State, exec i s = .next u ∧ SameBytes s u ∧ u.strand = s.strand.finish ∧
      ∀ g x, s.gang s.me.gang = some g → s.node g.fn g.q g.idx = some x →
        u.node g.fn g.q g.idx = some (x.fail 5 (BitVec.ofNat 64 (code + s.strand.pc.toNat / 4 * 256))) := by
  rw [Traps, s.trap_ends_onStrand code info hc, failInfo_of_lt hcode] at h
  refine ⟨_, h, (SameBytes.failNodeOf s _ _ _).trans (SameBytes.onStrand _ _), ?strand, fun g x hg hx => ?node⟩
  case strand => rw [State.strand_onStrand, State.strand_failNodeOf]
  case node =>
    have hnode := s.node_failNodeOf s.actor.core 5 (BitVec.ofNat 64 (code + s.strand.pc.toNat / 4 * 256)) hg
    rw [hx] at hnode
    exact hnode

/-- ERET in a handler leaves it and changes nothing outside the strand (R383). -/
theorem exec_eret_inHandler (h : s.strand.inHandler = true) : exec .eret s = .next (s.onStrand Strand.leave) :=
  congrArg Host.Outcome.next (if_pos h)

/-- ERET outside a handler is an illegal instruction (R383). -/
theorem traps_eret (h : s.strand.inHandler = false) : Traps .eret s 1 (wordOf .eret).toNat :=
  congrArg Host.Outcome.next (if_neg (Bool.eq_false_iff.mp h))

end Events

/-- Settles O31: TRAP, DBGBRK, a word with no instruction and ERET outside a handler each take one event (`Traps`), whose two
outcomes are `Traps.enters` and `Traps.ends`; ERET in a handler is one change of its strand. -/
theorem preciseEventsEnterHandler : Obligations.PreciseEventsEnterHandler := by
  unfold Obligations.PreciseEventsEnterHandler
  intro n word s
  have trap : Traps (.trap n) s 0x11 n.toNat := rfl
  have dbgbrk : Traps .dbgbrk s 0x15 0 := rfl
  have illegal : Traps (.illegalInstruction word) s 1 word.toNat := rfl
  refine ⟨⟨trap.enters, trap.ends (by decide)⟩, ⟨dbgbrk.enters, dbgbrk.ends (by decide)⟩,
    ⟨illegal.enters, illegal.ends (by decide)⟩, fun hin => ?leaves, fun hout => ?outside⟩
  case leaves => exact ⟨_, exec_eret_inHandler hin, OnlyStrand.onStrand s _, s.strand_onStrand _⟩
  case outside => exact ⟨(traps_eret hout).enters, (traps_eret hout).ends (by decide)⟩

end Sys2Proof.Machine
